-- ==== Sys2Proof/Word.lean ====
section
/-! DEFINITION. The word types, and the fixed sets of names that instructions are written with:
operands, element types, widths, scopes, orderings, modes (rules R24, R40 to R56, R104 to R112,
R127, R176, R262, R332), and the records that acts of the machine's units carry. -/

namespace Sys2Proof

abbrev Word := BitVec 64
abbrev Byte := BitVec 8
/-- A COREID: die [12:11], cluster [10:4], core [3:0] (R1, R67). -/
abbrev CoreId := BitVec 13

/-- A 6-bit scalar operand specifier (R43); q4 to q7 (52 to 55) name nothing. -/
inductive Opnd where
  | x (r : BitVec 5)
  | hist (n : BitVec 3)
  | ring (h : BitVec 3)
  | port (q : BitVec 2)
  | chan (c : BitVec 3)
  deriving DecidableEq, Repr, Inhabited

/-- The codes of R56. -/
inductive ElemType where
  | i8 | i16 | i32 | e4m3 | e5m2 | bf16 | f16 | f32
  deriving DecidableEq, Repr, Inhabited

/-- The floating formats of R78. -/
inductive Fmt where
  | fp32 | fp16 | bf16 | e5m2 | e4m3 | e3m2 | e2m3 | e2m1
  deriving DecidableEq, Repr, Inhabited

/-- The load codes 0 to 6 of R41. -/
inductive LdWidth where
  | s1 | s2 | s4 | d8 | z1 | z2 | z4
  deriving DecidableEq, Repr, Inhabited

/-- The store codes 0 to 3 of R41. -/
inductive StWidth where
  | w1 | w2 | w4 | w8
  deriving DecidableEq, Repr, Inhabited

/-- The rounding modes of R64. -/
inductive RMode where
  | nearest | zero | up | down | stochastic
  deriving DecidableEq, Repr, Inhabited

/-- The scopes of R262. -/
inductive Scope where
  | strand | core | cluster | die | package | fabric
  deriving DecidableEq, Repr, Inhabited

/-- The orderings of R55. -/
inductive Order where
  | relaxed | acquire | release | both
  deriving DecidableEq, Repr, Inhabited

/-- The kinds of FENCE (R264). -/
inductive FenceKind where
  | full | acquire | release
  deriving DecidableEq, Repr, Inhabited

/-- The element types of the reductions (R249). -/
inductive RedType where
  | i64 | i32 | f32 | bf16
  deriving DecidableEq, Repr, Inhabited

/-- The conditions of VCMP (R127). -/
inductive VCond where
  | eq | ne | lt | le | ltu | leu | un
  deriving DecidableEq, Repr, Inhabited

/-- The codes of FCVT (R106). -/
inductive FcvtOp where
  | f32ToI64 | f32ToI32 | i64ToF32 | i32ToF32 | f32ToBf16 | bf16ToF32
  | f32ToF16 | f16ToF32 | f32ToE4m3 | e4m3ToF32 | f32ToE5m2 | e5m2ToF32
  deriving DecidableEq, Repr, Inhabited

/-- The format pairs of R176. -/
inductive Pair where
  | bf16_bf16 | e4m3_e4m3 | e4m3_e5m2 | e5m2_e4m3 | e5m2_e5m2 | e4m3_vq2
  | e4m3_e3m2 | e4m3_e2m3 | e4m3_e2m1 | i8_i8 | e5m2_vq2
  deriving DecidableEq, Repr, Inhabited

/-- K of a matrix product (R177): 32, 48, 64 or 96. -/
inductive KSize where
  | k32 | k48 | k64 | k96
  deriving DecidableEq, Repr, Inhabited

/-- DSTAT.MODE (R69). -/
inductive DiffMode where
  | fwd | tape | rev
  deriving DecidableEq, Repr, Inhabited

/-- The direction advice of HINT.SCHED (R51). -/
inductive SchedBr where
  | none | taken | notTaken
  deriving DecidableEq, Repr, Inhabited

/-- The issue advice of HINT.SCHED (R51). -/
inductive SchedPri where
  | normal | hi | lo
  deriving DecidableEq, Repr, Inhabited

/-- The cache policy of HINT.MOD (R52). -/
inductive CachePol where
  | default | stream | retain
  deriving DecidableEq, Repr, Inhabited

/-- The element types of a rank's RRS and RRED (R332). -/
inductive RankType where
  | i32 | f32 | bf16
  deriving DecidableEq, Repr, Inhabited

/-- The operations of a rank's RRS and RRED (R332). -/
inductive RankOp where
  | add | min | max
  deriving DecidableEq, Repr, Inhabited

/-- The functions of S.BOP (R332, R335). -/
inductive BopFn where
  | and | or | maj | not | xor | copy
  deriving DecidableEq, Repr, Inhabited

/-- The context on whose behalf an engine works: its core and its CTXID. -/
structure Who where
  core : CoreId
  ctx  : BitVec 32
  deriving DecidableEq, Repr, Inhabited

/-- A launch record as read (R206): the target, whether at KERNEL level, the entry and x1, x2. -/
structure LaunchRec where
  target : CoreId
  kl     : Bool
  pc     : Word
  arg1   : Word
  arg2   : Word
  deriving DecidableEq, Repr, Inhabited

/-- A Cleash packet: the four doublewords of its header, its payload in clear, and its tag (R352); `via` is the member
that encrypted it, its sender or a reduction switch (R362). -/
structure Packet where
  dw0  : Word
  dw1  : Word
  dw2  : Word
  dw3  : Word
  data : List Byte
  via  : BitVec 12
  mac  : BitVec 128
  deriving DecidableEq, Repr, Inhabited

/-- What a host request asks (R364): a launch, a physical read or write under a tenant's ownership,
or an access to control space at MANAGER level, among them the write of LATTOL (R365). -/
inductive HostOp where
  | launch (r : LaunchRec)
  | read (tenant : BitVec 6) (pa : BitVec 52) (n : BitVec 12)
  | write (tenant : BitVec 6) (pa : BitVec 52) (data : List Byte)
  | ctrlRead (off : BitVec 48)
  | ctrlWrite (off : BitVec 48) (v : Word)
  | latTol (v : Word)
  deriving DecidableEq, Repr, Inhabited

/-- A change of the trust domain's membership (R363); what management and the members tell a leader: that this package
leads a new domain, with the key and the generation it draws (R361), and that a member has arrived. -/
inductive MemberOp where
  | join (id : BitVec 12)
  | leave (id : BitVec 12)
  | fail (id : BitVec 12)
  | lead (key : BitVec 256) (kgen : BitVec 32)
  | arrived (id : BitVec 12)
  deriving DecidableEq, Repr, Inhabited

/-- The other end of an SPDM session: the domain's leader, which asks; a member, which answers where this package leads
(R361); the host, which asks (R364). -/
inductive SpdmPeer where
  | leader (id : BitVec 12)
  | member (id : BitVec 12)
  | host
  deriving DecidableEq, Repr, Inhabited

/-- The messages of SPDM 1.3 that R361 lists. NEGOTIATE_ALGORITHMS says whether the options are those of R361 and no
others, pre-shared keys among those refused; KEY_EXCHANGE, whether authentication is mutual; an answer to GET_CERTIFICATE or
GET_MEASUREMENTS, whether it meets the leader's policy. FINISH is followed by the key and the generation of R361's last
sentence. -/
inductive SpdmMsg where
  | getVersion | getCapabilities
  | negotiateAlgorithms (named : Bool)
  | getDigests
  | getCertificate (meets : Bool)
  | challenge
  | getMeasurements (meets : Bool)
  | keyExchange (both : Bool)
  | finish (key : BitVec 256) (kgen : BitVec 32)
  | keyUpdate
  | other
  deriving DecidableEq, Repr, Inhabited

/-- The units that enter power states (R366). -/
inductive PowerUnit where
  | core (id : CoreId)
  | cluster (id : BitVec 9)
  | die (id : BitVec 2)
  | stackMem
  | package
  deriving DecidableEq, Repr, Inhabited

/-- What runs a step program (R331, R356): a rank context, or a collective context of the fabric. -/
inductive StepUnit where
  | rank (id : BitVec 14)
  | coll (n : BitVec 4)
  deriving DecidableEq, Repr, Inhabited

end Sys2Proof
end

