-- ==== Sys2Proof/Machine/Numfmt.lean ====
section
/-! DEFINITION. Number formats and rounding (04_number_formats.md, R77 to R94): decoding an encoding
to an exact value, exact arithmetic, and Round of R83 with its conditions (R85). An exact value keeps
its magnitude as m times 2^e, with a mark where the true magnitude lies strictly between that and the
next multiple of 2^e, so that quotients, roots and the special functions pass through one Round. -/

namespace Sys2Proof.Machine

/-- Exponent width E of R78. -/
def Fmt.expBits : Fmt → Nat
  | .fp32 => 8 | .fp16 => 5 | .bf16 => 8 | .e5m2 => 5 | .e4m3 => 4 | .e3m2 => 3 | .e2m3 => 2 | .e2m1 => 2

/-- Significand width M of R78. -/
def Fmt.sigBits : Fmt → Nat
  | .fp32 => 23 | .fp16 => 10 | .bf16 => 7 | .e5m2 => 2 | .e4m3 => 3 | .e3m2 => 2 | .e2m3 => 3 | .e2m1 => 1

/-- Bias b of R78. -/
def Fmt.bias : Fmt → Nat
  | .fp32 => 127 | .fp16 => 15 | .bf16 => 127 | .e5m2 => 15 | .e4m3 => 7 | .e3m2 => 3 | .e2m3 => 1 | .e2m1 => 1

/-- Width of an encoding. -/
def Fmt.bits (f : Fmt) : Nat := 1 + Fmt.expBits f + Fmt.sigBits f

/-- R79: infinities stand at an exponent field of all ones. -/
def Fmt.hasInf : Fmt → Bool
  | .fp32 | .fp16 | .bf16 | .e5m2 => true
  | .e4m3 | .e3m2 | .e2m3 | .e2m1 => false

/-- R79: the formats that hold NaNs. -/
def Fmt.hasNan : Fmt → Bool
  | .fp32 | .fp16 | .bf16 | .e5m2 | .e4m3 => true
  | .e3m2 | .e2m3 | .e2m1 => false

/-- Weight of the sign bit. -/
def Fmt.signWeight (f : Fmt) : Nat := 2 ^ (Fmt.expBits f + Fmt.sigBits f)

/-- Magnitude bits of infinity where the format has one (R79). -/
def Fmt.infMag (f : Fmt) : Nat := (2 ^ Fmt.expBits f - 1) * 2 ^ Fmt.sigBits f

/-- Magnitude bits of Max(f) (R83). -/
def Fmt.maxMag : Fmt → Nat
  | .e4m3 => 0x7E
  | .e3m2 => 31
  | .e2m3 => 31
  | .e2m1 => 7
  | f => Fmt.infMag f - 1

/-- The quiet bit of R79, as a weight; 0 where there is none. -/
def Fmt.quietBit (f : Fmt) : Nat := if Fmt.hasInf f then 2 ^ (Fmt.sigBits f - 1) else 0

/-- Magnitude bits of the canonical quiet NaN (R79). -/
def Fmt.nanMag : Fmt → Nat
  | .e4m3 => 0x7F
  | f => Fmt.infMag f + Fmt.quietBit f

/-- The magnitude bits and the sign of an encoding. -/
def Fmt.mag (f : Fmt) (enc : Nat) : Nat := enc % Fmt.signWeight f
def Fmt.neg (f : Fmt) (enc : Nat) : Bool := enc / Fmt.signWeight f % 2 == 1
def Fmt.withSign (f : Fmt) (neg : Bool) (mag : Nat) : Nat := if neg then mag + Fmt.signWeight f else mag

/-- R79: is the encoding a NaN? -/
def Fmt.isNan (f : Fmt) (enc : Nat) : Bool :=
  if Fmt.hasInf f then decide (Fmt.infMag f < Fmt.mag f enc)
  else if f = .e4m3 then Fmt.mag f enc == 0x7F else false

/-- R79: is the encoding an infinity? -/
def Fmt.isInf (f : Fmt) (enc : Nat) : Bool := Fmt.hasInf f && Fmt.mag f enc == Fmt.infMag f

/-- R79: is the encoding a signalling NaN? -/
def Fmt.isSnan (f : Fmt) (enc : Nat) : Bool :=
  Fmt.hasInf f && Fmt.isNan f enc && (Fmt.mag f enc / Fmt.quietBit f % 2 == 0)

/-- A NaN with its quiet bit set (R80). -/
def Fmt.quieten (f : Fmt) (enc : Nat) : Nat :=
  if Fmt.isSnan f enc then enc + Fmt.quietBit f else enc

/-- An exact value: a NaN with its significand field aligned to 23 bits, an infinity, or a finite
value of magnitude m times 2^e, strictly more (by less than 2^e) where `more` is set. -/
inductive Num where
  | nan (neg : Bool) (sig23 : Nat)
  | inf (neg : Bool)
  | fin (neg : Bool) (m : Nat) (e : Int) (more : Bool)
  deriving DecidableEq, Repr, Inhabited

def Num.zero (neg : Bool) : Num := .fin neg 0 0 false
/-- The NaN an operation creates (R80). -/
def Num.made : Num := .nan false 0x400000
def Num.isNan : Num → Bool
  | .nan _ _ => true
  | _ => false
def Num.isZero : Num → Bool
  | .fin _ 0 _ false => true
  | _ => false
def Num.isNeg : Num → Bool
  | .nan s _ => s
  | .inf s => s
  | .fin s _ _ _ => s
def Num.negate : Num → Num
  | .nan s g => .nan s g
  | .inf s => .inf !s
  | .fin s m e k => .fin (!s) m e k
def Num.ofInt (i : Int) : Num := .fin (decide (i < 0)) i.natAbs 0 false

/-- The value of an encoding (R78, R79). -/
def Fmt.value (f : Fmt) (enc : Nat) : Num :=
  let s := Fmt.neg f enc
  let g := Fmt.mag f enc
  let M := Fmt.sigBits f
  let m := g % 2 ^ M
  let e := g / 2 ^ M
  if Fmt.isNan f enc then .nan s (m * 2 ^ (23 - M))
  else if Fmt.isInf f enc then .inf s
  else if e = 0 then .fin s m (1 - (Fmt.bias f : Int) - M) false
  else .fin s (m + 2 ^ M) ((e : Int) - Fmt.bias f - M) false

/-- The conditions of R85. -/
structure Conds where
  nv : Bool
  of : Bool
  uf : Bool
  nx : Bool
  deriving DecidableEq, Repr, Inhabited

def Conds.none : Conds := ⟨false, false, false, false⟩
def Conds.or (a b : Conds) : Conds := ⟨a.nv || b.nv, a.of || b.of, a.uf || b.uf, a.nx || b.nx⟩

/-- Number of significant bits. -/
def bitLen (n : Nat) : Nat := if n = 0 then 0 else Nat.log2 n + 1

/-- |x| cut to multiples of 2^u: the quotient, how the cut part stands to one half (0 nothing, 1 less,
2 equal, 3 more), and the cut part in units of 1/65,536 (the t of R83). -/
def cutAt (m : Nat) (e : Int) (more : Bool) (u : Int) : Nat × Nat × Nat :=
  let sh := u - e
  if sh ≤ 0 then (m * 2 ^ (-sh).toNat, if more then 1 else 0, 0)
  else
    let k := sh.toNat
    if bitLen m + 70 < k then (0, if m = 0 && !more then 0 else 1, 0)
    else
      let q := m / 2 ^ k
      let r := m % 2 ^ k
      let half := 2 ^ (k - 1)
      let c := if r = 0 && !more then 0 else if r < half then 1 else if r = half && !more then 2 else 3
      (q, c, r * 65536 / 2 ^ k)

/-- Does the cut value go to its upper neighbour? `tieUp` decides an exact tie (R83). -/
def goesUp (mode : RMode) (neg : Bool) (c t : Nat) (tieUp : Bool) (draw : Nat) : Bool :=
  if c = 0 then false
  else match mode with
    | .nearest => c == 3 || (c == 2 && tieUp)
    | .zero => false
    | .up => !neg
    | .down => neg
    | .stochastic => decide (65536 ≤ t + draw)

/-- A NaN in format f (R80): the sign, the quiet bit and the highest significand bits that fit. -/
def Fmt.nanOf (f : Fmt) (neg : Bool) (sig23 : Nat) : Nat :=
  if f = .e4m3 then Fmt.withSign f neg 0x7F
  else
    let m := sig23 / 2 ^ (23 - Fmt.sigBits f)
    let m := if m / Fmt.quietBit f % 2 = 1 then m else m + Fmt.quietBit f
    Fmt.withSign f neg (Fmt.infMag f + m)

/-- Round(x, f, mode, sat) of R83, with the 16 bits drawn for a stochastic rounding, and the
conditions of R85; an infinite value that f cannot hold is Inexact alone (DEDUCED, log entry 78). -/
def round (f : Fmt) (mode : RMode) (sat : Bool) (draw : Nat) (x : Num) : Nat × Conds :=
  match x with
  | .nan s g =>
    if Fmt.hasNan f then (Fmt.nanOf f s g, .none) else (0, ⟨true, false, false, false⟩)
  | .inf s =>
    if Fmt.hasInf f then (Fmt.withSign f s (Fmt.infMag f), .none)
    else if sat || !Fmt.hasNan f then (Fmt.withSign f s (Fmt.maxMag f), ⟨false, false, false, true⟩)
    else (Fmt.withSign f s (Fmt.nanMag f), ⟨false, false, false, true⟩)
  | .fin s m e more =>
    let M := Fmt.sigBits f
    let emin : Int := 1 - (Fmt.bias f : Int)
    let lead : Int := e + (bitLen m : Int) - 1
    let top := if m = 0 then emin else max lead emin
    let u := top - M
    let (q, c, t) := cutAt m e more u
    let low : Nat := ((top + (Fmt.bias f : Int)).toNat) * 2 ^ M + q - 2 ^ M
    let tieUp := q % 2 == 1 || low == Fmt.maxMag f
    let y := if goesUp mode s c t tieUp draw then low + 1 else low
    if y ≤ Fmt.maxMag f then
      (Fmt.withSign f s y, ⟨false, false, decide (0 < y) && decide (y < 2 ^ M) && c != 0, c != 0⟩)
    else
      let cs : Conds := ⟨false, true, false, true⟩
      if mode = .zero || (mode = .up && s) || (mode = .down && !s) then (Fmt.withSign f s (Fmt.maxMag f), cs)
      else if sat || !Fmt.hasNan f then (Fmt.withSign f s (Fmt.maxMag f), cs)
      else if Fmt.hasInf f then (Fmt.withSign f s (Fmt.infMag f), cs)
      else (Fmt.withSign f s (Fmt.nanMag f), cs)

/-- Round to an integer between lo and hi (R83's last paragraph, R86): NaN gives 0. -/
def roundInt (lo hi : Int) (mode : RMode) (draw : Nat) (x : Num) : Int :=
  match x with
  | .nan _ _ => 0
  | .inf s => if s then lo else hi
  | .fin s m e more =>
    if 200 < e + bitLen m then (if s then lo else hi)
    else
      let (q, c, t) := cutAt m e more 0
      let q := if goesUp mode s c t (q % 2 == 1) draw then q + 1 else q
      let v : Int := if s then -(q : Int) else q
      max lo (min hi v)

/-- RoundNE32 (R9). -/
def roundNE32 (x : Num) : Nat × Conds := round .fp32 .nearest false 0 x

/-- The first NaN among the operands, in their order (R80). -/
def firstNan : List Num → Option Num
  | [] => none
  | x :: xs => if x.isNan then some x else firstNan xs

/-- Exact sum of two values that are not NaNs; an exact zero sum is -0 only under `down` or when both
are -0 (R81). Infinities of both signs create a NaN. -/
def addFin (mode : RMode) (a b : Num) : Num × Bool :=
  match a, b with
  | .nan s g, _ => (.nan s g, false)
  | _, .nan s g => (.nan s g, false)
  | .inf s, .inf t => if s = t then (.inf s, false) else (.made, true)
  | .inf s, _ => (.inf s, false)
  | _, .inf t => (.inf t, false)
  | .fin s m e _, .fin t n g _ =>
    if m = 0 && n = 0 then (.zero (if s = t then s else mode = .down), false)
    else
      let lo := min e g
      let mi : Int := (m * 2 ^ (e - lo).toNat : Nat)
      let ni : Int := (n * 2 ^ (g - lo).toNat : Nat)
      let v := (if s then -mi else mi) + (if t then -ni else ni)
      if v = 0 then (.zero (decide (mode = .down)), false)
      else (.fin (decide (v < 0)) v.natAbs lo false, false)

/-- Exact product of two values that are not NaNs; zero times infinity creates a NaN (R80). -/
def mulFin (a b : Num) : Num × Bool :=
  match a, b with
  | .nan s g, _ => (.nan s g, false)
  | _, .nan s g => (.nan s g, false)
  | .inf s, .inf t => (.inf (s != t), false)
  | .inf s, .fin t n _ _ => if n = 0 then (.made, true) else (.inf (s != t), false)
  | .fin s m _ _, .inf t => if m = 0 then (.made, true) else (.inf (s != t), false)
  | .fin s m e _, .fin t n g _ => (.fin (s != t) (m * n) (e + g) false, false)

/-- a + b with R80's rule for NaN operands in the order a, b. -/
def addN (mode : RMode) (a b : Num) : Num × Bool :=
  match firstNan [a, b] with
  | some x => (x, false)
  | none => addFin mode a b

def mulN (a b : Num) : Num × Bool :=
  match firstNan [a, b] with
  | some x => (x, false)
  | none => mulFin a b

/-- a times b plus d, NaN operands in the order a, b, d (R104, R124). -/
def fmaN (mode : RMode) (a b d : Num) : Num × Bool :=
  match firstNan [a, b, d] with
  | some x => (x, false)
  | none =>
    let (p, i) := mulFin a b
    if i then (p, true) else addFin mode p d

/-- a / b; a nonzero finite value over zero is an infinity (R104). -/
def divN (a b : Num) : Num × Bool :=
  match firstNan [a, b] with
  | some x => (x, false)
  | none =>
    match a, b with
    | .inf _, .inf _ => (.made, true)
    | .inf s, b => (.inf (s != b.isNeg), false)
    | a, .inf t => (.zero (a.isNeg != t), false)
    | .fin s m e _, .fin t n g _ =>
      if n = 0 then (if m = 0 then (.made, true) else (.inf (s != t), false))
      else
        let k := 128 + bitLen n
        let q := m * 2 ^ k / n
        (.fin (s != t) q (e - g - k) (m * 2 ^ k % n != 0), false)
    | a, _ => (a, false)

/-- The integer square root, one bit at a time. -/
def isqrtFrom : Nat → Nat → Nat → Nat
  | 0, _, r => r
  | i + 1, n, r =>
    let r' := r + 2 ^ i
    isqrtFrom i n (if r' * r' ≤ n then r' else r)

def isqrt (n : Nat) : Nat := isqrtFrom (bitLen n / 2 + 1) n 0

/-- The square root; -0 gives -0, a negative value creates a NaN (R104). -/
def sqrtN (a : Num) : Num × Bool :=
  match a with
  | .nan s g => (.nan s g, false)
  | .inf s => if s then (.made, true) else (.inf false, false)
  | .fin s m e _ =>
    if m = 0 then (.zero s, false)
    else if s then (.made, true)
    else
      let k : Nat := if (e % 2 = 0) then 256 else 257
      let n := m * 2 ^ k
      let r := isqrt n
      (.fin false r ((e - k) / 2) (r * r != n), false)

/-- 1/A (R135). -/
def rcpN (a : Num) : Num :=
  match a with
  | .nan s g => .nan s g
  | .inf s => .zero s
  | .fin s m _ _ => if m = 0 then .inf s else (divN (.fin false 1 0 false) a).1

/-- 1/√A (R135): the square root of 2^(2k)/m, with the part cut off marked. -/
def rsqN (a : Num) : Num :=
  match a with
  | .nan s g => .nan s g
  | .inf s => if s then .made else .zero false
  | .fin s m e _ =>
    if m = 0 then .inf s
    else if s then .made
    else
      let (m, e) := if e % 2 = 0 then (m, e) else (2 * m, e - 1)
      let k := 128 + bitLen m
      let r := isqrt (2 ^ (2 * k) / m)
      .fin false r (-(e / 2) - k) (m * (r * r) != 2 ^ (2 * k))

/-- Fraction bits that the special functions carry. -/
def specialBits : Nat := 320

/-- 2 to the power of the fraction bits of `frac` (an integer over 2^n), in units of 2^-specialBits:
each set bit multiplies by the next square root of two. -/
def exp2Bits : Nat → Nat → Nat → Nat → Nat
  | 0, _, _, acc => acc
  | n + 1, frac, root, acc =>
    let root' := isqrt (root * 2 ^ specialBits)
    let acc' := if frac / 2 ^ n % 2 = 1 then acc * root' / 2 ^ specialBits else acc
    exp2Bits n frac root' acc'

/-- 2^A (R135): exact for an integer A; else 2^A is irrational, and the value is cut after
specialBits bits. -/
def exp2N (a : Num) : Num :=
  match a with
  | .nan s g => .nan s g
  | .inf s => if s then .zero false else .inf false
  | .fin s m e _ =>
    if m = 0 then .fin false 1 0 false
    else if 40 < e + bitLen m then .fin false 1 (if s then -1000000 else 1000000) false
    else if 0 ≤ e then
      let v : Int := (m * 2 ^ e.toNat : Nat)
      .fin false 1 (if s then -v else v) false
    else
      let n := (-e).toNat
      let whole := m / 2 ^ n
      let frac := m % 2 ^ n
      if frac = 0 then .fin false 1 (if s then -(whole : Int) else whole) false
      else
        -- for a negative A, 2^A = 2^(-whole-1) * 2^(1 - frac)
        let (w, fr) : Int × Nat := if s then (-(whole : Int) - 1, 2 ^ n - frac) else (whole, frac)
        let acc := exp2Bits n fr (2 ^ (specialBits + 1)) (2 ^ specialBits)
        .fin false acc (w - specialBits) true

/-- Fraction bits of log2 of a value in [1, 2), by repeated squaring. -/
def log2Bits : Nat → Nat → Nat → Nat
  | 0, _, acc => acc
  | n + 1, v, acc =>
    let v2 := v * v / 2 ^ specialBits
    if 2 ^ (specialBits + 1) ≤ v2 then log2Bits n (v2 / 2) (2 * acc + 1) else log2Bits n v2 (2 * acc)

/-- log2 A (R135): exact for a power of two; else irrational, cut after 120 fraction bits. -/
def log2N (a : Num) : Num :=
  match a with
  | .nan s g => .nan s g
  | .inf s => if s then .made else .inf false
  | .fin s m e _ =>
    if m = 0 then .inf true
    else if s then .made
    else
      let k : Nat := bitLen m - 1
      let w : Int := e + k
      if m = 2 ^ k then (if w = 0 then .zero false else .ofInt w)
      else
        let f := log2Bits 120 (m * 2 ^ specialBits / 2 ^ k) 0
        let v : Int := w * 2 ^ 120 + f
        if 0 ≤ v then .fin false v.natAbs (-120) true else .fin true (v.natAbs - 1) (-120) true

/-- Order of two encodings of one format that are not NaNs, -0 below +0 (R105). -/
def Fmt.rank (f : Fmt) (enc : Nat) : Int :=
  if Fmt.neg f enc then -(Fmt.mag f enc : Int) - 1 else Fmt.mag f enc

/-- R105: the lesser or the greater of two encodings. -/
def Fmt.pick (f : Fmt) (greater : Bool) (a b : Nat) : Nat :=
  match Fmt.isNan f a, Fmt.isNan f b with
  | true, true => Fmt.quieten f a
  | true, false => b
  | false, true => a
  | false, false =>
    if greater then (if Fmt.rank f a < Fmt.rank f b then b else a)
    else (if Fmt.rank f b < Fmt.rank f a then b else a)

/-- Order of numbers in which -0 equals +0 (R104, R127). -/
def Fmt.order (f : Fmt) (enc : Nat) : Int :=
  if Fmt.neg f enc then -(Fmt.mag f enc : Int) else Fmt.mag f enc

def Fmt.eqv (f : Fmt) (a b : Nat) : Bool :=
  !Fmt.isNan f a && !Fmt.isNan f b && Fmt.order f a == Fmt.order f b
def Fmt.ltv (f : Fmt) (a b : Nat) : Bool :=
  !Fmt.isNan f a && !Fmt.isNan f b && decide (Fmt.order f a < Fmt.order f b)
def Fmt.lev (f : Fmt) (a b : Nat) : Bool :=
  !Fmt.isNan f a && !Fmt.isNan f b && decide (Fmt.order f a ≤ Fmt.order f b)

/-- The class bit of R105. -/
def Fmt.classBit (f : Fmt) (enc : Nat) : Nat :=
  let s := Fmt.neg f enc
  if Fmt.isNan f enc then (if Fmt.isSnan f enc then 8 else 9)
  else if Fmt.isInf f enc then (if s then 0 else 7)
  else if Fmt.mag f enc = 0 then (if s then 3 else 4)
  else if Fmt.mag f enc < 2 ^ Fmt.sigBits f then (if s then 2 else 5)
  else (if s then 1 else 6)

/-- Is every value of g a value of f, so that the conversion is exact (R84, R86)? -/
def Fmt.widens (g f : Fmt) : Bool :=
  match g, f with
  | .fp16, .fp32 | .bf16, .fp32 => true
  | .e4m3, .fp32 | .e4m3, .fp16 | .e4m3, .bf16 => true
  | .e5m2, .fp32 | .e5m2, .fp16 | .e5m2, .bf16 => true
  | _, .fp32 => true
  | g, f => g = f

/-- An encoding of g in the wider f: the same value, NaNs by R80. -/
def Fmt.widen (g f : Fmt) (enc : Nat) : Nat := (round f .nearest false 0 (Fmt.value g enc)).1

/-- One step of Draw() of R84: the new state; the draw is its bits [63:48]. -/
def rngStep (s : Word) : Word :=
  let s := if s = 0 then 1 else s
  let s := s ^^^ (s <<< 13)
  let s := s ^^^ (s >>> 7)
  s ^^^ (s <<< 17)

/-- The 16 bits a draw returns. -/
def rngBits (s : Word) : Nat := (s >>> 48).toNat

/-- Element i of width w of a stream of bits (R89). -/
def streamElem (bits : Nat) (w i : Nat) : Nat := bits / 2 ^ (w * i) % 2 ^ w

/-- The weights of a VQ2 index as E4M3 encodings (R90), from the table's entry. -/
def vq2Weight (entry index i : Nat) : Nat :=
  let sgn (j : Nat) : Nat := index / 2 ^ (j + 1) % 2
  let s7 := (sgn 0 + sgn 1 + sgn 2 + sgn 3 + sgn 4 + sgn 5 + sgn 6) % 2
  let s := if i = 7 then s7 else sgn i
  let g := streamElem entry 4 i
  let x : Num := .fin (s == 1) g (-2) false
  let y := if index % 2 = 1 then (addFin .nearest x (.fin false 1 (-2) false)).1 else x
  (round .e4m3 .nearest false 0 y).1

/-- The floating format of an element type, none for the integers. -/
def elemFmt : ElemType → Option Fmt
  | .i8 | .i16 | .i32 => none
  | .e4m3 => some .e4m3
  | .e5m2 => some .e5m2
  | .bf16 => some .bf16
  | .f16 => some .fp16
  | .f32 => some .fp32

/-- Lane width w (R120). -/
def elemWidth : ElemType → Nat
  | .i8 | .e4m3 | .e5m2 => 8
  | .i16 | .bf16 | .f16 => 16
  | .i32 | .f32 => 32

/-- Lane count n (R120). -/
def elemLanes (t : ElemType) : Nat := 1024 / elemWidth t

end Sys2Proof.Machine
end

