-- ==== Sys2Proof/Machine/BankAlu.lean ====
section
/-! DEFINITION. What a bank ALU does to one element (R145, R248, R250, R315). -/

namespace Sys2Proof.Machine

/-- The type of an element at a bank ALU: an integer of a width in bytes, FP32 or BF16. -/
inductive BankType where
  | int (bytes : Nat)
  | f32
  | bf16
  deriving DecidableEq, Repr, Inhabited

def BankType.bytes : BankType → Nat
  | .int n => n
  | .f32 => 4
  | .bf16 => 2

/-- The functions of R250, by their codes 0 to 8. -/
inductive BankFn where
  | add | min | max | and | or | xor | swap | cas | badd
  deriving DecidableEq, Repr, Inhabited

def BankFn.code : BankFn → BitVec 8
  | .add => 0 | .min => 1 | .max => 2 | .and => 3 | .or => 4 | .xor => 5 | .swap => 6 | .cas => 7 | .badd => 8

def BankFn.ofCode (c : BitVec 8) : Option BankFn :=
  match c.toNat with
  | 0 | 9 => some .add | 1 | 10 => some .min | 2 | 11 => some .max | 3 => some .and | 4 => some .or
  | 5 => some .xor | 6 => some .swap | 7 => some .cas | 8 => some .badd | _ => none

/-- The signed value of n bytes. -/
def signedOf (n v : Nat) : Int := if v % 256 ^ n < 256 ^ n / 2 then (v % 256 ^ n : Nat) else (v % 256 ^ n : Nat) - (256 ^ n : Nat)

/-- FP32 sum rounded to nearest even, NaN operands in the order a, b (R80). -/
def addFp (f : Fmt) (a b : Nat) : Nat :=
  (round f .nearest false 0 (addN .nearest (Fmt.value f a) (Fmt.value f b)).1).1

/-- The new element and whether the operation was carried out: ABADD may refuse (R250). -/
def bankOp (fn : BankFn) (t : BankType) (m b d : Nat) : Nat × Bool :=
  let w := 256 ^ t.bytes
  let m := m % w
  let b := b % w
  match fn with
  | .add =>
    match t with
    | .int _ => ((m + b) % w, true)
    | .f32 => (addFp .fp32 m b, true)
    | .bf16 => (addFp .bf16 m b, true)
  | .min =>
    match t with
    | .int n => (if signedOf n b < signedOf n m then b else m, true)
    | .f32 => (Fmt.pick .fp32 false m b, true)
    | .bf16 => (Fmt.pick .bf16 false m b, true)
  | .max =>
    match t with
    | .int n => (if signedOf n m < signedOf n b then b else m, true)
    | .f32 => (Fmt.pick .fp32 true m b, true)
    | .bf16 => (Fmt.pick .bf16 true m b, true)
  | .and => (m &&& b, true)
  | .or => (m ||| b, true)
  | .xor => (m ^^^ b, true)
  | .swap => (b, true)
  | .cas => (if m = d then b else m, true)
  | .badd => if d < m + b then (m, false) else (m + b, true)

end Sys2Proof.Machine
end

