-- ==== Sys2Proof/Config.lean ====
section
/-! DEFINITION. What the spec leaves to the implementation, and the free values: constants without a
body, so that nothing can be proved of their values (log entries 4 and 8). -/

namespace Sys2Proof.Config

/-- A free word, by the count of free values drawn so far (log entry 4). -/
opaque freeWord : Nat → Word
/-- A free byte. -/
opaque freeByte : Nat → Nat → Byte
/-- A free choice among n, by the count of free values drawn (log entry 1): taken modulo n. -/
opaque pick : Nat → Nat
/-- Cycles that a step takes (R3, log entry 4). -/
opaque elapsed : Nat → Nat
/-- The SALT that the security processor draws at reset (R218). -/
opaque bootSalt : BitVec 128
/-- A tenant's dump key (R218). -/
opaque dumpKey : BitVec 6 → BitVec 256
/-- The digest of the package's certificate (R367). -/
opaque certDigest : BitVec 384
/-- The window that the domain's switches hold at an offset of a package in a cycle, and its type (R355; log entry 25). -/
opaque declaredWindow : Nat → BitVec 10 → Nat → Option (BitVec 4 × BitVec 2)
/-- The reduction switch that next decrypts what one package contributes to another (R355, R362; log entry 25). -/
opaque reducer : BitVec 10 → BitVec 10 → Option (BitVec 12)
/-- The bytes of what this package sends in an SPDM session for a message: what it asks of a member, or its answer, which says
whether it accepts; SPDM gives them and the spec does not (R361; log entry 89). -/
opaque spdmBytes : SpdmPeer → SpdmMsg → Bool → List Byte
/-- The last 16 bytes of a packet of TYPE 14 or 15, which no key of the spec protects (R353; log entry 89). -/
opaque openTag : List Byte → BitVec 128
/-- A session's key after KEY_UPDATE, which SPDM gives (R361; log entry 89). -/
opaque updatedKey : BitVec 256 → BitVec 256

end Sys2Proof.Config
end

