-- ==== Sys2Proof/Machine/Memory.lean ====
section
/-! DEFINITION. The package's bytes by physical address (R234): a list of cells in rising order of their
addresses, none equal to what an unlisted address reads as. Byte order is little-endian (R4). -/

namespace Sys2Proof.Machine

abbrev Memory := List Host.Cell

/-- What an address reads as that nothing has written. DESIGN CHOICE (log entry 3): the spec gives
memory no contents after reset. -/
def unwritten : Byte := 0

namespace Memory

/-- The canonical form: addresses rising, no entry equal to what an unlisted address reads as. -/
def wf : Memory → Bool
  | [] => true
  | [(_, v)] => v != unwritten
  | (a, v) :: (b, w) :: r => v != unwritten && decide (a < b) && wf ((b, w) :: r)

/-- One byte. -/
def read : Memory → Nat → Byte
  | [], _ => unwritten
  | (k, v) :: r, a => if k = a then v else read r a

/-- Writes one byte; writing what an unlisted address reads as removes the entry. -/
def write : Memory → Nat → Byte → Memory
  | [], a, v => if v = unwritten then [] else [(a, v)]
  | (k, w) :: r, a, v =>
    if a < k then (if v = unwritten then (k, w) :: r else (a, v) :: (k, w) :: r)
    else if a = k then (if v = unwritten then r else (a, v) :: r)
    else (k, w) :: write r a v

/-- n bytes from a upward. -/
def readBytes (m : Memory) : Nat → Nat → List Byte
  | _, 0 => []
  | a, n + 1 => m.read a :: readBytes m (a + 1) n

def writeBytes (m : Memory) : Nat → List Byte → Memory
  | _, [] => m
  | a, b :: r => writeBytes (m.write a b) (a + 1) r

end Memory

/-- A little-endian number from its bytes. -/
def natOfBytes : List Byte → Nat
  | [] => 0
  | b :: r => b.toNat + 256 * natOfBytes r

/-- The n low bytes of a number. -/
def bytesOfNat : Nat → Nat → List Byte
  | 0, _ => []
  | n + 1, v => BitVec.ofNat 8 v :: bytesOfNat n (v / 256)

end Sys2Proof.Machine
end

