-- ==== Sys2Proof/Machine/Crypto.lean ====
section
/-! DEFINITION. The functions that R218, R352 and R362 name: SHA-384 (FIPS 180-4) under HMAC (FIPS 198-1) and HKDF-Expand
(RFC 5869), and AES-256 (FIPS 197) in GCM (SP 800-38D). The spec names them and does not restate them: PRESUMED, log
entry 8. -/

namespace Sys2Proof.Machine

/-! ## SHA-384 -/

/-- A bit string's bytes, the highest first. -/
def bytesHigh {n : Nat} (k : Nat) (x : BitVec n) : List Byte := (bytesOfNat k x.toNat).reverse
/-- The number that bytes give, the first the highest. -/
def bitsHigh (n : Nat) (bs : List Byte) : BitVec n := BitVec.ofNat n (natOfBytes bs.reverse)

/-- The 80 round constants, the first the highest. -/
def shaRounds : BitVec 5120 :=
  (0x428a2f98d728ae227137449123ef65cdb5c0fbcfec4d3b2fe9b5dba58189dbbc3956c25bf348b53859f111f1b605d019923f82a4af194f9bab1c5ed5da6d8118#512
    ++ 0xd807aa98a303024212835b0145706fbe243185be4ee4b28c550c7dc3d5ffb4e272be5d74f27b896f80deb1fe3b1696b19bdc06a725c71235c19bf174cf692694#512
    ++ 0xe49b69c19ef14ad2efbe4786384f25e30fc19dc68b8cd5b5240ca1cc77ac9c652de92c6f592b02754a7484aa6ea6e4835cb0a9dcbd41fbd476f988da831153b5#512
    ++ 0x983e5152ee66dfaba831c66d2db43210b00327c898fb213fbf597fc7beef0ee4c6e00bf33da88fc2d5a79147930aa72506ca6351e003826f142929670a0e6e70#512
    ++ 0x27b70a8546d22ffc2e1b21385c26c9264d2c6dfc5ac42aed53380d139d95b3df650a73548baf63de766a0abb3c77b2a881c2c92e47edaee692722c851482353b#512
    ++ 0xa2bfe8a14cf10364a81a664bbc423001c24b8b70d0f89791c76c51a30654be30d192e819d6ef5218d69906245565a910f40e35855771202a106aa07032bbd1b8#512
    ++ 0x19a4c116b8d2d0c81e376c085141ab532748774cdf8eeb9934b0bcb5e19b48a8391c0cb3c5c95a634ed8aa4ae3418acb5b9cca4f7763e373682e6ff3d6b2b8a3#512
    ++ 0x748f82ee5defb2fc78a5636f43172f6084c87814a1f0ab728cc702081a6439ec90befffa23631e28a4506cebde82bde9bef9a3f7b2c67915c67178f2e372532b#512
    ++ 0xca273eceea26619cd186b8c721c0c207eada7dd6cde0eb1ef57d4f7fee6ed17806f067aa72176fba0a637dc5a2c898a6113f9804bef90dae1b710b35131c471b#512
    ++ 0x28db77f523047d8432caab7b40c724933c9ebe0a15c9bebc431d67c49c100d4c4cc5d4becb3e42b6597f299cfc657e2a5fcb6fab3ad6faec6c44198c4a475817#512 : BitVec 5120)
def shaRound (i : Nat) : Word := shaRounds.extractLsb' (64 * (79 - i)) 64

/-- The eight working words; SHA-384's initial value. -/
abbrev ShaState := Vector Word 8
def sha384Start : ShaState :=
  #v[0xcbbb9d5dc1059ed8, 0x629a292a367cd507, 0x9159015a3070dd17, 0x152fecd8f70e5939, 0x67332667ffc00b31, 0x8eb44a8768581511, 0xdb0c2e0d64f98fa7, 0x47b5481dbefa4fa4]

/-- One round, with its constant and its schedule word. -/
def shaStep (v : ShaState) (k w : Word) : ShaState :=
  let (a, e) := (v[0], v[4])
  let s1 := e.rotateRight 14 ^^^ e.rotateRight 18 ^^^ e.rotateRight 41
  let pick := (e &&& v[5]) ^^^ (~~~e &&& v[6])
  let t1 := v[7] + s1 + pick + k + w
  let s0 := a.rotateRight 28 ^^^ a.rotateRight 34 ^^^ a.rotateRight 39
  let most := (a &&& v[1]) ^^^ (a &&& v[2]) ^^^ (v[1] &&& v[2])
  #v[t1 + (s0 + most), a, v[1], v[2], v[3] + t1, e, v[5], v[6]]

/-- The word that follows 16 words of the schedule. -/
def shaNext (w : Vector Word 16) : Word :=
  let x := w[14]
  let y := w[1]
  (x.rotateRight 19 ^^^ x.rotateRight 61 ^^^ (x >>> 6)) + w[9] + (y.rotateRight 1 ^^^ y.rotateRight 8 ^^^ (y >>> 7)) + w[0]

/-- Rounds from i on, n of them, over the 16 schedule words that are next. -/
def shaRun : Nat → Nat → Vector Word 16 → ShaState → ShaState
  | 0, _, _, v => v
  | n + 1, i, w, v =>
    let x := shaNext w
    shaRun n (i + 1) (Vector.ofFn fun j => if h : j.val < 15 then w[j.val + 1] else x) (shaStep v (shaRound i) w[0])

/-- A block of 128 bytes. -/
def shaBlock (v : ShaState) (b : List Byte) : ShaState :=
  let w : Vector Word 16 := Vector.ofFn fun j => bitsHigh 64 ((b.drop (8 * j.val)).take 8)
  let r := shaRun 80 0 w v
  Vector.ofFn fun j => v[j] + r[j]

/-- The first n blocks of a message. -/
def shaBlocks : Nat → List Byte → ShaState → ShaState
  | 0, _, v => v
  | n + 1, bs, v => shaBlocks n (bs.drop 128) (shaBlock v (bs.take 128))

/-- A message with its end mark and its length in bits, filled to whole blocks. -/
def shaPadded (bs : List Byte) : List Byte :=
  bs ++ [0x80] ++ List.replicate ((239 - bs.length % 128) % 128) 0 ++ bytesHigh 16 (BitVec.ofNat 128 (8 * bs.length))

def sha384 (bs : List Byte) : List Byte :=
  let m := shaPadded bs
  (((shaBlocks (m.length / 128) m sha384Start).toList.flatMap fun w => bytesHigh 8 w)).take 48

/-! ## HKDF-Expand -/

/-- HMAC with SHA-384, the key at most one block. -/
def hmac384 (key bs : List Byte) : List Byte :=
  let k := key ++ List.replicate (128 - key.length) 0
  sha384 (k.map (· ^^^ 0x5C) ++ sha384 (k.map (· ^^^ 0x36) ++ bs))

/-- The first 32 bytes of HKDF-Expand with SHA-384: its first block holds them. Keys lie in memory order. -/
def hkdf (key : BitVec 256) (info : List Byte) : BitVec 256 :=
  BitVec.ofNat 256 (natOfBytes ((hmac384 (bytesOfNat 32 key.toNat) (info ++ [1])).take 32))

/-! ## AES-256 -/

/-- The product in GF(2^8) by x. -/
def xtime (b : Byte) : Byte := (b <<< 1) ^^^ (if b.getLsbD 7 then 0x1B else 0)
/-- The product in GF(2^8), over the lowest n bits of its second factor. -/
def gfMul : Nat → Byte → Byte → Byte
  | 0, _, _ => 0
  | n + 1, a, b => (if b.getLsbD 0 then a else 0) ^^^ gfMul n (xtime a) (b >>> 1)

/-- The inverse in GF(2^8), 0 for 0: the power 254. -/
def gfInv (a : Byte) : Byte :=
  let sq (b : Byte) : Byte := gfMul 8 b b
  let p (b : Byte) : Byte := gfMul 8 (sq b) a
  sq (p (p (p (p (p (p a))))))

/-- SubBytes of one byte. -/
def subByte (a : Byte) : Byte :=
  let b := gfInv a
  b ^^^ b.rotateLeft 1 ^^^ b.rotateLeft 2 ^^^ b.rotateLeft 3 ^^^ b.rotateLeft 4 ^^^ 0x63

/-- SubBytes as one table, byte a at place a, so that a long text looks it up. -/
def subTable : Vector Byte 256 := Vector.ofFn fun i => subByte (BitVec.ofNat 8 i.val)
def sub (a : Byte) : Byte := subTable.get a.toFin

/-- The words of 4 bytes of the key schedule: those that follow the last 8, which are given, the oldest first. -/
def keyWords : Nat → Nat → Byte → List (List Byte) → List (List Byte)
  | 0, _, _, _ => []
  | n + 1, i, rcon, ws =>
    let last := ws.getD 7 []
    let t := if i % 8 = 0 then
        match (last.drop 1 ++ last.take 1).map sub with
        | b :: r => (b ^^^ rcon) :: r
        | [] => []
      else if i % 8 = 4 then last.map sub
      else last
    let w := List.zipWith (· ^^^ ·) (ws.headD []) t
    w :: keyWords n (i + 1) (if i % 8 = 0 then xtime rcon else rcon) (ws.drop 1 ++ [w])

/-- The 15 round keys, of 16 bytes each. -/
def roundKeys (key : List Byte) : List (List Byte) :=
  let first := (List.range 8).map fun i => (key.drop (4 * i)).take 4
  let ws := first ++ keyWords 52 8 1 first
  (List.range 15).map fun r => (ws.drop (4 * r)).take 4 |>.flatten

def xorBytes (a b : List Byte) : List Byte := List.zipWith (· ^^^ ·) a b

/-- ShiftRows: the byte of row r and column c comes from column c + r. -/
def shiftRows (b : List Byte) : List Byte := (List.range 16).map fun i => b.getD ((i + 4 * (i % 4)) % 16) 0

/-- MixColumns of one column. -/
def mixColumn (c : List Byte) : List Byte :=
  (List.range 4).map fun i =>
    let at' (j : Nat) : Byte := c.getD ((i + j) % 4) 0
    xtime (at' 0) ^^^ xtime (at' 1) ^^^ at' 1 ^^^ at' 2 ^^^ at' 3
def mixColumns (b : List Byte) : List Byte := (List.range 4).flatMap fun i => mixColumn ((b.drop (4 * i)).take 4)

/-- The rounds after the first key: the last one mixes no columns. -/
def aesRounds : List (List Byte) → List Byte → List Byte
  | [], b => b
  | [k], b => xorBytes (shiftRows (b.map sub)) k
  | k :: ks, b => aesRounds ks (xorBytes (mixColumns (shiftRows (b.map sub))) k)

/-- AES-256 of one block, by its round keys. -/
def aesBlock (keys : List (List Byte)) (b : List Byte) : List Byte :=
  match keys with
  | [] => b
  | k :: ks => aesRounds ks (xorBytes b k)

/-! ## GCM -/

/-- The product in GF(2^128) of GCM, whose bit 0 is the highest: over the n bits of x that are left. -/
def ghashMul : Nat → BitVec 128 → BitVec 128 → BitVec 128
  | 0, _, _ => 0
  | n + 1, x, v =>
    (if x.getLsbD 127 then v else 0) ^^^
      ghashMul n (x <<< 1) (v >>> 1 ^^^ (if v.getLsbD 0 then 0xE1000000000000000000000000000000#128 else 0))

/-- The first n blocks of 16 bytes, the last one filled with zeros, into a hash under the key h. -/
def ghash (h : BitVec 128) : Nat → List Byte → BitVec 128 → BitVec 128
  | 0, _, y => y
  | n + 1, bs, y =>
    ghash h n (bs.drop 16) (ghashMul 128 (y ^^^ bitsHigh 128 ((bs.take 16) ++ List.replicate (16 - bs.length) 0)) h)

/-- The counter block of a nonce. -/
def gcmCounter (nonce : BitVec 96) (n : Nat) : List Byte := bytesHigh 12 nonce ++ bytesHigh 4 (BitVec.ofNat 32 n)

/-- A text under the key stream from the counter n on, over k blocks. -/
def gcmStream (keys : List (List Byte)) (nonce : BitVec 96) : Nat → Nat → List Byte → List Byte
  | 0, _, _ => []
  | k + 1, n, bs => xorBytes (bs.take 16) (aesBlock keys (gcmCounter nonce n)) ++ gcmStream keys nonce k (n + 1) (bs.drop 16)

/-- The blocks of 16 bytes of a text. -/
def blocksOf (bs : List Byte) : Nat := (bs.length + 15) / 16

/-- The tag of a cipher text and its additional data. -/
def gcmTag (keys : List (List Byte)) (nonce : BitVec 96) (aad cipher : List Byte) : BitVec 128 :=
  let h := bitsHigh 128 (aesBlock keys (List.replicate 16 0))
  let y := ghash h (blocksOf cipher) cipher (ghash h (blocksOf aad) aad 0)
  let y := ghash h 1 (bytesHigh 8 (BitVec.ofNat 64 (8 * aad.length)) ++ bytesHigh 8 (BitVec.ofNat 64 (8 * cipher.length))) y
  y ^^^ bitsHigh 128 (aesBlock keys (gcmCounter nonce 1))

/-- AES-256-GCM: key, nonce, additional data, plain text; cipher text, and the tag, whose first byte is the highest. -/
def gcmSeal (key : BitVec 256) (nonce : BitVec 96) (aad plain : List Byte) : List Byte × BitVec 128 :=
  let keys := roundKeys (bytesOfNat 32 key.toNat)
  let cipher := gcmStream keys nonce (blocksOf plain) 2 plain
  (cipher, gcmTag keys nonce aad cipher)

end Sys2Proof.Machine
end

