-- ==== Sys2Proof/Syntax.lean ====
section
/-! DEFINITION. The instructions and events: one constructor for each row of the opcode table, in its
families. The encoded rows carry the fields of their word; what an act of a unit works on stands with the act in the
state (Machine/Acts.lean), so that its constructor has no field. -/

namespace Sys2Proof

inductive Instr where
  /- Integer register operations, OP 1 (R98 to R100). -/
  | add (d : Opnd) (a : Opnd) (b : Opnd)
  | sub (d : Opnd) (a : Opnd) (b : Opnd)
  | and (d : Opnd) (a : Opnd) (b : Opnd)
  | or (d : Opnd) (a : Opnd) (b : Opnd)
  | xor (d : Opnd) (a : Opnd) (b : Opnd)
  | andn (d : Opnd) (a : Opnd) (b : Opnd)
  | sll (d : Opnd) (a : Opnd) (b : Opnd)
  | srl (d : Opnd) (a : Opnd) (b : Opnd)
  | sra (d : Opnd) (a : Opnd) (b : Opnd)
  | rol (d : Opnd) (a : Opnd) (b : Opnd)
  | mul (d : Opnd) (a : Opnd) (b : Opnd)
  | mulh (d : Opnd) (a : Opnd) (b : Opnd)
  | mulhu (d : Opnd) (a : Opnd) (b : Opnd)
  | div (d : Opnd) (a : Opnd) (b : Opnd)
  | divu (d : Opnd) (a : Opnd) (b : Opnd)
  | rem (d : Opnd) (a : Opnd) (b : Opnd)
  | remu (d : Opnd) (a : Opnd) (b : Opnd)
  | min (d : Opnd) (a : Opnd) (b : Opnd)
  | max (d : Opnd) (a : Opnd) (b : Opnd)
  | minu (d : Opnd) (a : Opnd) (b : Opnd)
  | maxu (d : Opnd) (a : Opnd) (b : Opnd)
  | slt (d : Opnd) (a : Opnd) (b : Opnd)
  | sltu (d : Opnd) (a : Opnd) (b : Opnd)
  | seq (d : Opnd) (a : Opnd) (b : Opnd)
  | clz (d : Opnd) (a : Opnd)
  | ctz (d : Opnd) (a : Opnd)
  | popc (d : Opnd) (a : Opnd)
  | bfx (d : Opnd) (a : Opnd) (b : Opnd)
  | bfi (d : Opnd) (a : Opnd) (b : Opnd)
  /- Immediates and shifts, OPs 2 to 10 (R101 to R103). -/
  | addi (d : Opnd) (a : Opnd) (imm : BitVec 14)
  | andi (d : Opnd) (a : Opnd) (imm : BitVec 14)
  | ori (d : Opnd) (a : Opnd) (imm : BitVec 14)
  | xori (d : Opnd) (a : Opnd) (imm : BitVec 14)
  | slti (d : Opnd) (a : Opnd) (imm : BitVec 14)
  | sltiu (d : Opnd) (a : Opnd) (imm : BitVec 14)
  | slli (d : Opnd) (a : Opnd) (n : BitVec 6)
  | srli (d : Opnd) (a : Opnd) (n : BitVec 6)
  | srai (d : Opnd) (a : Opnd) (n : BitVec 6)
  | roli (d : Opnd) (a : Opnd) (n : BitVec 6)
  | lui (d : Opnd) (imm : BitVec 20)
  | auipc (d : Opnd) (imm : BitVec 20)
  /- Scalar floating point, OP 11 (R104 to R106). -/
  | fadd (d : Opnd) (a : Opnd) (b : Opnd)
  | fsub (d : Opnd) (a : Opnd) (b : Opnd)
  | fmul (d : Opnd) (a : Opnd) (b : Opnd)
  | fma (d : Opnd) (a : Opnd) (b : Opnd)
  | fdiv (d : Opnd) (a : Opnd) (b : Opnd)
  | fsqrt (d : Opnd) (a : Opnd)
  | fmin (d : Opnd) (a : Opnd) (b : Opnd)
  | fmax (d : Opnd) (a : Opnd) (b : Opnd)
  | feq (d : Opnd) (a : Opnd) (b : Opnd)
  | flt (d : Opnd) (a : Opnd) (b : Opnd)
  | fle (d : Opnd) (a : Opnd) (b : Opnd)
  | fclass (d : Opnd) (a : Opnd)
  | fcvt (d : Opnd) (a : Opnd) (c : FcvtOp)
  /- Branches, jumps and hardware loops, OPs 12 to 20 (R107 to R109). -/
  | beq (a : Opnd) (b : Opnd) (off : BitVec 14)
  | bne (a : Opnd) (b : Opnd) (off : BitVec 14)
  | blt (a : Opnd) (b : Opnd) (off : BitVec 14)
  | bge (a : Opnd) (b : Opnd) (off : BitVec 14)
  | bltu (a : Opnd) (b : Opnd) (off : BitVec 14)
  | bgeu (a : Opnd) (b : Opnd) (off : BitVec 14)
  | jal (d : Opnd) (off : BitVec 20)
  | jalr (d : Opnd) (a : Opnd) (imm : BitVec 14)
  | loop (k : Bool) (a : Opnd) (off : BitVec 14)
  | loopi (k : Bool) (n : BitVec 12) (off : BitVec 12)
  /- Loads, stores and bit access, OPs 21 to 23 (R112 to R117). -/
  | ld (d : Opnd) (b : Opnd) (w : LdWidth) (imm : BitVec 11)
  | st (s : Opnd) (b : Opnd) (w : StWidth) (imm : BitVec 11)
  | lda (d : Opnd) (a : Opnd) (w : LdWidth) (sc : Scope)
  | stl (s : Opnd) (a : Opnd) (w : StWidth) (sc : Scope)
  | ldbit (d : Opnd) (k : BitVec 2) (w : BitVec 5) (p : Bool)
  | stbit (s : Opnd) (k : BitVec 2) (w : BitVec 5) (p : Bool)
  | baset (k : BitVec 2) (a : Opnd) (b : Opnd)
  /- Atomics and locks, OPs 24 and 25 (R249 to R254, R265). -/
  | aadd (d : Opnd) (a : Opnd) (b : Opnd) (o : Order)
  | amin (d : Opnd) (a : Opnd) (b : Opnd) (o : Order)
  | amax (d : Opnd) (a : Opnd) (b : Opnd) (o : Order)
  | aand (d : Opnd) (a : Opnd) (b : Opnd) (o : Order)
  | aor (d : Opnd) (a : Opnd) (b : Opnd) (o : Order)
  | axor (d : Opnd) (a : Opnd) (b : Opnd) (o : Order)
  | aswp (d : Opnd) (a : Opnd) (b : Opnd) (o : Order)
  | acas (d : Opnd) (a : Opnd) (b : Opnd) (o : Order)
  | abadd (d : Opnd) (a : Opnd) (b : Opnd) (o : Order)
  | redadd (t : RedType) (a : Opnd) (b : Opnd) (o : Order)
  | redmin (t : RedType) (a : Opnd) (b : Opnd) (o : Order)
  | redmax (t : RedType) (a : Opnd) (b : Opnd) (o : Order)
  | fence (e : Bool) (sc : Scope) (k : FenceKind)
  | rwlr (d : Opnd) (a : Opnd)
  | rwlw (d : Opnd) (a : Opnd)
  | rwur (d : Opnd) (a : Opnd)
  | rwuw (d : Opnd) (a : Opnd)
  /- System, OP 26 (R63, R118, R119). -/
  | sysr (d : Opnd) (n : BitVec 12)
  | sysw (s : Opnd) (n : BitVec 12)
  | controlRegisterWrite (n : BitVec 12) (v : Word)
  | ecall (c : BitVec 12)
  | eret
  | yield
  | halt
  | brk (c : BitVec 12)
  /- Events, OP 27, and what arrives (R199 to R214). -/
  | send (a : Opnd) (b : Opnd)
  | sendm (a : Opnd) (b : Opnd) (f : Bool)
  | launch (a : Opnd)
  | wait (d : Opnd) (k : BitVec 4) (b : Opnd)
  | waitany (d : Opnd) (a : Opnd) (b : Opnd)
  | ctrset (k : BitVec 4) (a : Opnd) (b : Opnd)
  | ctradd (k : BitVec 4) (a : Opnd)
  /- Copies, rings and lines, OPs 28 and 29 (R157 to R169). -/
  | copy (t : BitVec 5) (a : Opnd) (b : Opnd) (f : Bool)
  | copy2d (t : BitVec 5) (a : Opnd) (b : Opnd) (f : Bool)
  | gather (t : BitVec 5) (a : Opnd) (b : Opnd) (f : Bool)
  | scatter (t : BitVec 5) (a : Opnd) (b : Opnd)
  | rset (h : Opnd) (a : Opnd) (b : Opnd)
  | radvp (h : BitVec 3) (b : Opnd)
  | radvc (h : BitVec 3) (b : Opnd)
  | rfill (d : Opnd) (h : BitVec 3) (b : Opnd) (w : Bool)
  | lfull (a : Opnd) (b : Opnd)
  | lempty (a : Opnd) (b : Opnd)
  | ltest (d : Opnd) (a : Opnd)
  /- Vector arithmetic and bitwise, OPs 30 and 31 (R125, R126). -/
  | vadd (d : BitVec 5) (a : BitVec 5) (b : BitVec 5) (m : BitVec 3) (t : ElemType)
  | vsub (d : BitVec 5) (a : BitVec 5) (b : BitVec 5) (m : BitVec 3) (t : ElemType)
  | vmul (d : BitVec 5) (a : BitVec 5) (b : BitVec 5) (m : BitVec 3) (t : ElemType)
  | vfma (d : BitVec 5) (a : BitVec 5) (b : BitVec 5) (m : BitVec 3) (t : ElemType)
  | vmin (d : BitVec 5) (a : BitVec 5) (b : BitVec 5) (m : BitVec 3) (t : ElemType)
  | vmax (d : BitVec 5) (a : BitVec 5) (b : BitVec 5) (m : BitVec 3) (t : ElemType)
  | vabs (d : BitVec 5) (a : BitVec 5) (m : BitVec 3) (t : ElemType)
  | vneg (d : BitVec 5) (a : BitVec 5) (m : BitVec 3) (t : ElemType)
  | vand (d : BitVec 5) (a : BitVec 5) (b : BitVec 5) (m : BitVec 3) (t : ElemType)
  | vor (d : BitVec 5) (a : BitVec 5) (b : BitVec 5) (m : BitVec 3) (t : ElemType)
  | vxor (d : BitVec 5) (a : BitVec 5) (b : BitVec 5) (m : BitVec 3) (t : ElemType)
  | vnot (d : BitVec 5) (a : BitVec 5) (m : BitVec 3) (t : ElemType)
  | vsll (d : BitVec 5) (a : BitVec 5) (b : BitVec 5) (m : BitVec 3) (t : ElemType)
  | vsrl (d : BitVec 5) (a : BitVec 5) (b : BitVec 5) (m : BitVec 3) (t : ElemType)
  | vsra (d : BitVec 5) (a : BitVec 5) (b : BitVec 5) (m : BitVec 3) (t : ElemType)
  | vpopc (d : BitVec 5) (a : BitVec 5) (m : BitVec 3) (t : ElemType)
  /- Vector compare, masks, transforms and special functions, OPs 32 to 34 (R127 to R135). -/
  | vcmp (c : VCond) (a : BitVec 5) (b : BitVec 5) (p : BitVec 3) (t : ElemType)
  | vsel (d : BitVec 5) (a : BitVec 5) (b : BitVec 5) (m : BitVec 3) (t : ElemType)
  | vclass (d : BitVec 5) (a : BitVec 5) (m : BitVec 3) (t : ElemType)
  | mand (d : BitVec 3) (a : BitVec 3) (b : BitVec 3)
  | mor (d : BitVec 3) (a : BitVec 3) (b : BitVec 3)
  | mnot (d : BitVec 3) (a : BitVec 3)
  | mcnt (x : BitVec 5) (a : BitVec 3) (t : ElemType)
  | vcvt (d : BitVec 5) (a : BitVec 5) (p : BitVec 2) (sty : ElemType) (m : BitVec 3) (t : ElemType)
  | vrsum (d : BitVec 5) (a : BitVec 5) (m : BitVec 3) (t : ElemType)
  | vrmax (d : BitVec 5) (a : BitVec 5) (m : BitVec 3) (t : ElemType)
  | vrmin (d : BitVec 5) (a : BitVec 5) (m : BitVec 3) (t : ElemType)
  | vscan (d : BitVec 5) (a : BitVec 5) (m : BitVec 3) (t : ElemType)
  | vperm (d : BitVec 5) (a : BitVec 5) (b : BitVec 5) (m : BitVec 3) (t : ElemType)
  | vbcast (d : BitVec 5) (x : BitVec 5) (m : BitVec 3) (t : ElemType)
  | vext (x : BitVec 5) (a : BitVec 5) (l : BitVec 5) (g : BitVec 3) (t : ElemType)
  | viota (d : BitVec 5) (p : BitVec 3) (t : ElemType)
  | vtopk (d : BitVec 5) (a : BitVec 5) (k : BitVec 3) (m : BitVec 3) (t : ElemType)
  | vexp2 (d : BitVec 5) (a : BitVec 5) (m : BitVec 3) (t : ElemType)
  | vrcp (d : BitVec 5) (a : BitVec 5) (m : BitVec 3) (t : ElemType)
  | vrsq (d : BitVec 5) (a : BitVec 5) (m : BitVec 3) (t : ElemType)
  | vlog2 (d : BitVec 5) (a : BitVec 5) (m : BitVec 3) (t : ElemType)
  /- Vector memory and atomics, OPs 35 and 36 (R136 to R146). -/
  | vld (d : BitVec 5) (x : BitVec 5) (f : Bool) (o : BitVec 4) (m : BitVec 3) (t : ElemType)
  | vst (s : BitVec 5) (x : BitVec 5) (f : Bool) (o : BitVec 4) (m : BitVec 3) (t : ElemType)
  | vldx (d : BitVec 5) (x : BitVec 5) (i : BitVec 5) (m : BitVec 3) (t : ElemType)
  | vstx (s : BitVec 5) (x : BitVec 5) (i : BitVec 5) (m : BitVec 3) (t : ElemType)
  | vldbit (d : BitVec 5) (p : Bool) (k : BitVec 2) (w : BitVec 5) (m : BitVec 3) (t : ElemType)
  | vstbit (s : BitVec 5) (p : Bool) (k : BitVec 2) (w : BitVec 5) (m : BitVec 3) (t : ElemType)
  | vaadd (d : BitVec 5) (x : BitVec 5) (i : BitVec 5) (m : BitVec 3) (t : ElemType)
  | vaor (d : BitVec 5) (x : BitVec 5) (i : BitVec 5) (m : BitVec 3) (t : ElemType)
  | vamax (d : BitVec 5) (x : BitVec 5) (i : BitVec 5) (m : BitVec 3) (t : ElemType)
  | vredadd (s : BitVec 5) (x : BitVec 5) (o : BitVec 4) (m : BitVec 3) (t : ElemType)
  /- Matrix instructions, OPs 40 to 45 (R177 to R189). -/
  | mldw (a : Opnd) (w : BitVec 7) (n : BitVec 7)
  | mm (t : BitVec 3) (a : Opnd) (w : BitVec 7) (k : KSize) (f : Pair)
  | mms (t : BitVec 3) (a : Opnd) (w : BitVec 7) (k : KSize) (f : Pair) (n : Bool)
  | mmg (t : BitVec 3) (a : Opnd) (w : BitVec 7) (k : KSize) (f : Pair) (v : BitVec 4)
  | mzero (d : BitVec 3)
  | mld (d : BitVec 3) (a : Opnd) (b : Opnd) (f : Bool)
  | mst (s : BitVec 3) (v : BitVec 3) (a : Opnd) (b : Opnd) (f : Bool) (g : Bool)
  | mmov (d : BitVec 3) (a : BitVec 3)
  | madd (d : BitVec 3) (a : BitVec 3) (b : BitVec 3) (i : Bool)
  | mscale (d : BitVec 3) (a : BitVec 3) (x : Opnd) (y : Opnd)
  | mcb (a : Opnd)
  | mxpose (d : BitVec 3) (a : BitVec 3) (b : BitVec 3) (h : Bool)
  | bts (a : BitVec 3) (m : BitVec 8) (s : Bool) (off : BitVec 14)
  /- Gangs and the transpose exchange, OP 46 (R221 to R233). -/
  | gang (d : Opnd) (a : Opnd)
  | gjoin (d : Opnd) (a : Opnd)
  | gleave (a : Opnd)
  | grejoin (d : Opnd) (a : Opnd)
  | xptab (a : Opnd)
  | xpose (t : BitVec 5) (a : Opnd) (b : Opnd) (f : Bool)
  /- Huddles and supersteps, OPs 47 and 48 (R275 to R285). -/
  | hreg (d : Opnd) (a : Opnd) (b : Opnd)
  | hdrop (a : Opnd)
  | harr (d : Opnd) (a : Opnd)
  | hwait (d : Opnd) (a : Opnd) (b : Opnd)
  | hsync (d : Opnd) (a : Opnd)
  | hdarr (d : Opnd) (a : Opnd)
  | xtab (a : Opnd) (b : Opnd)
  | xsend (a : Opnd)
  | sstep (d : Opnd) (a : Opnd) (e : Bool)
  /- Tasks and experts, OP 49 and q1 (R286 to R299). -/
  | stdecl (d : Opnd) (a : Opnd)
  | stdeclFree (a : Opnd)
  | tspawn (d : Opnd) (a : Opnd)
  | tret
  | tabort
  /- Differentiable memory, OP 50 (R306 to R315). -/
  | dmode (d : Opnd) (m : DiffMode)
  | dregset (j : Opnd) (a : Opnd) (b : Opnd)
  | ldadj (d : Opnd) (a : Opnd)
  | stadj (s : Opnd) (a : Opnd)
  | accadj (s : Opnd) (a : Opnd) (o : Order)
  /- Stack engines and column sequencers, OP 51 and q0 (R327 to R346). -/
  | updt (t : BitVec 5) (a : Opnd)
  | fmt (t : BitVec 5) (a : Opnd)
  | rkload (t : BitVec 5) (a : Opnd) (b : Opnd)
  | rkrun (t : BitVec 5) (a : Opnd)
  | rkstat (d : Opnd) (a : Opnd) (c : Bool)
  | smode (t : BitVec 5) (a : Opnd)
  /- Step words (R332 to R336). -/
  | sHalt
  | sSend (a : BitVec 3) (d : BitVec 2) (k : BitVec 6) (l : BitVec 10)
  | sRecv (a : BitVec 3) (d : BitVec 2) (k : BitVec 6) (l : BitVec 10)
  | sRrs (a : BitVec 3) (d : BitVec 2) (k : BitVec 6) (t : RankType) (f : RankOp) (l : BitVec 10)
  | sRred (a : BitVec 3) (d : BitVec 2) (k : BitVec 6) (t : RankType) (f : RankOp) (l : BitVec 10)
  | sCopy (a : BitVec 3) (s : BitVec 3) (l : BitVec 10)
  | sWaitPeer (d : BitVec 2) (k : BitVec 6)
  | sWaitCounter (n : BitVec 4) (t : BitVec 16)
  | sLoop (v : Bool) (e : BitVec 10) (c : BitVec 16)
  | sEndl (v : Bool)
  | sSeta (a : BitVec 3) (i : BitVec 24)
  | sAdda (a : BitVec 3) (i : BitVec 24)
  | sBop (g : BopFn) (d : BitVec 3) (x : BitVec 3) (y : BitVec 3) (z : BitVec 3) (r : BitVec 6)
  | sBsadd (d : BitVec 3) (x : BitVec 3) (y : BitVec 3) (w : BitVec 5)
  | sBssub (d : BitVec 3) (x : BitVec 3) (y : BitVec 3) (w : BitVec 5)
  | sBsmul (d : BitVec 3) (x : BitVec 3) (y : BitVec 3) (w : BitVec 5)
  | sMcast (a : BitVec 3) (l : BitVec 10)
  | sSignal (c : BitVec 13) (n : BitVec 4)
  /- The fabric, OP 52 and q3 (R350 to R363). -/
  | coll (t : BitVec 5) (a : Opnd)
  | dombar (d : Opnd) (a : Opnd)
  | fstat (d : Opnd) (a : Opnd)
  /- Hints, OP 63 (R50 to R52). -/
  | hintImm (p : BitVec 24)
  | hintSched (b : SchedBr) (r : SchedPri)
  | hintMod (m : Option RMode) (s : Bool) (p : Bool) (c : CachePol)
  /- Words that are no instruction, and the remaining completions (R57, R214, R336, R354). -/
  | illegalInstruction (w : BitVec 32) (reserved : Bool)
  /- Acts of the units: the operands of an act stand with it among the acts due. -/
  | lockRepresentation
  | hardwareDump
  | messageArrival
  | launchArrival
  | launchQueueStart
  | rxwatchExpiry
  | probe
  | verdict
  | swapCountdownExpiry
  | spill
  | fill
  | fillComplete
  | copyComplete
  | channelWordArrival
  | transposeExchange
  | transposeExchangeComplete
  | huddleRelease
  | xsendArrival
  | taskCommit
  | taskPlacement
  | coreAssignment
  | expertFillComplete
  | streamSliceArrival
  | expertDrained
  | evict
  | trel
  | stat
  | rcfg
  | route
  | flush
  | rrel
  | rfault
  | routingRelease
  | updtComplete
  | fmtComplete
  | rkloadComplete
  | rankProgramComplete
  | modeSwitchComplete
  | switchDeadline
  | actcfg
  | scadd
  | activationAlert
  | alertWindowStart
  | stepBoundary
  | peerTimeout
  | collComplete
  | rsend
  | rlaunch
  | rwin
  | dkgrant
  | readRequest
  | readResponse
  | write
  | writeAcknowledgement
  | atomic
  | atomicResponse
  | reduction
  | message
  | launchPacket
  | collectiveFragment
  | collectiveControl
  | failureResponse
  | hostRequest
  | spdm
  | fabricTimeout
  | membershipChange
  | generationAnnounce
  | domainDeadline
  | xinv
  | invalidationComplete
  | powerStateEntry
  | wake
  | packageReset
  | invalidStep
  | spillComplete
  | rwinComplete
  | dumpKeyRelease
  deriving DecidableEq, Repr, Inhabited

end Sys2Proof
end

