-- ==== Sys2Proof/WellFormed.lean ====
section
/-! DEFINITION. Which instructions a word may hold: what R41 to R57 and each family's rule decide from
the word alone. Decoding refuses the rest with cause 0x01 (R57). Acts of units hold no word; they are
well formed as they stand. -/

namespace Sys2Proof

/-- R43, R57: specifiers 32 to 47 are no destination. -/
def Opnd.isDst : Opnd → Bool
  | .x _ | .port _ | .chan _ => true
  | .hist _ | .ring _ => false

/-- R96: a destination that is also read is an x register. -/
def Opnd.isReadDst : Opnd → Bool
  | .x _ => true
  | _ => false

/-- R96 for a position that is a source only (STADJ, ACCADJ, DREGSET: R306). -/
def Opnd.isReadSrc : Opnd → Bool
  | .x _ | .hist _ | .ring _ => true
  | .port _ | .chan _ => false

/-- R157: RSET names a handle or a channel. -/
def Opnd.isBindable : Opnd → Bool
  | .ring _ | .chan _ => true
  | _ => false

def ElemType.isInt : ElemType → Bool
  | .i8 | .i16 | .i32 => true
  | _ => false

/-- Types 5 to 7 (R135). -/
def ElemType.isWideFloat : ElemType → Bool
  | .bf16 | .f16 | .f32 => true
  | _ => false

/-- Lane width (R120). -/
def ElemType.width : ElemType → Nat
  | .i8 | .e4m3 | .e5m2 => 8
  | .i16 | .bf16 | .f16 => 16
  | .i32 | .f32 => 32

/-- Lane count (R120). -/
def ElemType.lanes (t : ElemType) : Nat := 1024 / t.width

/-- Types 2, 5 and 7 (R145). -/
def ElemType.isAtomic : ElemType → Bool
  | .i32 | .bf16 | .f32 => true
  | _ => false

/-- The conditions a type admits (R127). -/
def VCond.accepts : VCond → ElemType → Bool
  | .ltu, t | .leu, t => t.isInt
  | .un, t => !t.isInt
  | _, _ => true

def KSize.k : KSize → Nat
  | .k32 => 32
  | .k48 => 48
  | .k64 => 64
  | .k96 => 96

/-- Bits of a stored B element; VQ2 takes 2 per weight (R174). -/
def Pair.bBits : Pair → Nat
  | .bf16_bf16 => 16
  | .e4m3_e4m3 | .e4m3_e5m2 | .e5m2_e4m3 | .e5m2_e5m2 | .i8_i8 => 8
  | .e4m3_vq2 | .e5m2_vq2 => 2
  | .e4m3_e3m2 | .e4m3_e2m3 => 6
  | .e4m3_e2m1 => 4

/-- Units of a dense region (R174). -/
def denseUnits (k : KSize) (f : Pair) : Nat := k.k * f.bBits / 32

/-- Units of values of an N-of-12 region (R174), N being 6 for true and 4 for false. -/
def sparseValueUnits (k : KSize) (f : Pair) (six : Bool) : Nat :=
  (k.k * (if six then 6 else 4) * f.bBits + 383) / 384

/-- Units of its metadata (R174). -/
def sparseMetaUnits (k : KSize) (six : Bool) : Nat := k.k * (if six then 6 else 4) / 96

/-- R130: `part` is in range for the two lane counts. -/
def vcvtPartOk (st t : ElemType) (p : BitVec 2) : Bool :=
  if st.lanes = t.lanes then p.toNat == 0
  else if t.lanes < st.lanes then decide (p.toNat < st.lanes / t.lanes)
  else decide (p.toNat < t.lanes / st.lanes)

/-- The control register numbers of R62 that are listed. -/
def listedReg (n : BitVec 12) : Bool :=
  let v := n.toNat
  decide (v ≤ 0x00B) || (decide (0x010 ≤ v) && decide (v ≤ 0x016) && v != 0x013)
    || (decide (0x020 ≤ v) && decide (v ≤ 0x027)) || (decide (0x030 ≤ v) && decide (v ≤ 0x033))
    || (decide (0x040 ≤ v) && decide (v ≤ 0x057)) || v == 0x100
    || (decide (0x200 ≤ v) && decide (v < 0x2C0) && decide (v % 16 ≤ 2))

/-- May a word hold this instruction? -/
def Instr.wf : Instr → Bool
  | .add d _ _ => d.isDst
  | .sub d _ _ => d.isDst
  | .and d _ _ => d.isDst
  | .or d _ _ => d.isDst
  | .xor d _ _ => d.isDst
  | .andn d _ _ => d.isDst
  | .sll d _ _ => d.isDst
  | .srl d _ _ => d.isDst
  | .sra d _ _ => d.isDst
  | .rol d _ _ => d.isDst
  | .mul d _ _ => d.isDst
  | .mulh d _ _ => d.isDst
  | .mulhu d _ _ => d.isDst
  | .div d _ _ => d.isDst
  | .divu d _ _ => d.isDst
  | .rem d _ _ => d.isDst
  | .remu d _ _ => d.isDst
  | .min d _ _ => d.isDst
  | .max d _ _ => d.isDst
  | .minu d _ _ => d.isDst
  | .maxu d _ _ => d.isDst
  | .slt d _ _ => d.isDst
  | .sltu d _ _ => d.isDst
  | .seq d _ _ => d.isDst
  | .clz d _ => d.isDst
  | .ctz d _ => d.isDst
  | .popc d _ => d.isDst
  | .bfx d _ _ => d.isDst
  | .bfi d _ _ => d.isReadDst
  | .addi d _ _ => d.isDst
  | .andi d _ _ => d.isDst
  | .ori d _ _ => d.isDst
  | .xori d _ _ => d.isDst
  | .slti d _ _ => d.isDst
  | .sltiu d _ _ => d.isDst
  | .slli d _ _ => d.isDst
  | .srli d _ _ => d.isDst
  | .srai d _ _ => d.isDst
  | .roli d _ _ => d.isDst
  | .lui d _ => d.isDst
  | .auipc d _ => d.isDst
  | .fadd d _ _ => d.isDst
  | .fsub d _ _ => d.isDst
  | .fmul d _ _ => d.isDst
  | .fma d _ _ => d.isReadDst
  | .fdiv d _ _ => d.isDst
  | .fsqrt d _ => d.isDst
  | .fmin d _ _ => d.isDst
  | .fmax d _ _ => d.isDst
  | .feq d _ _ => d.isDst
  | .flt d _ _ => d.isDst
  | .fle d _ _ => d.isDst
  | .fclass d _ => d.isDst
  | .fcvt d _ _ => d.isDst
  | .jal d _ => d.isDst
  | .jalr d _ _ => d.isDst
  | .loop _ _ off => off != 0
  | .loopi _ _ off => off != 0
  | .ld d _ _ _ => d.isDst
  | .lda d _ _ _ => d.isDst
  | .ldbit d _ _ _ => d.isDst
  | .aadd d _ _ _ => d.isDst
  | .amin d _ _ _ => d.isDst
  | .amax d _ _ _ => d.isDst
  | .aand d _ _ _ => d.isDst
  | .aor d _ _ _ => d.isDst
  | .axor d _ _ _ => d.isDst
  | .aswp d _ _ _ => d.isDst
  | .acas d _ _ _ => d.isReadDst
  | .abadd d _ _ _ => d.isReadDst
  | .rwlr d _ => d.isDst
  | .rwlw d _ => d.isDst
  | .rwur d _ => d.isDst
  | .rwuw d _ => d.isDst
  | .sysr d _ => d.isDst
  | .wait d _ _ => d.isDst
  | .waitany d _ _ => d.isDst
  | .copy t _ _ _ => t != 0
  | .copy2d t _ _ _ => t != 0
  | .gather t _ _ _ => t != 0
  | .scatter t _ _ => t != 0
  | .rset h _ _ => h.isBindable
  | .rfill d _ _ _ => d.isDst
  | .ltest d _ => d.isDst
  | .vsll _ _ _ _ t => t.isInt
  | .vsrl _ _ _ _ t => t.isInt
  | .vsra _ _ _ _ t => t.isInt
  | .vpopc _ _ _ t => t.isInt
  | .vcmp c _ _ p t => p != 0 && c.accepts t
  | .vclass _ _ _ t => !t.isInt
  | .vcvt _ _ p sty _ t => vcvtPartOk sty t p
  | .vext _ _ l g t => decide (g.toNat * 32 + l.toNat < t.lanes)
  | .viota _ _ t => t.isInt
  | .vexp2 _ _ _ t => t.isWideFloat
  | .vrcp _ _ _ t => t.isWideFloat
  | .vrsq _ _ _ t => t.isWideFloat
  | .vlog2 _ _ _ t => t.isWideFloat
  | .vldbit _ _ _ w _ t => t.isInt && decide (w.toNat < t.width)
  | .vstbit _ _ _ w _ t => t.isInt && decide (w.toNat < t.width)
  | .vaadd _ _ _ _ t => t.isAtomic
  | .vaor _ _ _ _ t => t.isInt
  | .vamax _ _ _ _ t => t.isAtomic
  | .vredadd _ _ _ _ t => t.isAtomic
  | .mldw _ w n => decide (w.toNat + n.toNat + 1 ≤ 128)
  | .mm _ _ w k f => decide (w.toNat + denseUnits k f ≤ 128)
  | .mms _ _ w k f n => (k == .k48 || k == .k96) && f != .bf16_bf16 && f != .i8_i8 && decide (w.toNat + sparseValueUnits k f n + sparseMetaUnits k n ≤ 128)
  | .mmg _ _ w k f _ => decide (w.toNat + denseUnits k f ≤ 128)
  | .mst _ v _ _ _ g => g || v == 0
  | .bts _ m _ _ => decide (m.toNat < 64)
  | .gang d _ => d.isDst
  | .gjoin d _ => d.isDst
  | .grejoin d _ => d.isDst
  | .xpose t _ _ _ => t != 0
  | .hreg d _ _ => d.isDst
  | .harr d _ => d.isDst
  | .hwait d _ _ => d.isDst
  | .hsync d _ => d.isDst
  | .hdarr d _ => d.isDst
  | .sstep d _ _ => d.isDst
  | .stdecl d _ => d.isDst
  | .tspawn d _ => d.isDst
  | .dmode d _ => d.isDst
  | .dregset j _ _ => j.isReadSrc
  | .ldadj d _ => d.isDst
  | .stadj s _ => s.isReadSrc
  | .accadj s _ _ => s.isReadSrc
  | .updt t _ => t != 0
  | .fmt t _ => t != 0
  | .rkload t _ _ => t != 0
  | .rkrun t _ => t != 0
  | .rkstat d _ _ => d.isDst
  | .smode t _ => t != 0
  | .sLoop _ e _ => e != 0
  | .coll t _ => t != 0
  | .dombar d _ => d.isDst
  | .fstat d _ => d.isDst
  | _ => true

end Sys2Proof
end

