-- ==== Sys2Proof/Decode.lean ====
section
/-! DEFINITION. Decoding and encoding of instruction words and step words, from the formats of R40, the
opcode map of R53 and R54, and the encoding tables of the families. Decoding is total: a word that is
no instruction is refused by the name of its cause (R57). -/

namespace Sys2Proof

/-- Why bytes are no instruction (R57): cause 0x01, cause 0x02, or fewer than four bytes. -/
inductive DecodeErr where
  | illegal
  | reserved
  | short
  deriving DecidableEq, Repr, Inhabited

/-- Bits [lo + n - 1 : lo] of a word. -/
def bits (w : BitVec 32) (lo n : Nat) : BitVec n := w.extractLsb' lo n
def flag (w : BitVec 32) (i : Nat) : Bool := w.getLsbD i
def flagCode (b : Bool) : BitVec 1 := BitVec.ofBool b

/-- R42: an unused field holds zero. -/
def zeros (w : BitVec 32) (lo n : Nat) : Option Unit := if bits w lo n = 0 then some () else none

/-- An operand specifier (R43). -/
def opnd (v : BitVec 6) : Option Opnd :=
  if v.toNat < 32 then some (.x (v.setWidth 5))
  else if v.toNat < 40 then some (.hist (v.setWidth 3))
  else if v.toNat < 48 then some (.ring (v.setWidth 3))
  else if v.toNat < 52 then some (.port (v.setWidth 2))
  else if v.toNat < 56 then none
  else some (.chan (v.setWidth 3))

def Opnd.code : Opnd → BitVec 6
  | .x r => 0#1 ++ r
  | .hist n => 0b100#3 ++ n
  | .ring h => 0b101#3 ++ h
  | .port q => 0b1100#4 ++ q
  | .chan c => 0b111#3 ++ c

/-- Fields d, a and b of the R format (R40). -/
def fd (w : BitVec 32) : Option Opnd := opnd (bits w 20 6)
def fa (w : BitVec 32) : Option Opnd := opnd (bits w 14 6)
def fb (w : BitVec 32) : Option Opnd := opnd (bits w 8 6)

/-- A field that names a ring handle directly (R157). -/
def handle (v : BitVec 6) : Option (BitVec 3) :=
  if 40 ≤ v.toNat ∧ v.toNat < 48 then some (v.setWidth 3) else none

/-- A field that names a token register (R166). -/
def token (v : BitVec 6) : Option (BitVec 5) := if v.toNat < 32 then some (v.setWidth 5) else none

/-- MF of MLD and MST (R183): false for `w32`. -/
def rowFormat (v : BitVec 2) : Option Bool :=
  if v = 0 then some false else if v = 1 then some true else none

/-- R56. -/
def ElemType.ofCode (v : BitVec 3) : ElemType :=
  match v.toNat with
  | 0 => .i8 | 1 => .i16 | 2 => .i32 | 3 => .e4m3 | 4 => .e5m2 | 5 => .bf16 | 6 => .f16 | _ => .f32
def ElemType.code : ElemType → BitVec 3
  | .i8 => 0 | .i16 => 1 | .i32 => 2 | .e4m3 => 3 | .e5m2 => 4 | .bf16 => 5 | .f16 => 6 | .f32 => 7

/-- R41. -/
def LdWidth.ofCode (v : BitVec 3) : Option LdWidth :=
  match v.toNat with
  | 0 => some .s1 | 1 => some .s2 | 2 => some .s4 | 3 => some .d8 | 4 => some .z1 | 5 => some .z2
  | 6 => some .z4 | _ => none
def LdWidth.code : LdWidth → BitVec 3
  | .s1 => 0 | .s2 => 1 | .s4 => 2 | .d8 => 3 | .z1 => 4 | .z2 => 5 | .z4 => 6
def StWidth.ofCode (v : BitVec 3) : Option StWidth :=
  match v.toNat with
  | 0 => some .w1 | 1 => some .w2 | 2 => some .w4 | 3 => some .w8 | _ => none
def StWidth.code : StWidth → BitVec 3
  | .w1 => 0 | .w2 => 1 | .w4 => 2 | .w8 => 3

/-- R115, R262. -/
def Scope.ofCode (v : BitVec 3) : Option Scope :=
  match v.toNat with
  | 0 => some .strand | 1 => some .core | 2 => some .cluster | 3 => some .die | 4 => some .package
  | 5 => some .fabric | _ => none
def Scope.code : Scope → BitVec 3
  | .strand => 0 | .core => 1 | .cluster => 2 | .die => 3 | .package => 4 | .fabric => 5

/-- R55. -/
def Order.ofCode (v : BitVec 2) : Order :=
  match v.toNat with
  | 0 => .relaxed | 1 => .acquire | 2 => .release | _ => .both
def Order.code : Order → BitVec 2
  | .relaxed => 0 | .acquire => 1 | .release => 2 | .both => 3

/-- R249. -/
def RedType.ofCode (v : BitVec 6) : Option RedType :=
  match v.toNat with
  | 0 => some .i64 | 1 => some .i32 | 2 => some .f32 | 3 => some .bf16 | _ => none
def RedType.code : RedType → BitVec 6
  | .i64 => 0 | .i32 => 1 | .f32 => 2 | .bf16 => 3

/-- R265. -/
def FenceKind.ofCode (v : BitVec 2) : Option FenceKind :=
  match v.toNat with
  | 0 => some .full | 1 => some .acquire | 2 => some .release | _ => none
def FenceKind.code : FenceKind → BitVec 2
  | .full => 0 | .acquire => 1 | .release => 2

/-- R127. -/
def VCond.ofCode (v : BitVec 5) : Option VCond :=
  match v.toNat with
  | 0 => some .eq | 1 => some .ne | 2 => some .lt | 3 => some .le | 4 => some .ltu | 5 => some .leu
  | 6 => some .un | _ => none
def VCond.code : VCond → BitVec 5
  | .eq => 0 | .ne => 1 | .lt => 2 | .le => 3 | .ltu => 4 | .leu => 5 | .un => 6

/-- R106. -/
def FcvtOp.ofCode (v : BitVec 6) : Option FcvtOp :=
  match v.toNat with
  | 0 => some .f32ToI64 | 1 => some .f32ToI32 | 2 => some .i64ToF32 | 3 => some .i32ToF32
  | 4 => some .f32ToBf16 | 5 => some .bf16ToF32 | 6 => some .f32ToF16 | 7 => some .f16ToF32
  | 8 => some .f32ToE4m3 | 9 => some .e4m3ToF32 | 10 => some .f32ToE5m2 | 11 => some .e5m2ToF32
  | _ => none
def FcvtOp.code : FcvtOp → BitVec 6
  | .f32ToI64 => 0 | .f32ToI32 => 1 | .i64ToF32 => 2 | .i32ToF32 => 3 | .f32ToBf16 => 4
  | .bf16ToF32 => 5 | .f32ToF16 => 6 | .f16ToF32 => 7 | .f32ToE4m3 => 8 | .e4m3ToF32 => 9
  | .f32ToE5m2 => 10 | .e5m2ToF32 => 11

/-- R176. -/
def Pair.ofCode (v : BitVec 4) : Option Pair :=
  match v.toNat with
  | 0 => some .bf16_bf16 | 1 => some .e4m3_e4m3 | 2 => some .e4m3_e5m2 | 3 => some .e5m2_e4m3
  | 4 => some .e5m2_e5m2 | 5 => some .e4m3_vq2 | 6 => some .e4m3_e3m2 | 7 => some .e4m3_e2m3
  | 8 => some .e4m3_e2m1 | 9 => some .i8_i8 | 10 => some .e5m2_vq2 | _ => none
def Pair.code : Pair → BitVec 4
  | .bf16_bf16 => 0 | .e4m3_e4m3 => 1 | .e4m3_e5m2 => 2 | .e5m2_e4m3 => 3 | .e5m2_e5m2 => 4
  | .e4m3_vq2 => 5 | .e4m3_e3m2 => 6 | .e4m3_e2m3 => 7 | .e4m3_e2m1 => 8 | .i8_i8 => 9
  | .e5m2_vq2 => 10

/-- KC of R177. -/
def KSize.ofCode (v : BitVec 2) : KSize :=
  match v.toNat with
  | 0 => .k32 | 1 => .k48 | 2 => .k64 | _ => .k96
def KSize.code : KSize → BitVec 2
  | .k32 => 0 | .k48 => 1 | .k64 => 2 | .k96 => 3

/-- R306. -/
def DiffMode.ofCode (v : BitVec 2) : Option DiffMode :=
  match v.toNat with
  | 0 => some .fwd | 1 => some .tape | 2 => some .rev | _ => none
def DiffMode.code : DiffMode → BitVec 2
  | .fwd => 0 | .tape => 1 | .rev => 2

/-- R51. -/
def SchedBr.ofCode (v : BitVec 2) : Option SchedBr :=
  match v.toNat with
  | 0 => some .none | 1 => some .taken | 2 => some .notTaken | _ => Option.none
def SchedBr.code : SchedBr → BitVec 2
  | .none => 0 | .taken => 1 | .notTaken => 2
def SchedPri.ofCode (v : BitVec 2) : Option SchedPri :=
  match v.toNat with
  | 0 => some .normal | 1 => some .hi | 2 => some .lo | _ => none
def SchedPri.code : SchedPri → BitVec 2
  | .normal => 0 | .hi => 1 | .lo => 2

/-- R52. -/
def CachePol.ofCode (v : BitVec 2) : Option CachePol :=
  match v.toNat with
  | 0 => some .default | 1 => some .stream | 2 => some .retain | _ => none
def CachePol.code : CachePol → BitVec 2
  | .default => 0 | .stream => 1 | .retain => 2

/-- RM of HINT.MOD (R52): 0 for none. -/
def roundingOf (v : BitVec 3) : Option (Option RMode) :=
  match v.toNat with
  | 0 => some none | 1 => some (some .nearest) | 2 => some (some .zero) | 3 => some (some .up)
  | 4 => some (some .down) | 5 => some (some .stochastic) | _ => none
def roundingCode : Option RMode → BitVec 3
  | none => 0 | some .nearest => 1 | some .zero => 2 | some .up => 3 | some .down => 4
  | some .stochastic => 5

/-- R332. -/
def RankType.ofCode (v : BitVec 2) : Option RankType :=
  match v.toNat with
  | 0 => some .i32 | 1 => some .f32 | 2 => some .bf16 | _ => none
def RankType.code : RankType → BitVec 2
  | .i32 => 0 | .f32 => 1 | .bf16 => 2
def RankOp.ofCode (v : BitVec 2) : Option RankOp :=
  match v.toNat with
  | 0 => some .add | 1 => some .min | 2 => some .max | _ => none
def RankOp.code : RankOp → BitVec 2
  | .add => 0 | .min => 1 | .max => 2
def BopFn.ofCode (v : BitVec 3) : Option BopFn :=
  match v.toNat with
  | 0 => some .and | 1 => some .or | 2 => some .maj | 3 => some .not | 4 => some .xor | 5 => some .copy
  | _ => none
def BopFn.code : BopFn → BitVec 3
  | .and => 0 | .or => 1 | .maj => 2 | .not => 3 | .xor => 4 | .copy => 5

/-- OP 1. -/
def decInt (w : BitVec 32) : Option Instr :=
  match (bits w 0 6).toNat with
  | 0 => do zeros w 6 2; return .add (← fd w) (← fa w) (← fb w)
  | 1 => do zeros w 6 2; return .sub (← fd w) (← fa w) (← fb w)
  | 2 => do zeros w 6 2; return .and (← fd w) (← fa w) (← fb w)
  | 3 => do zeros w 6 2; return .or (← fd w) (← fa w) (← fb w)
  | 4 => do zeros w 6 2; return .xor (← fd w) (← fa w) (← fb w)
  | 5 => do zeros w 6 2; return .andn (← fd w) (← fa w) (← fb w)
  | 6 => do zeros w 6 2; return .sll (← fd w) (← fa w) (← fb w)
  | 7 => do zeros w 6 2; return .srl (← fd w) (← fa w) (← fb w)
  | 8 => do zeros w 6 2; return .sra (← fd w) (← fa w) (← fb w)
  | 9 => do zeros w 6 2; return .rol (← fd w) (← fa w) (← fb w)
  | 10 => do zeros w 6 2; return .mul (← fd w) (← fa w) (← fb w)
  | 11 => do zeros w 6 2; return .mulh (← fd w) (← fa w) (← fb w)
  | 12 => do zeros w 6 2; return .mulhu (← fd w) (← fa w) (← fb w)
  | 13 => do zeros w 6 2; return .div (← fd w) (← fa w) (← fb w)
  | 14 => do zeros w 6 2; return .divu (← fd w) (← fa w) (← fb w)
  | 15 => do zeros w 6 2; return .rem (← fd w) (← fa w) (← fb w)
  | 16 => do zeros w 6 2; return .remu (← fd w) (← fa w) (← fb w)
  | 17 => do zeros w 6 2; return .min (← fd w) (← fa w) (← fb w)
  | 18 => do zeros w 6 2; return .max (← fd w) (← fa w) (← fb w)
  | 19 => do zeros w 6 2; return .minu (← fd w) (← fa w) (← fb w)
  | 20 => do zeros w 6 2; return .maxu (← fd w) (← fa w) (← fb w)
  | 21 => do zeros w 6 2; return .slt (← fd w) (← fa w) (← fb w)
  | 22 => do zeros w 6 2; return .sltu (← fd w) (← fa w) (← fb w)
  | 23 => do zeros w 6 2; return .seq (← fd w) (← fa w) (← fb w)
  | 24 => do zeros w 6 8; return .clz (← fd w) (← fa w)
  | 25 => do zeros w 6 8; return .ctz (← fd w) (← fa w)
  | 26 => do zeros w 6 8; return .popc (← fd w) (← fa w)
  | 27 => do zeros w 6 2; return .bfx (← fd w) (← fa w) (← fb w)
  | 28 => do zeros w 6 2; return .bfi (← fd w) (← fa w) (← fb w)
  | _ => none

/-- OP 8. -/
def decShi (w : BitVec 32) : Option Instr :=
  match (bits w 12 2).toNat with
  | 0 => do zeros w 6 6; return .slli (← fd w) (← fa w) (bits w 0 6)
  | 1 => do zeros w 6 6; return .srli (← fd w) (← fa w) (bits w 0 6)
  | 2 => do zeros w 6 6; return .srai (← fd w) (← fa w) (bits w 0 6)
  | 3 => do zeros w 6 6; return .roli (← fd w) (← fa w) (bits w 0 6)
  | _ => none

/-- OP 11. -/
def decFp (w : BitVec 32) : Option Instr :=
  match (bits w 0 6).toNat with
  | 0 => do zeros w 6 2; return .fadd (← fd w) (← fa w) (← fb w)
  | 1 => do zeros w 6 2; return .fsub (← fd w) (← fa w) (← fb w)
  | 2 => do zeros w 6 2; return .fmul (← fd w) (← fa w) (← fb w)
  | 3 => do zeros w 6 2; return .fma (← fd w) (← fa w) (← fb w)
  | 4 => do zeros w 6 2; return .fdiv (← fd w) (← fa w) (← fb w)
  | 5 => do zeros w 6 8; return .fsqrt (← fd w) (← fa w)
  | 6 => do zeros w 6 2; return .fmin (← fd w) (← fa w) (← fb w)
  | 7 => do zeros w 6 2; return .fmax (← fd w) (← fa w) (← fb w)
  | 8 => do zeros w 6 2; return .feq (← fd w) (← fa w) (← fb w)
  | 9 => do zeros w 6 2; return .flt (← fd w) (← fa w) (← fb w)
  | 10 => do zeros w 6 2; return .fle (← fd w) (← fa w) (← fb w)
  | 11 => do zeros w 6 8; return .fclass (← fd w) (← fa w)
  | 12 => do zeros w 6 2; return .fcvt (← fd w) (← fa w) (← FcvtOp.ofCode (bits w 8 6))
  | _ => none

/-- OP 20. -/
def decLoop (w : BitVec 32) : Option Instr :=
  match (bits w 25 1).toNat with
  | 0 => do zeros w 14 4; return .loop (flag w 24) (← opnd (bits w 18 6)) (bits w 0 14)
  | 1 => some (.loopi (flag w 24) (bits w 12 12) (bits w 0 12))
  | _ => none

/-- OP 23. -/
def decMem (w : BitVec 32) : Option Instr :=
  match (bits w 0 6).toNat with
  | 0 => do zeros w 6 2; return .lda (← fd w) (← fa w) (← LdWidth.ofCode (bits w 11 3)) (← Scope.ofCode (bits w 8 3))
  | 1 => do zeros w 6 2; return .stl (← fd w) (← fa w) (← StWidth.ofCode (bits w 11 3)) (← Scope.ofCode (bits w 8 3))
  | 2 => do zeros w 16 4; zeros w 13 1; zeros w 7 1; return .ldbit (← fd w) (bits w 14 2) (bits w 8 5) (flag w 6)
  | 3 => do zeros w 16 4; zeros w 13 1; zeros w 7 1; return .stbit (← fd w) (bits w 14 2) (bits w 8 5) (flag w 6)
  | 4 => do zeros w 22 4; zeros w 6 2; return .baset (bits w 20 2) (← fa w) (← fb w)
  | _ => none

/-- OP 24. -/
def decAtomic (w : BitVec 32) : Option Instr :=
  match (bits w 0 6).toNat with
  | 0 => do return .aadd (← fd w) (← fa w) (← fb w) (Order.ofCode (bits w 6 2))
  | 1 => do return .amin (← fd w) (← fa w) (← fb w) (Order.ofCode (bits w 6 2))
  | 2 => do return .amax (← fd w) (← fa w) (← fb w) (Order.ofCode (bits w 6 2))
  | 3 => do return .aand (← fd w) (← fa w) (← fb w) (Order.ofCode (bits w 6 2))
  | 4 => do return .aor (← fd w) (← fa w) (← fb w) (Order.ofCode (bits w 6 2))
  | 5 => do return .axor (← fd w) (← fa w) (← fb w) (Order.ofCode (bits w 6 2))
  | 6 => do return .aswp (← fd w) (← fa w) (← fb w) (Order.ofCode (bits w 6 2))
  | 7 => do return .acas (← fd w) (← fa w) (← fb w) (Order.ofCode (bits w 6 2))
  | 8 => do return .abadd (← fd w) (← fa w) (← fb w) (Order.ofCode (bits w 6 2))
  | 9 => do return .redadd (← RedType.ofCode (bits w 20 6)) (← fa w) (← fb w) (Order.ofCode (bits w 6 2))
  | 10 => do return .redmin (← RedType.ofCode (bits w 20 6)) (← fa w) (← fb w) (Order.ofCode (bits w 6 2))
  | 11 => do return .redmax (← RedType.ofCode (bits w 20 6)) (← fa w) (← fb w) (Order.ofCode (bits w 6 2))
  | _ => none

/-- OP 25. -/
def decSync (w : BitVec 32) : Option Instr :=
  match (bits w 0 6).toNat with
  | 0 => do zeros w 12 14; return .fence (flag w 11) (← Scope.ofCode (bits w 8 3)) (← FenceKind.ofCode (bits w 6 2))
  | 1 => do zeros w 6 8; return .rwlr (← fd w) (← fa w)
  | 2 => do zeros w 6 8; return .rwlw (← fd w) (← fa w)
  | 3 => do zeros w 6 8; return .rwur (← fd w) (← fa w)
  | 4 => do zeros w 6 8; return .rwuw (← fd w) (← fa w)
  | _ => none

/-- OP 26. -/
def decSys (w : BitVec 32) : Option Instr :=
  match (bits w 17 3).toNat with
  | 0 => do zeros w 12 5; return .sysr (← fd w) (bits w 0 12)
  | 1 => do zeros w 12 5; return .sysw (← fd w) (bits w 0 12)
  | 2 => do zeros w 20 6; zeros w 12 5; return .ecall (bits w 0 12)
  | 3 => do zeros w 20 6; zeros w 0 17; return .eret
  | 4 => do zeros w 20 6; zeros w 0 17; return .yield
  | 5 => do zeros w 20 6; zeros w 0 17; return .halt
  | 6 => do zeros w 20 6; zeros w 12 5; return .brk (bits w 0 12)
  | _ => none

/-- OP 27. -/
def decEvent (w : BitVec 32) : Option Instr :=
  match (bits w 0 6).toNat with
  | 0 => do zeros w 20 6; zeros w 6 2; return .send (← fa w) (← fb w)
  | 1 => do zeros w 20 6; zeros w 7 1; return .sendm (← fa w) (← fb w) (flag w 6)
  | 2 => do zeros w 20 6; zeros w 6 8; return .launch (← fa w)
  | 3 => do zeros w 18 2; zeros w 6 2; return .wait (← fd w) (bits w 14 4) (← fb w)
  | 4 => do zeros w 6 2; return .waitany (← fd w) (← fa w) (← fb w)
  | 5 => do zeros w 24 2; zeros w 6 2; return .ctrset (bits w 20 4) (← fa w) (← fb w)
  | 6 => do zeros w 24 2; zeros w 6 8; return .ctradd (bits w 20 4) (← fa w)
  | _ => none

/-- OP 28. -/
def decCopy (w : BitVec 32) : Option Instr :=
  match (bits w 0 6).toNat with
  | 0 => do zeros w 7 1; return .copy (← token (bits w 20 6)) (← fa w) (← fb w) (flag w 6)
  | 1 => do zeros w 7 1; return .copy2d (← token (bits w 20 6)) (← fa w) (← fb w) (flag w 6)
  | 2 => do zeros w 7 1; return .gather (← token (bits w 20 6)) (← fa w) (← fb w) (flag w 6)
  | 3 => do zeros w 6 2; return .scatter (← token (bits w 20 6)) (← fa w) (← fb w)
  | _ => none

/-- OP 29. -/
def decRing (w : BitVec 32) : Option Instr :=
  match (bits w 0 6).toNat with
  | 0 => do zeros w 6 2; return .rset (← fd w) (← fa w) (← fb w)
  | 1 => do zeros w 20 6; zeros w 6 2; return .radvp (← handle (bits w 14 6)) (← fb w)
  | 2 => do zeros w 20 6; zeros w 6 2; return .radvc (← handle (bits w 14 6)) (← fb w)
  | 3 => do zeros w 7 1; return .rfill (← fd w) (← handle (bits w 14 6)) (← fb w) (flag w 6)
  | 4 => do zeros w 20 6; zeros w 6 2; return .lfull (← fa w) (← fb w)
  | 5 => do zeros w 20 6; zeros w 6 2; return .lempty (← fa w) (← fb w)
  | 6 => do zeros w 6 8; return .ltest (← fd w) (← fa w)
  | _ => none

/-- OP 30. -/
def decVArith (w : BitVec 32) : Option Instr :=
  match (bits w 0 5).toNat with
  | 0 => some (.vadd (bits w 21 5) (bits w 16 5) (bits w 11 5) (bits w 8 3) (ElemType.ofCode (bits w 5 3)))
  | 1 => some (.vsub (bits w 21 5) (bits w 16 5) (bits w 11 5) (bits w 8 3) (ElemType.ofCode (bits w 5 3)))
  | 2 => some (.vmul (bits w 21 5) (bits w 16 5) (bits w 11 5) (bits w 8 3) (ElemType.ofCode (bits w 5 3)))
  | 3 => some (.vfma (bits w 21 5) (bits w 16 5) (bits w 11 5) (bits w 8 3) (ElemType.ofCode (bits w 5 3)))
  | 4 => some (.vmin (bits w 21 5) (bits w 16 5) (bits w 11 5) (bits w 8 3) (ElemType.ofCode (bits w 5 3)))
  | 5 => some (.vmax (bits w 21 5) (bits w 16 5) (bits w 11 5) (bits w 8 3) (ElemType.ofCode (bits w 5 3)))
  | 6 => do zeros w 11 5; return .vabs (bits w 21 5) (bits w 16 5) (bits w 8 3) (ElemType.ofCode (bits w 5 3))
  | 7 => do zeros w 11 5; return .vneg (bits w 21 5) (bits w 16 5) (bits w 8 3) (ElemType.ofCode (bits w 5 3))
  | _ => none

/-- OP 31. -/
def decVBit (w : BitVec 32) : Option Instr :=
  match (bits w 0 5).toNat with
  | 0 => some (.vand (bits w 21 5) (bits w 16 5) (bits w 11 5) (bits w 8 3) (ElemType.ofCode (bits w 5 3)))
  | 1 => some (.vor (bits w 21 5) (bits w 16 5) (bits w 11 5) (bits w 8 3) (ElemType.ofCode (bits w 5 3)))
  | 2 => some (.vxor (bits w 21 5) (bits w 16 5) (bits w 11 5) (bits w 8 3) (ElemType.ofCode (bits w 5 3)))
  | 3 => do zeros w 11 5; return .vnot (bits w 21 5) (bits w 16 5) (bits w 8 3) (ElemType.ofCode (bits w 5 3))
  | 4 => some (.vsll (bits w 21 5) (bits w 16 5) (bits w 11 5) (bits w 8 3) (ElemType.ofCode (bits w 5 3)))
  | 5 => some (.vsrl (bits w 21 5) (bits w 16 5) (bits w 11 5) (bits w 8 3) (ElemType.ofCode (bits w 5 3)))
  | 6 => some (.vsra (bits w 21 5) (bits w 16 5) (bits w 11 5) (bits w 8 3) (ElemType.ofCode (bits w 5 3)))
  | 7 => do zeros w 11 5; return .vpopc (bits w 21 5) (bits w 16 5) (bits w 8 3) (ElemType.ofCode (bits w 5 3))
  | _ => none

/-- OP 32. -/
def decVMask (w : BitVec 32) : Option Instr :=
  match (bits w 0 5).toNat with
  | 0 => do return .vcmp (← VCond.ofCode (bits w 21 5)) (bits w 16 5) (bits w 11 5) (bits w 8 3) (ElemType.ofCode (bits w 5 3))
  | 1 => some (.vsel (bits w 21 5) (bits w 16 5) (bits w 11 5) (bits w 8 3) (ElemType.ofCode (bits w 5 3)))
  | 2 => do zeros w 11 5; return .vclass (bits w 21 5) (bits w 16 5) (bits w 8 3) (ElemType.ofCode (bits w 5 3))
  | 3 => do zeros w 24 2; zeros w 19 2; zeros w 14 2; zeros w 5 6; return .mand (bits w 21 3) (bits w 16 3) (bits w 11 3)
  | 4 => do zeros w 24 2; zeros w 19 2; zeros w 14 2; zeros w 5 6; return .mor (bits w 21 3) (bits w 16 3) (bits w 11 3)
  | 5 => do zeros w 24 2; zeros w 19 2; zeros w 5 11; return .mnot (bits w 21 3) (bits w 16 3)
  | 6 => do zeros w 19 2; zeros w 8 8; return .mcnt (bits w 21 5) (bits w 16 3) (ElemType.ofCode (bits w 5 3))
  | _ => none

/-- OP 33. -/
def decVXform (w : BitVec 32) : Option Instr :=
  match (bits w 0 5).toNat with
  | 0 => some (.vcvt (bits w 21 5) (bits w 16 5) (bits w 14 2) (ElemType.ofCode (bits w 11 3)) (bits w 8 3) (ElemType.ofCode (bits w 5 3)))
  | 1 => do zeros w 11 5; return .vrsum (bits w 21 5) (bits w 16 5) (bits w 8 3) (ElemType.ofCode (bits w 5 3))
  | 2 => do zeros w 11 5; return .vrmax (bits w 21 5) (bits w 16 5) (bits w 8 3) (ElemType.ofCode (bits w 5 3))
  | 3 => do zeros w 11 5; return .vrmin (bits w 21 5) (bits w 16 5) (bits w 8 3) (ElemType.ofCode (bits w 5 3))
  | 4 => do zeros w 11 5; return .vscan (bits w 21 5) (bits w 16 5) (bits w 8 3) (ElemType.ofCode (bits w 5 3))
  | 5 => some (.vperm (bits w 21 5) (bits w 16 5) (bits w 11 5) (bits w 8 3) (ElemType.ofCode (bits w 5 3)))
  | 6 => do zeros w 11 5; return .vbcast (bits w 21 5) (bits w 16 5) (bits w 8 3) (ElemType.ofCode (bits w 5 3))
  | 7 => some (.vext (bits w 21 5) (bits w 16 5) (bits w 11 5) (bits w 8 3) (ElemType.ofCode (bits w 5 3)))
  | 8 => do zeros w 11 10; return .viota (bits w 21 5) (bits w 8 3) (ElemType.ofCode (bits w 5 3))
  | 9 => do zeros w 14 2; return .vtopk (bits w 21 5) (bits w 16 5) (bits w 11 3) (bits w 8 3) (ElemType.ofCode (bits w 5 3))
  | _ => none

/-- OP 34. -/
def decVSpecial (w : BitVec 32) : Option Instr :=
  match (bits w 0 5).toNat with
  | 0 => do zeros w 11 5; return .vexp2 (bits w 21 5) (bits w 16 5) (bits w 8 3) (ElemType.ofCode (bits w 5 3))
  | 1 => do zeros w 11 5; return .vrcp (bits w 21 5) (bits w 16 5) (bits w 8 3) (ElemType.ofCode (bits w 5 3))
  | 2 => do zeros w 11 5; return .vrsq (bits w 21 5) (bits w 16 5) (bits w 8 3) (ElemType.ofCode (bits w 5 3))
  | 3 => do zeros w 11 5; return .vlog2 (bits w 21 5) (bits w 16 5) (bits w 8 3) (ElemType.ofCode (bits w 5 3))
  | _ => none

/-- OP 35. -/
def decVMem (w : BitVec 32) : Option Instr :=
  match (bits w 0 5).toNat with
  | 0 => some (.vld (bits w 21 5) (bits w 16 5) (flag w 15) (bits w 11 4) (bits w 8 3) (ElemType.ofCode (bits w 5 3)))
  | 1 => some (.vst (bits w 21 5) (bits w 16 5) (flag w 15) (bits w 11 4) (bits w 8 3) (ElemType.ofCode (bits w 5 3)))
  | 2 => some (.vldx (bits w 21 5) (bits w 16 5) (bits w 11 5) (bits w 8 3) (ElemType.ofCode (bits w 5 3)))
  | 3 => some (.vstx (bits w 21 5) (bits w 16 5) (bits w 11 5) (bits w 8 3) (ElemType.ofCode (bits w 5 3)))
  | 4 => do zeros w 19 2; return .vldbit (bits w 21 5) (flag w 18) (bits w 16 2) (bits w 11 5) (bits w 8 3) (ElemType.ofCode (bits w 5 3))
  | 5 => do zeros w 19 2; return .vstbit (bits w 21 5) (flag w 18) (bits w 16 2) (bits w 11 5) (bits w 8 3) (ElemType.ofCode (bits w 5 3))
  | _ => none

/-- OP 36. -/
def decVAtomic (w : BitVec 32) : Option Instr :=
  match (bits w 0 5).toNat with
  | 0 => some (.vaadd (bits w 21 5) (bits w 16 5) (bits w 11 5) (bits w 8 3) (ElemType.ofCode (bits w 5 3)))
  | 1 => some (.vaor (bits w 21 5) (bits w 16 5) (bits w 11 5) (bits w 8 3) (ElemType.ofCode (bits w 5 3)))
  | 2 => some (.vamax (bits w 21 5) (bits w 16 5) (bits w 11 5) (bits w 8 3) (ElemType.ofCode (bits w 5 3)))
  | 3 => do zeros w 15 1; return .vredadd (bits w 21 5) (bits w 16 5) (bits w 11 4) (bits w 8 3) (ElemType.ofCode (bits w 5 3))
  | _ => none

/-- OP 44. -/
def decTile (w : BitVec 32) : Option Instr :=
  match (bits w 23 3).toNat with
  | 0 => do zeros w 0 20; return .mzero (bits w 20 3)
  | 1 => do zeros w 17 3; zeros w 0 3; return .mld (bits w 20 3) (← opnd (bits w 11 6)) (← opnd (bits w 5 6)) (← rowFormat (bits w 3 2))
  | 2 => do zeros w 0 2; return .mst (bits w 20 3) (bits w 17 3) (← opnd (bits w 11 6)) (← opnd (bits w 5 6)) (← rowFormat (bits w 3 2)) (flag w 2)
  | 3 => do zeros w 0 17; return .mmov (bits w 20 3) (bits w 17 3)
  | 4 => do zeros w 5 9; zeros w 0 4; return .madd (bits w 20 3) (bits w 17 3) (bits w 14 3) (flag w 4)
  | 5 => do zeros w 0 5; return .mscale (bits w 20 3) (bits w 17 3) (← opnd (bits w 11 6)) (← opnd (bits w 5 6))
  | 6 => do zeros w 17 6; zeros w 0 11; return .mcb (← opnd (bits w 11 6))
  | 7 => do zeros w 5 9; zeros w 0 4; return .mxpose (bits w 20 3) (bits w 17 3) (bits w 14 3) (flag w 4)
  | _ => none

/-- OP 46. -/
def decCluster (w : BitVec 32) : Option Instr :=
  match (bits w 0 6).toNat with
  | 0 => do zeros w 6 8; return .gang (← fd w) (← fa w)
  | 1 => do zeros w 6 8; return .gjoin (← fd w) (← fa w)
  | 2 => do zeros w 20 6; zeros w 6 8; return .gleave (← fa w)
  | 3 => do zeros w 6 8; return .grejoin (← fd w) (← fa w)
  | 4 => do zeros w 20 6; zeros w 6 8; return .xptab (← fa w)
  | 5 => do zeros w 7 1; return .xpose (← token (bits w 20 6)) (← fa w) (← fb w) (flag w 6)
  | _ => none

/-- OP 47. -/
def decHuddle (w : BitVec 32) : Option Instr :=
  match (bits w 0 6).toNat with
  | 0 => do zeros w 6 2; return .hreg (← fd w) (← fa w) (← fb w)
  | 1 => do zeros w 20 6; zeros w 6 8; return .hdrop (← fa w)
  | 2 => do zeros w 6 8; return .harr (← fd w) (← fa w)
  | 3 => do zeros w 6 2; return .hwait (← fd w) (← fa w) (← fb w)
  | 4 => do zeros w 6 8; return .hsync (← fd w) (← fa w)
  | 5 => do zeros w 6 8; return .hdarr (← fd w) (← fa w)
  | _ => none

/-- OP 48. -/
def decSuper (w : BitVec 32) : Option Instr :=
  match (bits w 0 6).toNat with
  | 0 => do zeros w 20 6; zeros w 6 2; return .xtab (← fa w) (← fb w)
  | 1 => do zeros w 20 6; zeros w 6 8; return .xsend (← fa w)
  | 2 => do zeros w 7 7; return .sstep (← fd w) (← fa w) (flag w 6)
  | _ => none

/-- OP 49. -/
def decTask (w : BitVec 32) : Option Instr :=
  match (bits w 0 6).toNat with
  | 0 => if flag w 6 then do zeros w 20 6; zeros w 7 7; return .stdeclFree (← fa w) else do zeros w 7 7; return .stdecl (← fd w) (← fa w)
  | 1 => do zeros w 6 8; return .tspawn (← fd w) (← fa w)
  | 2 => do zeros w 6 20; return .tret
  | 3 => do zeros w 6 20; return .tabort
  | _ => none

/-- OP 50. -/
def decDiff (w : BitVec 32) : Option Instr :=
  match (bits w 0 6).toNat with
  | 0 => do zeros w 8 12; return .dmode (← fd w) (← DiffMode.ofCode (bits w 6 2))
  | 1 => do zeros w 6 2; return .dregset (← fd w) (← fa w) (← fb w)
  | 2 => do zeros w 6 8; return .ldadj (← fd w) (← fa w)
  | 3 => do zeros w 6 8; return .stadj (← fd w) (← fa w)
  | 4 => do zeros w 8 6; return .accadj (← fd w) (← fa w) (Order.ofCode (bits w 6 2))
  | _ => none

/-- OP 51. -/
def decStack (w : BitVec 32) : Option Instr :=
  match (bits w 0 6).toNat with
  | 0 => do zeros w 6 8; return .updt (← token (bits w 20 6)) (← fa w)
  | 1 => do zeros w 6 8; return .fmt (← token (bits w 20 6)) (← fa w)
  | 2 => do zeros w 6 2; return .rkload (← token (bits w 20 6)) (← fa w) (← fb w)
  | 3 => do zeros w 6 8; return .rkrun (← token (bits w 20 6)) (← fa w)
  | 4 => do zeros w 7 7; return .rkstat (← fd w) (← fa w) (flag w 6)
  | 5 => do zeros w 6 8; return .smode (← token (bits w 20 6)) (← fa w)
  | _ => none

/-- OP 52. -/
def decFabric (w : BitVec 32) : Option Instr :=
  match (bits w 0 6).toNat with
  | 0 => do zeros w 6 8; return .coll (← token (bits w 20 6)) (← fa w)
  | 1 => do zeros w 6 8; return .dombar (← fd w) (← fa w)
  | 2 => do zeros w 6 8; return .fstat (← fd w) (← fa w)
  | _ => none

/-- OP 63. -/
def decHint (w : BitVec 32) : Option Instr :=
  match (bits w 24 2).toNat with
  | 0 => some (.hintImm (bits w 0 24))
  | 1 => do zeros w 0 20; return .hintSched (← SchedBr.ofCode (bits w 22 2)) (← SchedPri.ofCode (bits w 20 2))
  | 2 => do zeros w 0 17; return .hintMod (← roundingOf (bits w 21 3)) (flag w 20) (flag w 19) (← CachePol.ofCode (bits w 17 2))
  | _ => none

/-- The instruction of a word by its OP (R53), before the checks of `Instr.wf`. -/
def rawDecode (w : BitVec 32) : Option Instr :=
  match (bits w 26 6).toNat with
  | 1 => decInt w
  | 2 => do return .addi (← fd w) (← fa w) (bits w 0 14)
  | 3 => do return .andi (← fd w) (← fa w) (bits w 0 14)
  | 4 => do return .ori (← fd w) (← fa w) (bits w 0 14)
  | 5 => do return .xori (← fd w) (← fa w) (bits w 0 14)
  | 6 => do return .slti (← fd w) (← fa w) (bits w 0 14)
  | 7 => do return .sltiu (← fd w) (← fa w) (bits w 0 14)
  | 8 => decShi w
  | 9 => do return .lui (← fd w) (bits w 0 20)
  | 10 => do return .auipc (← fd w) (bits w 0 20)
  | 11 => decFp w
  | 12 => do return .beq (← fd w) (← fa w) (bits w 0 14)
  | 13 => do return .bne (← fd w) (← fa w) (bits w 0 14)
  | 14 => do return .blt (← fd w) (← fa w) (bits w 0 14)
  | 15 => do return .bge (← fd w) (← fa w) (bits w 0 14)
  | 16 => do return .bltu (← fd w) (← fa w) (bits w 0 14)
  | 17 => do return .bgeu (← fd w) (← fa w) (bits w 0 14)
  | 18 => do return .jal (← fd w) (bits w 0 20)
  | 19 => do return .jalr (← fd w) (← fa w) (bits w 0 14)
  | 20 => decLoop w
  | 21 => do return .ld (← fd w) (← fa w) (← LdWidth.ofCode (bits w 11 3)) (bits w 0 11)
  | 22 => do return .st (← fd w) (← fa w) (← StWidth.ofCode (bits w 11 3)) (bits w 0 11)
  | 23 => decMem w
  | 24 => decAtomic w
  | 25 => decSync w
  | 26 => decSys w
  | 27 => decEvent w
  | 28 => decCopy w
  | 29 => decRing w
  | 30 => decVArith w
  | 31 => decVBit w
  | 32 => decVMask w
  | 33 => decVXform w
  | 34 => decVSpecial w
  | 35 => decVMem w
  | 36 => decVAtomic w
  | 40 => do zeros w 0 6; return .mldw (← fd w) (bits w 13 7) (bits w 6 7)
  | 41 => do zeros w 0 4; return .mm (bits w 23 3) (← opnd (bits w 17 6)) (bits w 10 7) (KSize.ofCode (bits w 8 2)) (← Pair.ofCode (bits w 4 4))
  | 42 => do zeros w 0 3; return .mms (bits w 23 3) (← opnd (bits w 17 6)) (bits w 10 7) (KSize.ofCode (bits w 8 2)) (← Pair.ofCode (bits w 4 4)) (flag w 3)
  | 43 => do return .mmg (bits w 23 3) (← opnd (bits w 17 6)) (bits w 10 7) (KSize.ofCode (bits w 8 2)) (← Pair.ofCode (bits w 4 4)) (bits w 0 4)
  | 44 => decTile w
  | 45 => some (.bts (bits w 23 3) (bits w 15 8) (flag w 14) (bits w 0 14))
  | 46 => decCluster w
  | 47 => decHuddle w
  | 48 => decSuper w
  | 49 => decTask w
  | 50 => decDiff w
  | 51 => decStack w
  | 52 => decFabric w
  | 63 => decHint w
  | _ => none

/-- The step of a step word (R332), before the checks of `Instr.wf`. -/
def rawDecodeStep (w : BitVec 32) : Option Instr :=
  match (bits w 27 5).toNat with
  | 0 => do zeros w 0 27; return .sHalt
  | 1 => do zeros w 10 6; return .sSend (bits w 24 3) (bits w 22 2) (bits w 16 6) (bits w 0 10)
  | 2 => do zeros w 10 6; return .sRecv (bits w 24 3) (bits w 22 2) (bits w 16 6) (bits w 0 10)
  | 3 => do zeros w 10 2; return .sRrs (bits w 24 3) (bits w 22 2) (bits w 16 6) (← RankType.ofCode (bits w 14 2)) (← RankOp.ofCode (bits w 12 2)) (bits w 0 10)
  | 4 => do zeros w 10 2; return .sRred (bits w 24 3) (bits w 22 2) (bits w 16 6) (← RankType.ofCode (bits w 14 2)) (← RankOp.ofCode (bits w 12 2)) (bits w 0 10)
  | 5 => do zeros w 10 11; return .sCopy (bits w 24 3) (bits w 21 3) (bits w 0 10)
  | 6 => if flag w 26 then do zeros w 20 6; return .sWaitCounter (bits w 16 4) (bits w 0 16) else do zeros w 24 2; zeros w 0 16; return .sWaitPeer (bits w 22 2) (bits w 16 6)
  | 7 => do return .sLoop (flag w 26) (bits w 16 10) (bits w 0 16)
  | 8 => do zeros w 0 26; return .sEndl (flag w 26)
  | 9 => do return .sSeta (bits w 24 3) (bits w 0 24)
  | 10 => do return .sAdda (bits w 24 3) (bits w 0 24)
  | 11 => do zeros w 6 6; return .sBop (← BopFn.ofCode (bits w 24 3)) (bits w 21 3) (bits w 18 3) (bits w 15 3) (bits w 12 3) (bits w 0 6)
  | 12 => do zeros w 0 13; return .sBsadd (bits w 24 3) (bits w 21 3) (bits w 18 3) (bits w 13 5)
  | 13 => do zeros w 0 13; return .sBssub (bits w 24 3) (bits w 21 3) (bits w 18 3) (bits w 13 5)
  | 14 => do zeros w 0 13; return .sBsmul (bits w 24 3) (bits w 21 3) (bits w 18 3) (bits w 13 5)
  | 15 => do zeros w 10 14; return .sMcast (bits w 24 3) (bits w 0 10)
  | 16 => do zeros w 0 10; return .sSignal (bits w 14 13) (bits w 10 4)
  | _ => none

/-- R53: the reserved opcodes. -/
def reservedOp (op : Nat) : Bool := (decide (37 ≤ op) && decide (op ≤ 39)) || (decide (53 ≤ op) && decide (op ≤ 62))

/-- The instruction of a word, or the cause it traps with (R57). -/
def decode (w : BitVec 32) : Except DecodeErr Instr :=
  if reservedOp (bits w 26 6).toNat then .error .reserved
  else match rawDecode w with
    | some i => if i.wf then .ok i else .error .illegal
    | none => .error .illegal

/-- The step of a step word; none where the step is reserved or invalid (R332, R336). -/
def decodeStep (w : BitVec 32) : Option Instr :=
  match rawDecodeStep w with
  | some i => if i.wf then some i else none
  | none => none

/-- A word from its bytes, the lowest address first (R39). -/
def wordOfBytes (b0 b1 b2 b3 : Byte) : BitVec 32 := b3 ++ b2 ++ b1 ++ b0

/-- Decoding of any bytes: the instruction of the first four, and the rest. -/
def decodeBytes : List Byte → Except DecodeErr (Instr × List Byte)
  | b0 :: b1 :: b2 :: b3 :: rest =>
    match decode (wordOfBytes b0 b1 b2 b3) with
    | .ok i => .ok (i, rest)
    | .error e => .error e
  | _ => .error .short

/-- The word of an instruction or step; 0 for an act of a unit, which has none. -/
def encode (i : Instr) : BitVec 32 :=
  match i with
  | .add d a b => 1#6 ++ d.code ++ a.code ++ b.code ++ 0#2 ++ 0#6
  | .sub d a b => 1#6 ++ d.code ++ a.code ++ b.code ++ 0#2 ++ 1#6
  | .and d a b => 1#6 ++ d.code ++ a.code ++ b.code ++ 0#2 ++ 2#6
  | .or d a b => 1#6 ++ d.code ++ a.code ++ b.code ++ 0#2 ++ 3#6
  | .xor d a b => 1#6 ++ d.code ++ a.code ++ b.code ++ 0#2 ++ 4#6
  | .andn d a b => 1#6 ++ d.code ++ a.code ++ b.code ++ 0#2 ++ 5#6
  | .sll d a b => 1#6 ++ d.code ++ a.code ++ b.code ++ 0#2 ++ 6#6
  | .srl d a b => 1#6 ++ d.code ++ a.code ++ b.code ++ 0#2 ++ 7#6
  | .sra d a b => 1#6 ++ d.code ++ a.code ++ b.code ++ 0#2 ++ 8#6
  | .rol d a b => 1#6 ++ d.code ++ a.code ++ b.code ++ 0#2 ++ 9#6
  | .mul d a b => 1#6 ++ d.code ++ a.code ++ b.code ++ 0#2 ++ 10#6
  | .mulh d a b => 1#6 ++ d.code ++ a.code ++ b.code ++ 0#2 ++ 11#6
  | .mulhu d a b => 1#6 ++ d.code ++ a.code ++ b.code ++ 0#2 ++ 12#6
  | .div d a b => 1#6 ++ d.code ++ a.code ++ b.code ++ 0#2 ++ 13#6
  | .divu d a b => 1#6 ++ d.code ++ a.code ++ b.code ++ 0#2 ++ 14#6
  | .rem d a b => 1#6 ++ d.code ++ a.code ++ b.code ++ 0#2 ++ 15#6
  | .remu d a b => 1#6 ++ d.code ++ a.code ++ b.code ++ 0#2 ++ 16#6
  | .min d a b => 1#6 ++ d.code ++ a.code ++ b.code ++ 0#2 ++ 17#6
  | .max d a b => 1#6 ++ d.code ++ a.code ++ b.code ++ 0#2 ++ 18#6
  | .minu d a b => 1#6 ++ d.code ++ a.code ++ b.code ++ 0#2 ++ 19#6
  | .maxu d a b => 1#6 ++ d.code ++ a.code ++ b.code ++ 0#2 ++ 20#6
  | .slt d a b => 1#6 ++ d.code ++ a.code ++ b.code ++ 0#2 ++ 21#6
  | .sltu d a b => 1#6 ++ d.code ++ a.code ++ b.code ++ 0#2 ++ 22#6
  | .seq d a b => 1#6 ++ d.code ++ a.code ++ b.code ++ 0#2 ++ 23#6
  | .clz d a => 1#6 ++ d.code ++ a.code ++ 0#8 ++ 24#6
  | .ctz d a => 1#6 ++ d.code ++ a.code ++ 0#8 ++ 25#6
  | .popc d a => 1#6 ++ d.code ++ a.code ++ 0#8 ++ 26#6
  | .bfx d a b => 1#6 ++ d.code ++ a.code ++ b.code ++ 0#2 ++ 27#6
  | .bfi d a b => 1#6 ++ d.code ++ a.code ++ b.code ++ 0#2 ++ 28#6
  | .addi d a imm => 2#6 ++ d.code ++ a.code ++ imm
  | .andi d a imm => 3#6 ++ d.code ++ a.code ++ imm
  | .ori d a imm => 4#6 ++ d.code ++ a.code ++ imm
  | .xori d a imm => 5#6 ++ d.code ++ a.code ++ imm
  | .slti d a imm => 6#6 ++ d.code ++ a.code ++ imm
  | .sltiu d a imm => 7#6 ++ d.code ++ a.code ++ imm
  | .slli d a n => 8#6 ++ d.code ++ a.code ++ 0#2 ++ 0#6 ++ n
  | .srli d a n => 8#6 ++ d.code ++ a.code ++ 1#2 ++ 0#6 ++ n
  | .srai d a n => 8#6 ++ d.code ++ a.code ++ 2#2 ++ 0#6 ++ n
  | .roli d a n => 8#6 ++ d.code ++ a.code ++ 3#2 ++ 0#6 ++ n
  | .lui d imm => 9#6 ++ d.code ++ imm
  | .auipc d imm => 10#6 ++ d.code ++ imm
  | .fadd d a b => 11#6 ++ d.code ++ a.code ++ b.code ++ 0#2 ++ 0#6
  | .fsub d a b => 11#6 ++ d.code ++ a.code ++ b.code ++ 0#2 ++ 1#6
  | .fmul d a b => 11#6 ++ d.code ++ a.code ++ b.code ++ 0#2 ++ 2#6
  | .fma d a b => 11#6 ++ d.code ++ a.code ++ b.code ++ 0#2 ++ 3#6
  | .fdiv d a b => 11#6 ++ d.code ++ a.code ++ b.code ++ 0#2 ++ 4#6
  | .fsqrt d a => 11#6 ++ d.code ++ a.code ++ 0#8 ++ 5#6
  | .fmin d a b => 11#6 ++ d.code ++ a.code ++ b.code ++ 0#2 ++ 6#6
  | .fmax d a b => 11#6 ++ d.code ++ a.code ++ b.code ++ 0#2 ++ 7#6
  | .feq d a b => 11#6 ++ d.code ++ a.code ++ b.code ++ 0#2 ++ 8#6
  | .flt d a b => 11#6 ++ d.code ++ a.code ++ b.code ++ 0#2 ++ 9#6
  | .fle d a b => 11#6 ++ d.code ++ a.code ++ b.code ++ 0#2 ++ 10#6
  | .fclass d a => 11#6 ++ d.code ++ a.code ++ 0#8 ++ 11#6
  | .fcvt d a c => 11#6 ++ d.code ++ a.code ++ c.code ++ 0#2 ++ 12#6
  | .beq a b off => 12#6 ++ a.code ++ b.code ++ off
  | .bne a b off => 13#6 ++ a.code ++ b.code ++ off
  | .blt a b off => 14#6 ++ a.code ++ b.code ++ off
  | .bge a b off => 15#6 ++ a.code ++ b.code ++ off
  | .bltu a b off => 16#6 ++ a.code ++ b.code ++ off
  | .bgeu a b off => 17#6 ++ a.code ++ b.code ++ off
  | .jal d off => 18#6 ++ d.code ++ off
  | .jalr d a imm => 19#6 ++ d.code ++ a.code ++ imm
  | .loop k a off => 20#6 ++ 0#1 ++ flagCode k ++ a.code ++ 0#4 ++ off
  | .loopi k n off => 20#6 ++ 1#1 ++ flagCode k ++ n ++ off
  | .ld d b w imm => 21#6 ++ d.code ++ b.code ++ w.code ++ imm
  | .st s b w imm => 22#6 ++ s.code ++ b.code ++ w.code ++ imm
  | .lda d a w sc => 23#6 ++ d.code ++ a.code ++ w.code ++ sc.code ++ 0#2 ++ 0#6
  | .stl s a w sc => 23#6 ++ s.code ++ a.code ++ w.code ++ sc.code ++ 0#2 ++ 1#6
  | .ldbit d k w p => 23#6 ++ d.code ++ 0#4 ++ k ++ 0#1 ++ w ++ 0#1 ++ flagCode p ++ 2#6
  | .stbit s k w p => 23#6 ++ s.code ++ 0#4 ++ k ++ 0#1 ++ w ++ 0#1 ++ flagCode p ++ 3#6
  | .baset k a b => 23#6 ++ 0#4 ++ k ++ a.code ++ b.code ++ 0#2 ++ 4#6
  | .aadd d a b o => 24#6 ++ d.code ++ a.code ++ b.code ++ o.code ++ 0#6
  | .amin d a b o => 24#6 ++ d.code ++ a.code ++ b.code ++ o.code ++ 1#6
  | .amax d a b o => 24#6 ++ d.code ++ a.code ++ b.code ++ o.code ++ 2#6
  | .aand d a b o => 24#6 ++ d.code ++ a.code ++ b.code ++ o.code ++ 3#6
  | .aor d a b o => 24#6 ++ d.code ++ a.code ++ b.code ++ o.code ++ 4#6
  | .axor d a b o => 24#6 ++ d.code ++ a.code ++ b.code ++ o.code ++ 5#6
  | .aswp d a b o => 24#6 ++ d.code ++ a.code ++ b.code ++ o.code ++ 6#6
  | .acas d a b o => 24#6 ++ d.code ++ a.code ++ b.code ++ o.code ++ 7#6
  | .abadd d a b o => 24#6 ++ d.code ++ a.code ++ b.code ++ o.code ++ 8#6
  | .redadd t a b o => 24#6 ++ t.code ++ a.code ++ b.code ++ o.code ++ 9#6
  | .redmin t a b o => 24#6 ++ t.code ++ a.code ++ b.code ++ o.code ++ 10#6
  | .redmax t a b o => 24#6 ++ t.code ++ a.code ++ b.code ++ o.code ++ 11#6
  | .fence e sc k => 25#6 ++ 0#14 ++ flagCode e ++ sc.code ++ k.code ++ 0#6
  | .rwlr d a => 25#6 ++ d.code ++ a.code ++ 0#8 ++ 1#6
  | .rwlw d a => 25#6 ++ d.code ++ a.code ++ 0#8 ++ 2#6
  | .rwur d a => 25#6 ++ d.code ++ a.code ++ 0#8 ++ 3#6
  | .rwuw d a => 25#6 ++ d.code ++ a.code ++ 0#8 ++ 4#6
  | .sysr d n => 26#6 ++ d.code ++ 0#3 ++ 0#5 ++ n
  | .sysw s n => 26#6 ++ s.code ++ 1#3 ++ 0#5 ++ n
  | .ecall c => 26#6 ++ 0#6 ++ 2#3 ++ 0#5 ++ c
  | .eret => 26#6 ++ 0#6 ++ 3#3 ++ 0#17
  | .yield => 26#6 ++ 0#6 ++ 4#3 ++ 0#17
  | .halt => 26#6 ++ 0#6 ++ 5#3 ++ 0#17
  | .brk c => 26#6 ++ 0#6 ++ 6#3 ++ 0#5 ++ c
  | .send a b => 27#6 ++ 0#6 ++ a.code ++ b.code ++ 0#2 ++ 0#6
  | .sendm a b f => 27#6 ++ 0#6 ++ a.code ++ b.code ++ 0#1 ++ flagCode f ++ 1#6
  | .launch a => 27#6 ++ 0#6 ++ a.code ++ 0#8 ++ 2#6
  | .wait d k b => 27#6 ++ d.code ++ 0#2 ++ k ++ b.code ++ 0#2 ++ 3#6
  | .waitany d a b => 27#6 ++ d.code ++ a.code ++ b.code ++ 0#2 ++ 4#6
  | .ctrset k a b => 27#6 ++ 0#2 ++ k ++ a.code ++ b.code ++ 0#2 ++ 5#6
  | .ctradd k a => 27#6 ++ 0#2 ++ k ++ a.code ++ 0#8 ++ 6#6
  | .copy t a b f => 28#6 ++ 0#1 ++ t ++ a.code ++ b.code ++ 0#1 ++ flagCode f ++ 0#6
  | .copy2d t a b f => 28#6 ++ 0#1 ++ t ++ a.code ++ b.code ++ 0#1 ++ flagCode f ++ 1#6
  | .gather t a b f => 28#6 ++ 0#1 ++ t ++ a.code ++ b.code ++ 0#1 ++ flagCode f ++ 2#6
  | .scatter t a b => 28#6 ++ 0#1 ++ t ++ a.code ++ b.code ++ 0#2 ++ 3#6
  | .rset h a b => 29#6 ++ h.code ++ a.code ++ b.code ++ 0#2 ++ 0#6
  | .radvp h b => 29#6 ++ 0#6 ++ 0b101#3 ++ h ++ b.code ++ 0#2 ++ 1#6
  | .radvc h b => 29#6 ++ 0#6 ++ 0b101#3 ++ h ++ b.code ++ 0#2 ++ 2#6
  | .rfill d h b w => 29#6 ++ d.code ++ 0b101#3 ++ h ++ b.code ++ 0#1 ++ flagCode w ++ 3#6
  | .lfull a b => 29#6 ++ 0#6 ++ a.code ++ b.code ++ 0#2 ++ 4#6
  | .lempty a b => 29#6 ++ 0#6 ++ a.code ++ b.code ++ 0#2 ++ 5#6
  | .ltest d a => 29#6 ++ d.code ++ a.code ++ 0#8 ++ 6#6
  | .vadd d a b m t => 30#6 ++ d ++ a ++ b ++ m ++ t.code ++ 0#5
  | .vsub d a b m t => 30#6 ++ d ++ a ++ b ++ m ++ t.code ++ 1#5
  | .vmul d a b m t => 30#6 ++ d ++ a ++ b ++ m ++ t.code ++ 2#5
  | .vfma d a b m t => 30#6 ++ d ++ a ++ b ++ m ++ t.code ++ 3#5
  | .vmin d a b m t => 30#6 ++ d ++ a ++ b ++ m ++ t.code ++ 4#5
  | .vmax d a b m t => 30#6 ++ d ++ a ++ b ++ m ++ t.code ++ 5#5
  | .vabs d a m t => 30#6 ++ d ++ a ++ 0#5 ++ m ++ t.code ++ 6#5
  | .vneg d a m t => 30#6 ++ d ++ a ++ 0#5 ++ m ++ t.code ++ 7#5
  | .vand d a b m t => 31#6 ++ d ++ a ++ b ++ m ++ t.code ++ 0#5
  | .vor d a b m t => 31#6 ++ d ++ a ++ b ++ m ++ t.code ++ 1#5
  | .vxor d a b m t => 31#6 ++ d ++ a ++ b ++ m ++ t.code ++ 2#5
  | .vnot d a m t => 31#6 ++ d ++ a ++ 0#5 ++ m ++ t.code ++ 3#5
  | .vsll d a b m t => 31#6 ++ d ++ a ++ b ++ m ++ t.code ++ 4#5
  | .vsrl d a b m t => 31#6 ++ d ++ a ++ b ++ m ++ t.code ++ 5#5
  | .vsra d a b m t => 31#6 ++ d ++ a ++ b ++ m ++ t.code ++ 6#5
  | .vpopc d a m t => 31#6 ++ d ++ a ++ 0#5 ++ m ++ t.code ++ 7#5
  | .vcmp c a b p t => 32#6 ++ c.code ++ a ++ b ++ p ++ t.code ++ 0#5
  | .vsel d a b m t => 32#6 ++ d ++ a ++ b ++ m ++ t.code ++ 1#5
  | .vclass d a m t => 32#6 ++ d ++ a ++ 0#5 ++ m ++ t.code ++ 2#5
  | .mand d a b => 32#6 ++ 0#2 ++ d ++ 0#2 ++ a ++ 0#2 ++ b ++ 0#6 ++ 3#5
  | .mor d a b => 32#6 ++ 0#2 ++ d ++ 0#2 ++ a ++ 0#2 ++ b ++ 0#6 ++ 4#5
  | .mnot d a => 32#6 ++ 0#2 ++ d ++ 0#2 ++ a ++ 0#11 ++ 5#5
  | .mcnt x a t => 32#6 ++ x ++ 0#2 ++ a ++ 0#8 ++ t.code ++ 6#5
  | .vcvt d a p sty m t => 33#6 ++ d ++ a ++ p ++ sty.code ++ m ++ t.code ++ 0#5
  | .vrsum d a m t => 33#6 ++ d ++ a ++ 0#5 ++ m ++ t.code ++ 1#5
  | .vrmax d a m t => 33#6 ++ d ++ a ++ 0#5 ++ m ++ t.code ++ 2#5
  | .vrmin d a m t => 33#6 ++ d ++ a ++ 0#5 ++ m ++ t.code ++ 3#5
  | .vscan d a m t => 33#6 ++ d ++ a ++ 0#5 ++ m ++ t.code ++ 4#5
  | .vperm d a b m t => 33#6 ++ d ++ a ++ b ++ m ++ t.code ++ 5#5
  | .vbcast d x m t => 33#6 ++ d ++ x ++ 0#5 ++ m ++ t.code ++ 6#5
  | .vext x a l g t => 33#6 ++ x ++ a ++ l ++ g ++ t.code ++ 7#5
  | .viota d p t => 33#6 ++ d ++ 0#10 ++ p ++ t.code ++ 8#5
  | .vtopk d a k m t => 33#6 ++ d ++ a ++ 0#2 ++ k ++ m ++ t.code ++ 9#5
  | .vexp2 d a m t => 34#6 ++ d ++ a ++ 0#5 ++ m ++ t.code ++ 0#5
  | .vrcp d a m t => 34#6 ++ d ++ a ++ 0#5 ++ m ++ t.code ++ 1#5
  | .vrsq d a m t => 34#6 ++ d ++ a ++ 0#5 ++ m ++ t.code ++ 2#5
  | .vlog2 d a m t => 34#6 ++ d ++ a ++ 0#5 ++ m ++ t.code ++ 3#5
  | .vld d x f o m t => 35#6 ++ d ++ x ++ flagCode f ++ o ++ m ++ t.code ++ 0#5
  | .vst s x f o m t => 35#6 ++ s ++ x ++ flagCode f ++ o ++ m ++ t.code ++ 1#5
  | .vldx d x i m t => 35#6 ++ d ++ x ++ i ++ m ++ t.code ++ 2#5
  | .vstx s x i m t => 35#6 ++ s ++ x ++ i ++ m ++ t.code ++ 3#5
  | .vldbit d p k w m t => 35#6 ++ d ++ 0#2 ++ flagCode p ++ k ++ w ++ m ++ t.code ++ 4#5
  | .vstbit s p k w m t => 35#6 ++ s ++ 0#2 ++ flagCode p ++ k ++ w ++ m ++ t.code ++ 5#5
  | .vaadd d x i m t => 36#6 ++ d ++ x ++ i ++ m ++ t.code ++ 0#5
  | .vaor d x i m t => 36#6 ++ d ++ x ++ i ++ m ++ t.code ++ 1#5
  | .vamax d x i m t => 36#6 ++ d ++ x ++ i ++ m ++ t.code ++ 2#5
  | .vredadd s x o m t => 36#6 ++ s ++ x ++ 0#1 ++ o ++ m ++ t.code ++ 3#5
  | .mldw a w n => 40#6 ++ a.code ++ w ++ n ++ 0#6
  | .mm t a w k f => 41#6 ++ t ++ a.code ++ w ++ k.code ++ f.code ++ 0#4
  | .mms t a w k f n => 42#6 ++ t ++ a.code ++ w ++ k.code ++ f.code ++ flagCode n ++ 0#3
  | .mmg t a w k f v => 43#6 ++ t ++ a.code ++ w ++ k.code ++ f.code ++ v
  | .mzero d => 44#6 ++ 0#3 ++ d ++ 0#20
  | .mld d a b f => 44#6 ++ 1#3 ++ d ++ 0#3 ++ a.code ++ b.code ++ 0#1 ++ flagCode f ++ 0#3
  | .mst s v a b f g => 44#6 ++ 2#3 ++ s ++ v ++ a.code ++ b.code ++ 0#1 ++ flagCode f ++ flagCode g ++ 0#2
  | .mmov d a => 44#6 ++ 3#3 ++ d ++ a ++ 0#17
  | .madd d a b i => 44#6 ++ 4#3 ++ d ++ a ++ b ++ 0#9 ++ flagCode i ++ 0#4
  | .mscale d a x y => 44#6 ++ 5#3 ++ d ++ a ++ x.code ++ y.code ++ 0#5
  | .mcb a => 44#6 ++ 6#3 ++ 0#6 ++ a.code ++ 0#11
  | .mxpose d a b h => 44#6 ++ 7#3 ++ d ++ a ++ b ++ 0#9 ++ flagCode h ++ 0#4
  | .bts a m s off => 45#6 ++ a ++ m ++ flagCode s ++ off
  | .gang d a => 46#6 ++ d.code ++ a.code ++ 0#8 ++ 0#6
  | .gjoin d a => 46#6 ++ d.code ++ a.code ++ 0#8 ++ 1#6
  | .gleave a => 46#6 ++ 0#6 ++ a.code ++ 0#8 ++ 2#6
  | .grejoin d a => 46#6 ++ d.code ++ a.code ++ 0#8 ++ 3#6
  | .xptab a => 46#6 ++ 0#6 ++ a.code ++ 0#8 ++ 4#6
  | .xpose t a b f => 46#6 ++ 0#1 ++ t ++ a.code ++ b.code ++ 0#1 ++ flagCode f ++ 5#6
  | .hreg d a b => 47#6 ++ d.code ++ a.code ++ b.code ++ 0#2 ++ 0#6
  | .hdrop a => 47#6 ++ 0#6 ++ a.code ++ 0#8 ++ 1#6
  | .harr d a => 47#6 ++ d.code ++ a.code ++ 0#8 ++ 2#6
  | .hwait d a b => 47#6 ++ d.code ++ a.code ++ b.code ++ 0#2 ++ 3#6
  | .hsync d a => 47#6 ++ d.code ++ a.code ++ 0#8 ++ 4#6
  | .hdarr d a => 47#6 ++ d.code ++ a.code ++ 0#8 ++ 5#6
  | .xtab a b => 48#6 ++ 0#6 ++ a.code ++ b.code ++ 0#2 ++ 0#6
  | .xsend a => 48#6 ++ 0#6 ++ a.code ++ 0#8 ++ 1#6
  | .sstep d a e => 48#6 ++ d.code ++ a.code ++ 0#7 ++ flagCode e ++ 2#6
  | .stdecl d a => 49#6 ++ d.code ++ a.code ++ 0#8 ++ 0#6
  | .stdeclFree a => 49#6 ++ 0#6 ++ a.code ++ 1#8 ++ 0#6
  | .tspawn d a => 49#6 ++ d.code ++ a.code ++ 0#8 ++ 1#6
  | .tret => 49#6 ++ 0#20 ++ 2#6
  | .tabort => 49#6 ++ 0#20 ++ 3#6
  | .dmode d m => 50#6 ++ d.code ++ 0#12 ++ m.code ++ 0#6
  | .dregset j a b => 50#6 ++ j.code ++ a.code ++ b.code ++ 0#2 ++ 1#6
  | .ldadj d a => 50#6 ++ d.code ++ a.code ++ 0#8 ++ 2#6
  | .stadj s a => 50#6 ++ s.code ++ a.code ++ 0#8 ++ 3#6
  | .accadj s a o => 50#6 ++ s.code ++ a.code ++ 0#6 ++ o.code ++ 4#6
  | .updt t a => 51#6 ++ 0#1 ++ t ++ a.code ++ 0#8 ++ 0#6
  | .fmt t a => 51#6 ++ 0#1 ++ t ++ a.code ++ 0#8 ++ 1#6
  | .rkload t a b => 51#6 ++ 0#1 ++ t ++ a.code ++ b.code ++ 0#2 ++ 2#6
  | .rkrun t a => 51#6 ++ 0#1 ++ t ++ a.code ++ 0#8 ++ 3#6
  | .rkstat d a c => 51#6 ++ d.code ++ a.code ++ 0#7 ++ flagCode c ++ 4#6
  | .smode t a => 51#6 ++ 0#1 ++ t ++ a.code ++ 0#8 ++ 5#6
  | .sHalt => 0#5 ++ 0#27
  | .sSend a d k l => 1#5 ++ a ++ d ++ k ++ 0#6 ++ l
  | .sRecv a d k l => 2#5 ++ a ++ d ++ k ++ 0#6 ++ l
  | .sRrs a d k t f l => 3#5 ++ a ++ d ++ k ++ t.code ++ f.code ++ 0#2 ++ l
  | .sRred a d k t f l => 4#5 ++ a ++ d ++ k ++ t.code ++ f.code ++ 0#2 ++ l
  | .sCopy a s l => 5#5 ++ a ++ s ++ 0#11 ++ l
  | .sWaitPeer d k => 6#5 ++ 0#3 ++ d ++ k ++ 0#16
  | .sWaitCounter n t => 6#5 ++ 64#7 ++ n ++ t
  | .sLoop v e c => 7#5 ++ flagCode v ++ e ++ c
  | .sEndl v => 8#5 ++ flagCode v ++ 0#26
  | .sSeta a i => 9#5 ++ a ++ i
  | .sAdda a i => 10#5 ++ a ++ i
  | .sBop g d x y z r => 11#5 ++ g.code ++ d ++ x ++ y ++ z ++ 0#6 ++ r
  | .sBsadd d x y w => 12#5 ++ d ++ x ++ y ++ w ++ 0#13
  | .sBssub d x y w => 13#5 ++ d ++ x ++ y ++ w ++ 0#13
  | .sBsmul d x y w => 14#5 ++ d ++ x ++ y ++ w ++ 0#13
  | .sMcast a l => 15#5 ++ a ++ 0#14 ++ l
  | .sSignal c n => 16#5 ++ c ++ n ++ 0#10
  | .coll t a => 52#6 ++ 0#1 ++ t ++ a.code ++ 0#8 ++ 0#6
  | .dombar d a => 52#6 ++ d.code ++ a.code ++ 0#8 ++ 1#6
  | .fstat d a => 52#6 ++ d.code ++ a.code ++ 0#8 ++ 2#6
  | .hintImm p => 63#6 ++ 0#2 ++ p
  | .hintSched b r => 63#6 ++ 1#2 ++ b.code ++ r.code ++ 0#20
  | .hintMod m s p c => 63#6 ++ 2#2 ++ roundingCode m ++ flagCode s ++ flagCode p ++ c.code ++ 0#17
  | _ => 0

/-- Has the row an encoding as a strand instruction or a hint? -/
def Instr.isWord : Instr → Bool
  | .controlRegisterWrite .. | .sHalt | .sSend .. | .sRecv .. | .sRrs .. | .sRred ..
  | .sCopy .. | .sWaitPeer .. | .sWaitCounter .. | .sLoop .. | .sEndl .. | .sSeta ..
  | .sAdda .. | .sBop .. | .sBsadd .. | .sBssub .. | .sBsmul .. | .sMcast ..
  | .sSignal .. | .illegalInstruction .. | .lockRepresentation | .hardwareDump | .messageArrival | .launchArrival
  | .launchQueueStart | .rxwatchExpiry | .probe | .verdict | .swapCountdownExpiry | .spill
  | .fill | .fillComplete | .copyComplete | .channelWordArrival | .transposeExchange | .transposeExchangeComplete
  | .huddleRelease | .xsendArrival | .taskCommit | .taskPlacement | .coreAssignment | .expertFillComplete
  | .streamSliceArrival | .expertDrained | .evict | .trel | .stat | .rcfg
  | .route | .flush | .rrel | .rfault | .routingRelease | .updtComplete
  | .fmtComplete | .rkloadComplete | .rankProgramComplete | .modeSwitchComplete | .switchDeadline | .actcfg
  | .scadd | .activationAlert | .alertWindowStart | .stepBoundary | .peerTimeout | .collComplete
  | .rsend | .rlaunch | .rwin | .dkgrant | .readRequest | .readResponse
  | .write | .writeAcknowledgement | .atomic | .atomicResponse | .reduction | .message
  | .launchPacket | .collectiveFragment | .collectiveControl | .failureResponse | .hostRequest | .spdm
  | .fabricTimeout | .membershipChange | .generationAnnounce | .domainDeadline | .xinv | .invalidationComplete
  | .powerStateEntry | .wake | .packageReset | .invalidStep | .spillComplete | .rwinComplete
  | .dumpKeyRelease => false
  | _ => true

/-- Is the row a step word? -/
def Instr.isStep : Instr → Bool
  | .sHalt | .sSend .. | .sRecv .. | .sRrs .. | .sRred .. | .sCopy .. | .sWaitPeer .. | .sWaitCounter ..
  | .sLoop .. | .sEndl .. | .sSeta .. | .sAdda .. | .sBop .. | .sBsadd .. | .sBssub .. | .sBsmul ..
  | .sMcast .. | .sSignal .. => true
  | _ => false

/-- The bytes of a word, the lowest address first (R39). -/
def bytesOfWord (w : BitVec 32) : List Byte :=
  [w.extractLsb' 0 8, w.extractLsb' 8 8, w.extractLsb' 16 8, w.extractLsb' 24 8]

/-- What the decoder reads from an instruction whose bits are w. -/
def decodeTableWord (_nbits w : Nat) : Option Instr :=
  match decodeBytes (bytesOfWord (BitVec.ofNat 32 w)) with
  | .ok (i, _) => some i
  | .error _ => none

end Sys2Proof
end

