-- ==== Sys2Proof/Machine/Acts.lean ====
section
/-! DEFINITION. The acts of the machine's units: arrivals, completions, expiries, port commands and what
the world outside does (the rows of the opcode table that have no word). An act carries what it works on;
the acts that are due stand in the state, and the act at their head is the one in hand. -/

namespace Sys2Proof.Machine

/-- What the signed configuration record sets (R367): PKGID, where each core's save area stands, the ownership bytes that
are not 0, the stacks in RANK mode, FTMO and the domain deadline in µs, TOL, BUDGET and WINUS of each stack, the ports that
train, and the host ports. -/
structure ConfRecord where
  pkg      : BitVec 10
  saves    : List (CoreId × Nat)
  pown     : List (Nat × Byte)
  sown     : List (Nat × Byte)
  hown     : List (Nat × Byte)
  modes    : BitVec 12
  ftmo     : BitVec 32
  deadline : BitVec 32
  tol      : BitVec 32
  alerts   : List (BitVec 8 × BitVec 16)
  ports    : BitVec 18
  host     : BitVec 18
  deriving DecidableEq, Repr, Inhabited

inductive Act where
  /- Atomics and locks, OPs 24 and 25 (R249 to R254, R265). -/
  | lockRepresentation (core : CoreId)
  /- System, OP 26 (R63, R118, R119). -/
  | hardwareDump (core : CoreId)
  /- Events, OP 27, and what arrives (R199 to R214). -/
  | messageArrival (src : CoreId) (dst : CoreId)
  | launchArrival (src : CoreId) (dst : CoreId)
  | launchQueueStart (core : CoreId)
  | rxwatchExpiry (core : CoreId)
  | probe (core : CoreId) (origin : CoreId) (n : Nat) (low : CoreId) (seen : List CoreId)
  | verdict (core : CoreId) (n : Nat) (seen : List CoreId)
  | swapCountdownExpiry (core : CoreId)
  | spill (core : CoreId)
  | fill (core : CoreId) (place : BitVec 2)
  | fillComplete (core : CoreId)
  /- Copies, rings and lines, OPs 28 and 29 (R157 to R169). -/
  | copyComplete (id : Nat)
  | channelWordArrival (src : Who) (sport : BitVec 3) (dst : CoreId) (dport : BitVec 3) (w : Word)
  /- Gangs and the transpose exchange, OP 46 (R221 to R233). -/
  | transposeExchange (cl : BitVec 9)
  | transposeExchangeComplete (cl : BitVec 9)
  /- Huddles and supersteps, OPs 47 and 48 (R275 to R285). -/
  | huddleRelease (die : BitVec 2) (h : BitVec 10)
  | xsendArrival (who : Who) (dst : CoreId) (off : BitVec 16) (data : List Byte)
  /- Tasks and experts, OP 49 and q1 (R286 to R299). -/
  | taskCommit (core : CoreId)
  | taskPlacement (die : BitVec 2) (stage : BitVec 4) (core : CoreId)
  | coreAssignment (die : BitVec 2)
  | expertFillComplete (who : Who)
  | streamSliceArrival (who : Who) (slice : Nat)
  | expertDrained (die : BitVec 2) (stage : BitVec 4) (e : Nat)
  | evict (who : Who) (ws : List Word)
  | trel (who : Who) (ws : List Word)
  | stat (who : Who) (ws : List Word)
  /- The routing core, q2 (R300 to R303). -/
  | rcfg (who : Who) (ws : List Word)
  | route (who : Who) (ws : List Word)
  | flush (who : Who) (ws : List Word)
  | rrel (who : Who) (ws : List Word)
  | rfault (who : Who) (ws : List Word)
  | routingRelease (die : BitVec 2) (v : Word)
  /- Stack engines and column sequencers, OP 51 and q0 (R327 to R346). -/
  | updtComplete (id : Nat)
  | fmtComplete (id : Nat)
  | rkloadComplete (id : Nat)
  | rankProgramComplete (id : Nat)
  | modeSwitchComplete (stack : BitVec 4)
  | switchDeadline (stack : BitVec 4)
  | actcfg (who : Who) (ws : List Word)
  | scadd (who : Who) (ws : List Word)
  | activationAlert (rank : BitVec 14)
  | alertWindowStart (stack : BitVec 4)
  /- Step words (R332 to R336). -/
  | stepBoundary (u : StepUnit)
  | peerTimeout (u : StepUnit)
  /- The fabric, OP 52 and q3 (R350 to R363). -/
  | collComplete (id : Nat)
  | rsend (who : Who) (ws : List Word)
  | rlaunch (who : Who) (ws : List Word)
  | rwin (who : Who) (ws : List Word)
  | dkgrant (who : Who) (ws : List Word)
  | readRequest (p : Packet)
  | readResponse (p : Packet)
  | write (p : Packet)
  | writeAcknowledgement (p : Packet)
  | atomic (p : Packet)
  | atomicResponse (p : Packet)
  | reduction (p : Packet)
  | message (p : Packet)
  | launchPacket (p : Packet)
  | collectiveFragment (p : Packet)
  | collectiveControl (p : Packet)
  | failureResponse (p : Packet)
  | hostRequest (p : Packet) (op : HostOp)
  | spdm (peer : SpdmPeer) (m : SpdmMsg)
  | fabricTimeout (tag : Nat)
  | membershipChange (op : MemberOp)
  | generationAnnounce (g : BitVec 32)
  | domainDeadline (arrived : List (BitVec 12))
  /- Translation, power and bring-up (R244, R366, R367). -/
  | xinv (cl : BitVec 9) (v : Word)
  | invalidationComplete (cl : BitVec 9)
  | powerStateEntry (u : PowerUnit)
  | wake (u : PowerUnit)
  | packageReset (verified : Bool) (r : ConfRecord) (salt : BitVec 128)
  /- Words that are no instruction, and the remaining completions (R57, R214, R336, R354). -/
  | invalidStep (u : StepUnit) (w : BitVec 32)
  | spillComplete (core : CoreId)
  | rwinComplete (who : Who) (ws : List Word)
  | dumpKeyRelease (dseq : Word) (salt : BitVec 128)
  deriving DecidableEq, Repr, Inhabited

/-- The row of the table an act belongs to. -/
def Act.instr : Act → Instr
  | .lockRepresentation .. => .lockRepresentation
  | .hardwareDump .. => .hardwareDump
  | .messageArrival .. => .messageArrival
  | .launchArrival .. => .launchArrival
  | .launchQueueStart .. => .launchQueueStart
  | .rxwatchExpiry .. => .rxwatchExpiry
  | .probe .. => .probe
  | .verdict .. => .verdict
  | .swapCountdownExpiry .. => .swapCountdownExpiry
  | .spill .. => .spill
  | .fill .. => .fill
  | .fillComplete .. => .fillComplete
  | .copyComplete .. => .copyComplete
  | .channelWordArrival .. => .channelWordArrival
  | .transposeExchange .. => .transposeExchange
  | .transposeExchangeComplete .. => .transposeExchangeComplete
  | .huddleRelease .. => .huddleRelease
  | .xsendArrival .. => .xsendArrival
  | .taskCommit .. => .taskCommit
  | .taskPlacement .. => .taskPlacement
  | .coreAssignment .. => .coreAssignment
  | .expertFillComplete .. => .expertFillComplete
  | .streamSliceArrival .. => .streamSliceArrival
  | .expertDrained .. => .expertDrained
  | .evict .. => .evict
  | .trel .. => .trel
  | .stat .. => .stat
  | .rcfg .. => .rcfg
  | .route .. => .route
  | .flush .. => .flush
  | .rrel .. => .rrel
  | .rfault .. => .rfault
  | .routingRelease .. => .routingRelease
  | .updtComplete .. => .updtComplete
  | .fmtComplete .. => .fmtComplete
  | .rkloadComplete .. => .rkloadComplete
  | .rankProgramComplete .. => .rankProgramComplete
  | .modeSwitchComplete .. => .modeSwitchComplete
  | .switchDeadline .. => .switchDeadline
  | .actcfg .. => .actcfg
  | .scadd .. => .scadd
  | .activationAlert .. => .activationAlert
  | .alertWindowStart .. => .alertWindowStart
  | .stepBoundary .. => .stepBoundary
  | .peerTimeout .. => .peerTimeout
  | .collComplete .. => .collComplete
  | .rsend .. => .rsend
  | .rlaunch .. => .rlaunch
  | .rwin .. => .rwin
  | .dkgrant .. => .dkgrant
  | .readRequest .. => .readRequest
  | .readResponse .. => .readResponse
  | .write .. => .write
  | .writeAcknowledgement .. => .writeAcknowledgement
  | .atomic .. => .atomic
  | .atomicResponse .. => .atomicResponse
  | .reduction .. => .reduction
  | .message .. => .message
  | .launchPacket .. => .launchPacket
  | .collectiveFragment .. => .collectiveFragment
  | .collectiveControl .. => .collectiveControl
  | .failureResponse .. => .failureResponse
  | .hostRequest .. => .hostRequest
  | .spdm .. => .spdm
  | .fabricTimeout .. => .fabricTimeout
  | .membershipChange .. => .membershipChange
  | .generationAnnounce .. => .generationAnnounce
  | .domainDeadline .. => .domainDeadline
  | .xinv .. => .xinv
  | .invalidationComplete .. => .invalidationComplete
  | .powerStateEntry .. => .powerStateEntry
  | .wake .. => .wake
  | .packageReset .. => .packageReset
  | .invalidStep .. => .invalidStep
  | .spillComplete .. => .spillComplete
  | .rwinComplete .. => .rwinComplete
  | .dumpKeyRelease .. => .dumpKeyRelease

end Sys2Proof.Machine
end

