-- ==== Sys2Proof/Machine/Tab.lean ====
section
/-! DEFINITION. Sparse tables: a list of keys and values in rising order of the keys, for state of which
most entries stand at their reset value. -/

namespace Sys2Proof.Machine

abbrev Tab (α : Type) := List (Nat × α)

namespace Tab

/-- The value at a key, if the key is listed. -/
def find? {α : Type} : Tab α → Nat → Option α
  | [], _ => none
  | (k, v) :: r, i => if k = i then some v else find? r i

/-- The value at a key, or what an unlisted key holds. -/
def get {α : Type} (t : Tab α) (i : Nat) (d : α) : α := (t.find? i).getD d

def set {α : Type} : Tab α → Nat → α → Tab α
  | [], i, v => [(i, v)]
  | (k, w) :: r, i, v =>
    if i < k then (i, v) :: (k, w) :: r
    else if i = k then (i, v) :: r
    else (k, w) :: set r i v

def erase {α : Type} : Tab α → Nat → Tab α
  | [], _ => []
  | (k, w) :: r, i => if k = i then r else (k, w) :: erase r i

end Tab

end Sys2Proof.Machine
end

