-- ==== Sys2Proof/Machine/State.lean ====
section
/-! DEFINITION. The machine's state, all of it plain data, and its value after reset (R59, R72, R367).
Where the spec gives no reset value the field's docstring says so (log entry 2); fields that are the
model's own and not the spec's are marked so (log entries 1, 4 and 5). -/

namespace Sys2Proof.Machine

/-! ## One context -/

/-- A tile's flag record (R186): [5:0] NV OF UF NX ME SO, and ERRADDR. -/
structure TileFlags where
  bits    : BitVec 6
  errAddr : Word
  deriving DecidableEq, Repr, Inhabited

/-- A tile register: 16 rows of 32 words (R59). -/
abbrev Tile := Vector (BitVec 1024) 16

/-- A hardware loop level (R68, R71); `active` is STATUS.LAk. -/
structure LoopLevel where
  start  : Word
  last   : Word
  count  : BitVec 32
  active : Bool
  deriving DecidableEq, Repr, Inhabited

/-- A bound ring handle (R159): base, the configuration bits of R160, P and C. -/
structure Ring where
  base : BitVec 16
  cfg  : BitVec 16
  prod : BitVec 32
  cons : BitVec 32
  deriving DecidableEq, Repr, Inhabited

/-- A queue port of a context (R162, R163). `flight` (the model's own) holds the commands whose outcome is still to come
or to be delivered, in the order of their pushes, by number. -/
structure Port where
  part     : List Word
  results  : List Word
  reserved : Nat
  flight   : List (Nat × Option Word)
  deriving DecidableEq, Repr, Inhabited

/-- The binding of a channel end (R164). -/
structure ChanBind where
  peer : CoreId
  port : BitVec 3
  recv : Bool
  deriving DecidableEq, Repr, Inhabited

/-- A channel end: its binding and the words it holds; the words on their way stand among the acts due. -/
structure Chan where
  bind : Option ChanBind
  held : List Word
  deriving DecidableEq, Repr, Inhabited

/-- The gang state of R229, and STATUS.GANG and STATUS.LEAD. -/
structure Gang where
  gang    : Bool
  lead    : Bool
  leader  : BitVec 4
  pos     : BitVec 4
  isIn    : Bool
  det     : Bool
  rjw     : Bool
  mask    : BitVec 16
  ownCtx  : BitVec 32
  rejoin  : Word
  leadCtx : BitVec 32
  deriving DecidableEq, Repr, Inhabited

/-- How a context died (R75, R216): the fatal cause and value, the cycle, and a receive's cycle (R210). -/
structure Death where
  cause   : BitVec 8
  value   : Word
  time    : Word
  members : Nat
  list    : List CoreId
  deriving DecidableEq, Repr, Inhabited

/-- The life of a slot's context: idle, live, placed but not ready (R298), halted with work outstanding
(R119), dead and awaiting its dump (R216). -/
inductive Life where
  | idle
  | live
  | notReady
  | draining
  | dead (d : Death)
  deriving DecidableEq, Repr, Inhabited

/-- A task by its die, stage and queue slot (R290). -/
structure TaskRef where
  die   : BitVec 2
  stage : BitVec 4
  slot  : BitVec 8
  deriving DecidableEq, Repr, Inhabited

/-- The outcome of a fabric request: bytes read or returned, or the cause of its failure (R351). -/
inductive RemoteVal where
  | data (bs : List Byte)
  | fail (cause : BitVec 8)
  deriving DecidableEq, Repr, Inhabited

/-- What the front context waits for in a receive (R209): a counter and its threshold, some counter of a mask, n
filled slots of a counter-bound ring, or n words of a channel. -/
inductive Recv where
  | counter (k : BitVec 4) (t : BitVec 32)
  | any (m : BitVec 16) (t : BitVec 32)
  | ring (h : BitVec 3) (n : Nat)
  | chan (c : BitVec 3) (n : Nat)
  deriving DecidableEq, Repr, Inhabited

/-- How far the exchange of a waiting XPOSE is (R231, R232): its core has arrived, the exchange has started, it
may retire. -/
inductive XState where
  | arrived
  | started
  | done
  deriving DecidableEq, Repr, Inhabited

/-- MODEL'S OWN (log entry 5): what a waiting instruction has done so far: the receive it waits in
(R209), its mask or its leader (R222), the lock instruction it presents again, and the word it counted itself on (R254), the huddle it waits on and whether
it came from the compute phase (R276, R283), the cycle of
its slot (R284), its arrival (R231), the fabric responses it has (R350). -/
inductive Progress where
  | none
  | receive (r : Recv)
  | gang (i : Instr) (mask : BitVec 16)
  | gjoin (i : Instr) (leader : BitVec 4)
  | rejoin (i : Instr)
  | lock (i : Instr) (counted : Option Nat)
  | barrier (i : Instr) (h : BitVec 12) (compute : Bool)
  | slot (cycle : Nat)
  | xpose (i : Instr) (src dst : BitVec 16) (st : XState)
  | remote (got : List RemoteVal) (tag : Option Nat)
  deriving DecidableEq, Repr, Inhabited

/-- A pop of the unit in hand: the specifier and the value (R45). -/
abbrev Pop := Opnd × Word

/-- A context (R59, R150). -/
structure Ctx where
  x         : Vector Word 32
  v         : Vector (BitVec 1024) 32
  p         : Vector (BitVec 128) 8
  t         : Vector Tile 8
  tf        : Vector TileFlags 8
  loops     : Vector LoopLevel 2
  rings     : Vector (Option Ring) 8
  ba        : Vector Word 4
  hist      : List Word
  trapHist  : List Word
  hold      : List Word
  /-- MODEL'S OWN: the unit the holding buffer belongs to (R45). -/
  holdFor   : Word
  ports     : Vector Port 4
  chans     : Vector Chan 8
  pend      : BitVec 32
  /-- Address of the unit at which the context stands (R48). No reset value: log entry 2. -/
  pc        : Word
  /-- STATUS [8:0]: TRAP, PL, PPL, RM, SAT (R64); its other bits have their homes elsewhere. -/
  status    : BitVec 9
  tvec      : Word
  epc       : Word
  ecause    : BitVec 8
  evalue    : Word
  mseq      : BitVec 12
  /-- The partial-sum store (R191) while MSEQ.HELD is 1 for a product: the even chains of the 512 elements, their
  odd chains, and the conditions met so far. -/
  sums      : List (BitVec 32)
  ydeadline : BitVec 32
  rxwatch   : BitVec 32
  phase     : BitVec 2
  domain    : BitVec 12
  traceEn   : Bool
  dumpBase  : Word
  ctxid     : BitVec 32
  instret   : Word
  tapeBase  : Word
  tapeLim   : Word
  tapePos   : Word
  mode      : DiffMode
  esz       : BitVec 8
  dbase     : Vector Word 8
  dlen      : Vector (BitVec 40) 8
  dadj      : Vector Word 8
  gang      : Gang
  /-- The slot base of an exchange phase (R283). -/
  slotBase  : Nat
  task      : Option TaskRef
  life      : Life
  /-- The first failed fabric access that is still to be reported (R351). -/
  failed    : Option (BitVec 8 × Word)
  /-- MODEL'S OWN: the hints bound so far to the unit at PC (R48). -/
  hints     : List (BitVec 32)
  /-- MODEL'S OWN: the pops of the unit in hand (R45). -/
  pops      : List Pop
  progress  : Progress
  deriving DecidableEq, Repr

/-- The CTXID of a slot before its first launch: SLOT, CORE, PKG (R67). DESIGN CHOICE: log entry 2. -/
def ctxidOf (slot : Bool) (core : CoreId) (pkg : BitVec 10) (gen : BitVec 8) : BitVec 32 :=
  gen ++ pkg ++ core ++ BitVec.ofBool slot

/-- A context reset (R72). -/
def Ctx.reset (ctxid : BitVec 32) : Ctx where
  x         := Vector.replicate 32 0
  v         := Vector.replicate 32 0
  p         := Vector.replicate 8 0
  t         := Vector.replicate 8 (Vector.replicate 16 0)
  tf        := Vector.replicate 8 ⟨0, 0⟩
  loops     := Vector.replicate 2 ⟨0, 0, 0, false⟩
  rings     := Vector.replicate 8 none
  ba        := Vector.replicate 4 0
  hist      := List.replicate 8 0
  trapHist  := List.replicate 8 0
  hold      := []
  holdFor   := 0
  ports     := Vector.replicate 4 ⟨[], [], 0, []⟩
  chans     := Vector.replicate 8 ⟨none, []⟩
  pend      := 0
  pc        := 0
  status    := 0
  tvec      := 0
  epc       := 0
  ecause    := 0
  evalue    := 0
  mseq      := 0
  sums      := []
  ydeadline := 20000
  rxwatch   := 65536
  phase     := 0
  domain    := 0
  traceEn   := true
  dumpBase  := 0
  ctxid     := ctxid
  instret   := 0
  tapeBase  := 0
  tapeLim   := 0
  tapePos   := 0
  mode      := .fwd
  esz       := 0
  dbase     := Vector.replicate 8 0
  dlen      := Vector.replicate 8 0
  dadj      := Vector.replicate 8 0
  gang      := ⟨false, false, 0, 0, false, false, false, 0, 0, 0, 0⟩
  slotBase  := 0
  task      := none
  life      := .idle
  failed    := none
  hints     := []
  pops      := []
  progress  := .none

/-! ## One core -/

/-- A weight-buffer unit (R173): its bytes, its owner's CTXID while it is valid, and which of its 16 granules
of 8 bytes have check bits that fail (R247). -/
structure WUnit where
  data : BitVec 1024
  tag  : Option (BitVec 32)
  bad  : BitVec 16
  deriving DecidableEq, Repr, Inhabited

/-- An event counter (R197): value; tag [12:0] COREID, [13] V. -/
structure Counter where
  val : BitVec 32
  tag : BitVec 14
  deriving DecidableEq, Repr, Inhabited

/-- A message or a launch in the outgoing buffer (R201, R206). -/
inductive OutMsg where
  | msg (dst : CoreId) (addr : BitVec 16) (ctr : BitVec 4) (full : Bool) (data : List Byte)
  | launch (r : LaunchRec)
  deriving DecidableEq, Repr, Inhabited

/-- A forced swap (R213): none is due; due since a countdown expired in the cycle given, whose own unit goes first; due at the
next boundary. -/
inductive SwapDue where
  | no
  | since (cycle : Nat)
  | now
  deriving DecidableEq, Repr, Inhabited

/-- An exchange slot entry (R281). -/
structure XSlot where
  cycle : BitVec 32
  core  : BitVec 4
  bytes : BitVec 16
  src   : BitVec 16
  dst   : BitVec 29
  deriving DecidableEq, Repr, Inhabited

/-- A staged line of the commit buffer (R294): the task context it belongs to, the physical address of its
64 bytes, its mask, its data. -/
structure StagedLine where
  owner : BitVec 32
  addr : Nat
  mask : BitVec 64
  data : List Byte
  deriving DecidableEq, Repr, Inhabited

structure Core where
  id        : CoreId
  /-- A service core runs at MANAGER level (R61). -/
  service   : Bool
  /-- Which physical slot is the front slot; the other is the shadow slot (R148). -/
  frontSlot : Bool
  front     : Ctx
  shadow    : Ctx
  /-- Launch counts of slots 0 and 1 (R67, R208). -/
  gen0      : BitVec 8
  gen1      : BitVec 8
  full      : BitVec 384
  wbuf      : Vector WUnit 128
  vqTable   : BitVec 8192
  vqTag     : Option (BitVec 32)
  counters  : Vector Counter 16
  rngSeed   : Word
  trace     : Vector (BitVec 128) 512
  traceHead : BitVec 9
  traceWrap : Bool
  freeze    : Bool
  launchQ   : List LaunchRec
  outbox    : List OutMsg
  slots     : List XSlot
  slotTag   : Option (BitVec 32)
  /-- The four places of the save area (R149). -/
  save      : Vector (Option Ctx) 4
  /-- The spill engine's work (R214): a spill or a fill that runs. -/
  spilling  : Option (BitVec 2)
  filling   : Option (BitVec 2)
  /-- The countdown of R212, as the cycle in which it expires, and whether a swap is due. -/
  countdown : Option Nat
  swapDue   : SwapDue
  /-- The cycle from which the front context issues again after a swap (R148). -/
  busy      : Nat
  /-- The receive watchdog (R210), as the cycle in which it expires. -/
  watchdog  : Option Nat
  /-- MODEL'S OWN: CTXID and PC of the receive in which the last probe left this core (R210). -/
  probed    : Option (BitVec 32 × Word)
  /-- The commit buffer (R294). -/
  commit    : List StagedLine
  /-- Arrivals are held while a dump is made (R216). -/
  holding   : Bool
  /-- SAFE of R368. -/
  safe      : Bool
  /-- Discarded arrivals, counted for management (R285). -/
  discards  : Nat
  deriving DecidableEq, Repr

/-- A core after package reset (R367 steps 5 and 6). -/
def Core.reset (id : CoreId) : Core where
  id        := id
  service   := false
  frontSlot := false
  front     := Ctx.reset (ctxidOf false id 0 0)
  shadow    := Ctx.reset (ctxidOf true id 0 0)
  gen0      := 0
  gen1      := 0
  full      := 0
  wbuf      := Vector.replicate 128 ⟨0, none, 0⟩
  vqTable   := 0
  vqTag     := none
  counters  := Vector.replicate 16 ⟨0, 0⟩
  rngSeed   := 0
  trace     := Vector.replicate 512 0
  traceHead := 0
  traceWrap := false
  freeze    := false
  launchQ   := []
  outbox    := []
  slots     := []
  slotTag   := none
  save      := Vector.replicate 4 none
  spilling  := none
  filling   := none
  countdown := none
  swapDue   := .no
  busy      := 0
  watchdog  := none
  probed    := none
  commit    := []
  holding   := false
  safe      := false
  discards  := 0

/-! ## Clusters -/

/-- A non-leaf entry held by the walker cache (R244): its level, the first address that it translates, the entry. -/
structure TlbNode where
  level : Nat
  base  : Nat
  pte   : Word
  deriving DecidableEq, Repr, Inhabited

/-- A translation held by the TLBs (R244): the page's virtual address and size, and its leaf. -/
structure TlbEntry where
  va   : Nat
  size : Nat
  pte  : Word
  deriving DecidableEq, Repr, Inhabited

/-- A member of a transpose exchange (R231, R232): its fragments as read at the start, those that met an
uncorrectable error, and the slots whose fragment did. -/
structure XMember where
  who  : Who
  t    : BitVec 5
  dst  : BitVec 16
  full : Bool
  data : List Byte
  bad  : BitVec 16
  errs : BitVec 16
  deriving DecidableEq, Repr, Inhabited

structure Cluster where
  /-- XROOT and XTEN (R242). -/
  xroot : Word
  xten  : BitVec 6
  /-- An invalidation that runs: the word written to XINV (R244). -/
  inval : Option Word
  tlb   : List TlbEntry
  /-- What the walker cache holds for the cluster (R244). -/
  nodes : List TlbNode
  /-- How many changes of the ownership bytes had been made at the last invalidation of every entry (R243). -/
  ownSeen : Nat
  /-- The permutation table T (R230). -/
  perm  : Vector (BitVec 4) 16
  /-- An exchange that runs its rounds: its members by core number, the table it started with, and the next
  round (R232); and those whose rounds have ended and whose tokens are still to land. -/
  xrun  : List XMember
  xperm : Vector (BitVec 4) 16
  round : Nat
  xend  : List (List XMember)
  /-- The first cycle in which an exchange may start after the last one (R232). -/
  xfree : Nat
  deriving DecidableEq, Repr

def Cluster.reset : Cluster where
  xroot := 0
  xten  := 0
  inval := none
  tlb   := []
  nodes := []
  ownSeen := 0
  perm  := Vector.ofFn fun i => BitVec.ofNat 4 i.val
  xrun  := []
  xperm := Vector.ofFn fun i => BitVec.ofNat 4 i.val
  round := 0
  xend  := []
  xfree := 0

/-! ## Dies -/

/-- A registration on a huddle (R273, R279). MODEL'S OWN: `held`, the cycle of its release, while its phase is complete and
the release is due (R278); `goal`, the phase that its HWAIT waits for. -/
structure HReg where
  who  : Who
  mode : BitVec 2
  arr  : Bool
  wt   : Bool
  ap   : BitVec 32
  held : Option Nat
  goal : BitVec 32
  deriving DecidableEq, Repr, Inhabited

/-- A huddle (R273); `leaving` counts dropped members whose arrival stands in this phase (R276). -/
structure Huddle where
  phase   : BitVec 32
  expect  : Nat
  arrived : Nat
  leaving : Nat
  regs    : List HReg
  deriving DecidableEq, Repr, Inhabited

def Huddle.reset : Huddle := ⟨0, 0, 0, 0, []⟩

/-- A footprint of a task (R287). -/
structure Footprint where
  base  : Word
  len   : Nat
  write : Bool
  deriving DecidableEq, Repr, Inhabited

/-- The states of R292. -/
inductive TaskState where
  | waiting
  | ready
  | filling
  | running
  | committing
  deriving DecidableEq, Repr, Inhabited

/-- A task in a stage's queue (R287, R290, R291); `order` is its place in the spawn order, `preds` the
orders of its producers that have not retired, `avoid` the core a TABORT left. -/
structure Task where
  gen    : BitVec 16
  state  : TaskState
  order  : Nat
  preds  : List Nat
  extra  : Nat
  expert : Option Nat
  arg1   : Word
  arg2   : Word
  foots  : List Footprint
  desc   : Word
  avoid  : Option CoreId
  deriving DecidableEq, Repr, Inhabited

/-- The states of R297. -/
inductive ExpertState where
  | absent
  | filling
  | resident
  | draining
  deriving DecidableEq, Repr, Inhabited

/-- An expert of a stage (R297); the pins by slice. -/
structure Expert where
  state : ExpertState
  pins  : List Nat
  deriving DecidableEq, Repr, Inhabited

/-- A declared stage: the descriptor as copied (R286), its tenant and the cluster that declared it, its
queue with the generations of its slots, its experts and FAILS. -/
structure Stage where
  entry   : Word
  conf    : Word
  limits  : Word
  extab   : Word
  sbuf    : Word
  tenant  : BitVec 6
  cluster : BitVec 9
  tasks   : Tab Task
  gens    : Tab (BitVec 16)
  experts : Tab Expert
  fails   : BitVec 16
  deriving DecidableEq, Repr, Inhabited

/-- The words of a standing RCFG (R300), its tenant and cluster. -/
structure RouteCfg where
  words   : List Word
  tenant  : BitVec 6
  cluster : BitVec 9
  deriving DecidableEq, Repr, Inhabited

/-- The routing core (R300 to R303). `admitted` is the tenant of the configuration that the accepted
commands leave standing. MODEL'S OWN (log entry 5): what the accesses made so far by the command in hand gave,
and the fabric request that it awaits. -/
structure Routing where
  cfg      : Option RouteCfg
  admitted : Option (BitVec 6)
  done     : BitVec 32
  faulted  : BitVec 16
  record   : Word
  got      : List RemoteVal
  tag      : Option Nat
  deriving DecidableEq, Repr, Inhabited

structure Die where
  huddles : Tab Huddle
  stages  : Tab Stage
  /-- Core to stage (R296). -/
  assign  : Tab (BitVec 4)
  /-- Tasks spawned so far. -/
  spawned : Nat
  routing : Routing
  deriving DecidableEq, Repr, Inhabited

def Die.reset : Die := ⟨[], [], [], 0, ⟨none, none, 0, 0, 0, [], none⟩⟩

/-! ## Stacks, ranks and collectives -/

/-- The registers of a stack (R338), and the switch that runs (R329): its command. -/
structure Stack where
  mode   : Bool
  swp    : Bool
  swdone : Bool
  swf    : Bool
  swcnt  : BitVec 16
  alerts : BitVec 32
  budget : BitVec 8
  win    : BitVec 8
  winus  : BitVec 16
  nfcnt  : BitVec 32
  smode  : Option Nat
  /-- MODEL'S OWN (log entry 4): the free value that the contents of the staging rows are taken with since the stack
  last entered RANK mode (R328). -/
  scr    : Option Nat
  deriving DecidableEq, Repr, Inhabited

def Stack.reset : Stack := ⟨false, false, false, false, 0, 0, 8, 0, 32, 0, none, none⟩

/-- A column sequencer (R327, R334): its step store and its counters; unlisted words and counters are 0. -/
structure Sequencer where
  store    : Tab (BitVec 32)
  counters : Tab (BitVec 16)
  deriving DecidableEq, Repr, Inhabited

/-- A rank group, or a group of packages: base and four dimensions of size and stride (R331, R356). -/
structure Group where
  base : Nat
  dims : List (Nat × Int)
  deriving DecidableEq, Repr, Inhabited

/-- The states of R330. -/
inductive StepState where
  | idle
  | running
  | inStep
  | halted
  | failed
  deriving DecidableEq, Repr, Inhabited

/-- A step loop level (R334). -/
structure StepLoop where
  active : Bool
  count  : Nat
  first  : Nat
  last   : Nat
  deriving DecidableEq, Repr, Inhabited

/-- A context that runs step words (R330): a rank context or a collective context. `inbox` holds its
fragments, oldest first, with the member that sent each (a collective context's with the TAG as well, above it);
`staged` what the step in progress has staged, by offset in the window; `taken` the fragment it has taken, `given` how
many fragments it has delivered; `since` the cycle in which its wait began; `tmo` its peer timeout in microseconds; `advance`
(the model's own) whether the step in progress awaits only its boundary. -/
structure StepCtx where
  state   : StepState
  spc     : Nat
  loops   : Vector StepLoop 2
  a       : Vector (BitVec 26) 8
  inbox   : List (Nat × List Byte)
  steps   : BitVec 16
  reason  : BitVec 4
  wt      : Bool
  since   : Option Nat
  group   : Group
  wrow    : Nat
  wrows   : Nat
  tmo     : Nat
  staged  : List (Nat × List Byte)
  taken   : Option (List Byte)
  given   : Nat
  advance : Bool
  overBudget : Bool
  run     : Option Nat
  tenant  : BitVec 6
  deriving DecidableEq, Repr

def StepCtx.reset : StepCtx where
  state   := .idle
  spc     := 0
  loops   := Vector.replicate 2 ⟨false, 0, 0, 0⟩
  a       := Vector.replicate 8 0
  inbox   := []
  steps   := 0
  reason  := 0
  wt      := false
  since   := none
  group   := ⟨0, []⟩
  wrow    := 0
  wrows   := 0
  tmo     := 0
  staged  := []
  taken   := none
  given   := 0
  advance := false
  overBudget := false
  run     := none
  tenant  := 0

/-- A context of the fabric collective engine (R356, R357). `written` counts the bytes written into the
window, `raised` the window-writing steps completed, `peers` the STEPS that control packets reported,
`refused` whether a fragment was refused (R359). -/
structure CollCtx where
  cx      : StepCtx
  store   : List (BitVec 32)
  nw      : Nat
  cmd     : Nat
  who     : Who
  collid  : BitVec 16
  wbase   : BitVec 16
  wlines  : Nat
  ctr0    : Nat
  cnum    : Nat
  full    : Bool
  raised  : Nat
  written : Nat
  peers   : Tab (BitVec 16)
  refused : Bool
  deriving DecidableEq, Repr

/-! ## The fabric -/

/-- What waits on a fabric request; a fragment names the step that sent it, by its command and STEPS as it ran. -/
inductive ReqUse where
  | precise
  | posted
  | command (id : Nat)
  | route (die : BitVec 2)
  | rsend (port : BitVec 2) (n : Nat)
  | fragment (ctx : BitVec 4) (cmd : Nat) (steps : BitVec 16)
  deriving DecidableEq, Repr, Inhabited

/-- A fabric request that awaits its response (R351): who issued it, the virtual address and the bytes it reaches,
when it times out, and what waits on it. -/
structure Request where
  who  : Who
  va   : Word
  len  : Nat
  due  : Nat
  use  : ReqUse
  deriving DecidableEq, Repr, Inhabited

/-- A reduction window (R355). -/
structure RedWindow where
  opened : Bool
  type   : BitVec 2
  home   : Nat
  len    : Nat
  core   : CoreId
  ctr    : BitVec 4
  deriving DecidableEq, Repr, Inhabited

/-- A message that arrives in several packets (R371): its sender, TAG, target, counter, F and length; where its first
byte goes; the bytes of it that have come; those that the ones written replaced; whether it is discarded (R285), and whether
one of its packets was dropped. -/
structure PartMsg where
  src    : BitVec 10
  tag    : BitVec 12
  core   : CoreId
  ctr    : BitVec 4
  full   : Bool
  mlen   : Nat
  first  : Nat
  got    : Nat
  old    : List (Nat × List Byte)
  lost   : Bool
  broken : Bool
  deriving DecidableEq, Repr, Inhabited

structure Fabric where
  /-- Admitted to a domain, and its leader (R361). -/
  member   : Bool
  leader   : Bool
  key      : BitVec 256
  kgen     : BitVec 32
  /-- The pending target generation (R363). -/
  target   : Option (BitVec 32)
  /-- Members admitted, and those that leave with the pending generation. -/
  members  : List (BitVec 12)
  leavers  : List (BitVec 12)
  /-- Has this package arrived for the target? -/
  arrived  : Bool
  /-- Next SEQ by destination x 4 + VC, and the greatest accepted by source x 4 + VC (R362). -/
  seq      : Tab Nat
  seen     : Tab Nat
  /-- Requests in flight by TAG (R352). -/
  reqs     : Tab Request
  /-- Packets formed, oldest first. -/
  sent     : List Packet
  drops    : BitVec 32
  /-- The log of the packets dropped (R353, R362), oldest first. -/
  dropLog  : List Packet
  timeouts : BitVec 32
  ports    : BitVec 18
  /-- The host ports (R367 step 3). -/
  hostPorts : BitVec 18
  windows  : Tab RedWindow
  parts    : List PartMsg
  /-- Fragments that arrived before their context (R356). -/
  inbound  : List Packet
  colls    : Tab CollCtx
  /-- FTMO and the domain deadline in microseconds (R351, R363). -/
  ftmo     : Nat
  deadline : Nat
  /-- The cycle in which the deadline of the pending generation passes, and the members that have reported their arrival
  to this package, its leader (R363). -/
  expiry   : Option Nat
  reported : List (BitVec 12)
  /-- Host responses: the STATUS of each request, oldest first (R364). -/
  replies  : List (BitVec 8 × List Byte)
  /-- The key of the host's session (R364), and how often each session's keys were updated (R361). -/
  hostKey  : Option (BitVec 256)
  updates  : List SpdmPeer
  /-- The SPDM messages accepted in the exchanges that run (R361, R364), and those refused. -/
  spdm     : List (SpdmPeer × SpdmMsg)
  refused  : List (SpdmPeer × SpdmMsg)
  deriving DecidableEq, Repr

def Fabric.reset : Fabric where
  member   := false
  leader   := false
  key      := 0
  kgen     := 0
  target   := none
  members  := []
  leavers  := []
  arrived  := false
  seq      := []
  seen     := []
  reqs     := []
  sent     := []
  drops    := 0
  dropLog  := []
  timeouts := 0
  ports    := BitVec.allOnes 18
  hostPorts := 0
  windows  := []
  parts    := []
  inbound  := []
  colls    := []
  ftmo     := 100
  deadline := 10000
  expiry   := none
  reported := []
  replies  := []
  hostKey  := none
  updates  := []
  spdm     := []
  refused  := []

/-! ## Engine commands -/

/-- What an engine command does (R166, R231, R340, R342, R343, R359), its descriptor as read. -/
inductive CmdKind where
  | copy (dst src : Word) (n : Nat) (full : Bool)
  | copy2d (dst src : Word) (row rows ss ds : Nat) (full : Bool)
  | gather (dst list : Word) (n count : Nat) (full : Bool)
  | scatter (list src : Word) (n count : Nat)
  | xpose
  | updt (d : List Word)
  | fmt (d : List Word)
  | rkload (image : Word) (load : Word)
  | rkrun (d : List Word) (members : List Nat)
  | smode (w : Word)
  | coll
  deriving DecidableEq, Repr, Inhabited

/-- Bytes of a command's footprint (R268): at a virtual address of its strand, or at a physical one. -/
inductive Foot where
  | va (a : Word) (n : Nat)
  | pa (a n : Nat)
  deriving DecidableEq, Repr, Inhabited

/-- An outstanding engine command: its owner and token, and what was in force when it retired (R316):
USER level, the mode without PRIMAL, the declared regions, STATUS.SAT (R82), the task whose writes are staged (R294), its
footprint. `got` and `tag` carry its fabric pieces; `step` and `moved` count a copy's completed elements and their
bytes. -/
structure Cmd where
  id      : Nat
  who     : Who
  token   : BitVec 5
  kind    : CmdKind
  user    : Bool
  tenant  : BitVec 6
  mode    : DiffMode
  primal  : Bool
  regions : List (Nat × Nat)
  sat     : Bool
  task    : Option Task
  foot    : List Foot
  got     : List RemoteVal
  tag     : Option Nat
  step    : Nat
  moved   : Nat
  deriving DecidableEq, Repr, Inhabited

/-- An act that is due: at once (none), or in a given cycle. -/
structure Due where
  act   : Act
  cycle : Option Nat
  deriving DecidableEq, Repr, Inhabited

/-- A notice to a quadrant's service core (R216): the fatal cause, the core, the tenant, and the dump's
physical address or the reason none was written. -/
structure Notice where
  cause  : BitVec 8
  core   : CoreId
  tenant : BitVec 6
  dump   : Option Nat
  reason : BitVec 2
  deriving DecidableEq, Repr, Inhabited

/-- A dump key that a tenant let the security processor release (R354). -/
structure Grant where
  tenant : BitVec 6
  dseq   : Word
  salt   : BitVec 128
  deriving DecidableEq, Repr, Inhabited

/-! ## The package -/

structure State where
  /-- The core in focus: the one whose front context an instruction runs on (log entry 1). -/
  core     : Core
  /-- The other cores, by COREID; an unlisted one stands at its reset value. -/
  others   : Tab Core
  clusters : Tab Cluster
  dies     : Tab Die
  mem      : Memory
  /-- Granules of 8 bytes whose check bits fail (R247). -/
  bad      : List Nat
  /-- POWN and SOWN (R242), huddle owners (R274): unlisted bytes are 0. -/
  pown     : Tab Byte
  sown     : Tab Byte
  hown     : Tab Byte
  /-- POWN and SOWN as they stood before each change of them, oldest first: a cluster goes by those of its last
  invalidation of every entry (R243). -/
  ownPast  : List (Tab Byte × Tab Byte)
  /-- Where a core's save area stands in the stacked DRAM (R149), for the cores that the record names. -/
  saveAt   : Tab Nat
  pkgid    : BitVec 10
  cycle    : Word
  /-- MODEL'S OWN: how far the updates of this cycle have come, in the orders that the spec gives them (log entry 88). -/
  stage    : Nat
  /-- The cycle of the last fabric or host traffic (R366). -/
  traffic  : Nat
  stackRegs   : Tab Stack
  seqs     : Tab Sequencer
  ranks    : Tab StepCtx
  fabric   : Fabric
  cmds     : List Cmd
  nextCmd  : Nat
  /-- LATTOL (R365). -/
  tol      : BitVec 32
  cur      : BitVec 3
  /-- Dies, stacks and the package asleep (R366). -/
  asleep   : List PowerUnit
  dseq     : Word
  salt     : BitVec 128
  notices  : List Notice
  /-- The record did not verify: the package stays in reset (R367 step 2). -/
  down     : Bool
  grants   : List Grant
  /-- Keys that the security processor has released, by DSEQ (R354). -/
  released : List (Word × BitVec 256)
  /-- MODEL'S OWN: what runs step words in this step (log entry 5). -/
  unit     : Option StepUnit
  /-- MODEL'S OWN: the acts that are due, the one in hand first (log entry 1). -/
  due      : List Due
  /-- MODEL'S OWN: free values drawn so far (log entry 4). -/
  tick     : Nat
  deriving DecidableEq, Repr

/-- The package right after reset, brought up (R367): every context idle, every register at its reset
value, memory with nothing listed. -/
def State.reset : State where
  core     := Core.reset 0
  others   := []
  clusters := []
  dies     := []
  mem      := []
  bad      := []
  pown     := []
  sown     := []
  hown     := []
  ownPast  := []
  saveAt   := []
  pkgid    := 0
  cycle    := 0
  stage    := 0
  traffic  := 0
  stackRegs   := []
  seqs     := []
  ranks    := []
  fabric   := Fabric.reset
  cmds     := []
  nextCmd  := 0
  tol      := 0
  cur      := 0
  asleep   := []
  dseq     := 0
  salt     := Config.bootSalt
  notices  := []
  down     := false
  grants   := []
  released := []
  unit     := none
  due      := []
  tick     := 0

/-- Why a step stops the machine with a fault. -/
inductive Fault where
  /-- Raised by no meaning of this model: every cause of R65 is taken as a trap, recorded by an engine,
  or reported at a fence. Kept so that a stop has a type. Safe. -/
  | machineStop
  deriving DecidableEq, Repr, Inhabited

/-- Why a step has no meaning. -/
inductive Refusal where
  /-- The instruction has no meaning yet. Safe: nothing is claimed of the step. -/
  | notModelled (mnemonic : String)
  deriving DecidableEq, Repr, Inhabited

end Sys2Proof.Machine
end

