-- ==== Sys2Proof/Machine/Ops.lean ====
section
/-! DEFINITION. The named operations over the state, the run of one unit (retirement, trap, wait: R45,
R48, R58, R110), taking a trap (R73, R75) and returning from one (R74). -/

namespace Sys2Proof.Machine

/-! ## Cores, clusters, dies -/

def State.getCore (s : State) (id : CoreId) : Core :=
  if id = s.core.id then s.core else s.others.get id.toNat (Core.reset id)

def State.setCore (s : State) (c : Core) : State :=
  if c.id = s.core.id then { s with core := c } else { s with others := s.others.set c.id.toNat c }

def State.modCore (s : State) (id : CoreId) (f : Core → Core) : State := s.setCore (f (s.getCore id))

/-- Brings a core into focus. -/
def State.focus (s : State) (id : CoreId) : State :=
  if id = s.core.id then s
  else { s with core := s.getCore id, others := (s.others.erase id.toNat).set s.core.id.toNat s.core }

/-- The front context of the core in focus. -/
def State.ctx (s : State) : Ctx := s.core.front
def State.mapCtx (s : State) (f : Ctx → Ctx) : State := { s with core := { s.core with front := f s.core.front } }
def State.mapFocus (s : State) (f : Core → Core) : State := { s with core := f s.core }

/-- CLID and DIEID of a core (R67). -/
def clusterOf (id : CoreId) : BitVec 9 := id.extractLsb' 4 9
def dieOf (id : CoreId) : BitVec 2 := id.extractLsb' 11 2
def coreNo (id : CoreId) : BitVec 4 := id.extractLsb' 0 4
/-- The core of a number in the cluster of another. -/
def peerOf (id : CoreId) (n : BitVec 4) : CoreId := clusterOf id ++ n

def State.cluster (s : State) (c : BitVec 9) : Cluster := s.clusters.get c.toNat Cluster.reset
def State.setCluster (s : State) (c : BitVec 9) (v : Cluster) : State := { s with clusters := s.clusters.set c.toNat v }
def State.die (s : State) (d : BitVec 2) : Die := s.dies.get d.toNat Die.reset
def State.setDie (s : State) (d : BitVec 2) (v : Die) : State := { s with dies := s.dies.set d.toNat v }
def State.stack (s : State) (n : Nat) : Stack := s.stackRegs.get n Stack.reset
def State.setStack (s : State) (n : Nat) (v : Stack) : State := { s with stackRegs := s.stackRegs.set n v }
def State.rank (s : State) (n : Nat) : StepCtx := s.ranks.get n StepCtx.reset
def State.setRank (s : State) (n : Nat) (v : StepCtx) : State := { s with ranks := s.ranks.set n v }

/-- TENANT of a core's cluster (R67, R242). -/
def State.tenantOf (s : State) (id : CoreId) : BitVec 6 := (s.cluster (clusterOf id)).xten
def State.tenant (s : State) : BitVec 6 := s.tenantOf s.core.id

/-- The next free value, and the count moved past it (log entry 4). -/
def State.drawn (s : State) : State := { s with tick := s.tick + 1 }

/-- Adds an act to those that are due. -/
def State.enqueue (s : State) (a : Act) (cycle : Option Nat := none) : State :=
  { s with due := s.due ++ [⟨a, cycle⟩] }

/-! ## STATUS (R64) -/

def Ctx.trapBit (k : Ctx) : Bool := k.status.getLsbD 0
def Ctx.pl (k : Ctx) : BitVec 2 := k.status.extractLsb' 1 2
def Ctx.ppl (k : Ctx) : BitVec 2 := k.status.extractLsb' 3 2
def Ctx.rm (k : Ctx) : BitVec 3 := k.status.extractLsb' 5 3
def Ctx.satBit (k : Ctx) : Bool := k.status.getLsbD 8
/-- The fields of STATUS [8:0] put together: SAT, RM, PPL, PL, TRAP. -/
def statusOf (sat : Bool) (rm : BitVec 3) (ppl pl : BitVec 2) (trap : Bool) : BitVec 9 :=
  BitVec.ofBool sat ++ rm ++ ppl ++ pl ++ BitVec.ofBool trap
def Ctx.isUser (k : Ctx) : Bool := k.pl == 0
def Ctx.isManager (k : Ctx) : Bool := k.pl == 3

/-- STATUS as it reads (R64). -/
def Ctx.statusWord (k : Ctx) : Word :=
  (0 : BitVec 50) ++ BitVec.ofBool k.loops[1].active ++ BitVec.ofBool k.loops[0].active
    ++ BitVec.ofBool (k.hold != []) ++ BitVec.ofBool k.gang.lead ++ BitVec.ofBool k.gang.gang ++ k.status

/-- The mode in which the context's accesses behave (R308). -/
def Ctx.diffMode (k : Ctx) : DiffMode := if k.trapBit then .fwd else k.mode

/-- The context's own identity, in a gang too (R222). -/
def Ctx.self (k : Ctx) : BitVec 32 := if k.gang.gang && !k.gang.lead then k.gang.ownCtx else k.ctxid
def State.who (s : State) : Who := ⟨s.core.id, s.core.front.self⟩

/-- The address of the instruction word in hand: past the hints bound so far (R48, R103). -/
def Ctx.iaddr (k : Ctx) : Word := k.pc + BitVec.ofNat 64 (4 * k.hints.length)

/-! ## Registers -/

/-- Changes one place of a vector. -/
def modAt {α : Type} {n : Nat} (v : Vector α n) (i : Fin n) (f : α → α) : Vector α n := v.set i.val (f (v.get i)) i.isLt

/-- x0 reads 0 (R59). -/
def Ctx.readX (k : Ctx) (r : BitVec 5) : Word := if r = 0 then 0 else k.x.get r.toFin
/-- A write to x0 is discarded (R43). -/
def Ctx.writeX (k : Ctx) (r : BitVec 5) (v : Word) : Ctx := if r = 0 then k else { k with x := k.x.set r.toNat v r.isLt }
def Ctx.readV (k : Ctx) (r : BitVec 5) : BitVec 1024 := k.v.get r.toFin
def Ctx.writeV (k : Ctx) (r : BitVec 5) (v : BitVec 1024) : Ctx := { k with v := k.v.set r.toNat v r.isLt }
/-- p0 reads as all ones, and a write to it is discarded (R60). -/
def Ctx.readP (k : Ctx) (r : BitVec 3) : BitVec 128 := if r = 0 then BitVec.allOnes 128 else k.p.get r.toFin
def Ctx.writeP (k : Ctx) (r : BitVec 3) (v : BitVec 128) : Ctx := if r = 0 then k else { k with p := k.p.set r.toNat v r.isLt }
def Ctx.readT (k : Ctx) (r : BitVec 3) : Tile := k.t.get r.toFin
def Ctx.writeT (k : Ctx) (r : BitVec 3) (v : Tile) : Ctx := { k with t := k.t.set r.toNat v r.isLt }
def Ctx.readF (k : Ctx) (r : BitVec 3) : TileFlags := k.tf.get r.toFin
def Ctx.writeF (k : Ctx) (r : BitVec 3) (v : TileFlags) : Ctx := { k with tf := k.tf.set r.toNat v r.isLt }

/-- The history in use (R47). -/
def Ctx.history (k : Ctx) : List Word := if k.trapBit then k.trapHist else k.hist
/-- A result enters as ^1; ^8 is lost (R46). -/
def Ctx.pushHist (k : Ctx) (v : Word) : Ctx :=
  if k.trapBit then { k with trapHist := (v :: k.trapHist).take 8 } else { k with hist := (v :: k.hist).take 8 }

def Core.counter (c : Core) (n : BitVec 4) : Counter := c.counters.get n.toFin
def Core.setCounter (c : Core) (n : BitVec 4) (v : Counter) : Core := { c with counters := c.counters.set n.toNat v n.isLt }
/-- A counter raised by an arrival (R202, R205). -/
def Core.raise (c : Core) (n : BitVec 4) (by' : BitVec 32 := 1) : Core :=
  c.setCounter n { c.counter n with val := (c.counter n).val + by' }
/-- R198. -/
def reaches (c t : BitVec 32) : Bool := decide ((c - t).toNat < 2 ^ 31)

/-- Is the core in a compute phase: its front context lives in PHASE 1 (R283, R285)? -/
def Core.computing (c : Core) : Bool := c.front.phase == 1 && c.front.life == .live

def Core.lineFull (c : Core) (l : Nat) : Bool := c.full.getLsbD l
def Core.setLine (c : Core) (l : Nat) (b : Bool) : Core :=
  { c with full := if b then c.full ||| (1#384 <<< l) else c.full &&& ~~~(1#384 <<< l) }
/-- Sets lines l, l + 1, … (n of them). -/
def Core.setLines (c : Core) (b : Bool) : Nat → Nat → Core
  | _, 0 => c
  | l, n + 1 => (c.setLine l b).setLines b (l + 1) n

/-! ## The trace ring (R170, R171) -/

/-- Writes an entry for a context of the core, unless recording is off or frozen. -/
def Core.log (c : Core) (slot : Bool) (k : Ctx) (type : BitVec 4) (addr1 : Word) (info : BitVec 8) (addr2 : Word) : Core :=
  if k.traceEn && !c.freeze then
    let low : BitVec 64 := type ++ BitVec.ofBool slot ++ k.ctxid.extractLsb' 24 6 ++ addr1.setWidth 53
    let high : BitVec 64 := info ++ 0#3 ++ addr2.setWidth 53
    { c with
      trace := c.trace.set c.traceHead.toNat (high ++ low) c.traceHead.isLt
      traceHead := c.traceHead + 1
      traceWrap := c.traceWrap || c.traceHead == 511 }
  else c

/-- Writes an entry of the core in focus, for its front context. -/
def State.trace (s : State) (type : BitVec 4) (addr1 : Word) (info : BitVec 8) (addr2 : Word) : State :=
  s.mapFocus fun c => c.log c.frontSlot c.front type addr1 info addr2

/-! ## Taking a trap and returning from one -/

/-- A follower leaves its gang's stream (R224). -/
def Ctx.detach (k : Ctx) : Ctx :=
  if k.gang.gang && !k.gang.lead then
    { k with ctxid := k.gang.ownCtx, gang := { k.gang with gang := false, det := true } }
  else k

/-- A fatal trap (R75, R216 steps 1 and 2): the context stops, the trace freezes, arrivals are held, and
the dump is due. -/
def State.fatal (s : State) (c : BitVec 8) (v : Word) (members : Nat) (list : List CoreId) : State :=
  let s := s.trace 3 s.ctx.pc c v
  let s := s.mapCtx fun k => { k with life := .dead ⟨c, v, s.cycle, members, list⟩ }
  let s := s.mapFocus fun c => { c with freeze := true, holding := true, watchdog := none }
  s.enqueue (.hardwareDump s.core.id)

/-- A trap of the unit at PC (R9, R73): fatal where STATUS.TRAP is 1 or TVEC is 0. -/
def State.takeTrap (s : State) (c : BitVec 8) (v : Word) (members : Nat := 0) (list : List CoreId := []) : State :=
  let s := s.mapCtx fun k => { k.detach with hints := [], pops := [], progress := .none }
  let s := s.mapFocus fun c => { c with watchdog := none, probed := none }
  if s.ctx.trapBit || s.ctx.tvec == 0 then s.fatal c v members list
  else
    let s := s.trace 3 s.ctx.pc c v
    s.mapCtx fun k => { k with
      epc := k.pc
      ecause := c
      evalue := v
      status := statusOf k.satBit k.rm k.pl (if k.pl = 0 then 1 else k.pl) true
      trapHist := List.replicate 8 0
      pc := k.tvec }

/-- The return of R74 as the state of the context: PL, TRAP, the history in use, and the holding buffer,
which stays only at the unchanged EPC (R45). -/
def Ctx.eret (k : Ctx) : Ctx :=
  { k with
    status := statusOf k.satBit k.rm k.ppl k.ppl false
    hold := if k.epc = k.holdFor then k.hold else [] }

/-! ## Running one unit -/

/-- How an instruction that retires goes on: a transfer of control, whether the trace records it as a
branch, whether INSTRET counts it (R68), and what follows its retirement. -/
structure Flow where
  target : Option Word := none
  branch : Bool := false
  count  : Bool := true
  after  : State → State := id

/-- How an instruction ends that does not retire. A trap carries the pops made and, where the rule names
effects that survive it, the state that holds them; a wait carries what it leaves behind. -/
inductive Stop where
  | trap (c : BitVec 8) (v : Word) (pops : List Pop) (keep : Option State)
  | wait (f : State → State)
  | fault (r : Fault)
  | refused (r : Refusal)

abbrev M := StateT State (Except Stop)

def trap {α : Type} (c : BitVec 8) (v : Word) : M α := fun s => .error (.trap c v s.ctx.pops none)
/-- A trap that an operand itself meets, before any pop of the unit takes effect (R45). -/
def trapUnpopped {α : Type} (c : BitVec 8) (v : Word) : M α := fun _ => .error (.trap c v [] none)
/-- A trap past which the effects made so far survive (R8). -/
def trapKeep {α : Type} (c : BitVec 8) (v : Word) : M α := fun s => .error (.trap c v s.ctx.pops (some s))
/-- A wait at the head of the reorder buffer (R58). -/
def wait {α : Type} (f : State → State := id) : M α := fun _ => .error (.wait f)
def ctx : M Ctx := fun s => .ok (s.ctx, s)
def modCtx (f : Ctx → Ctx) : M Unit := fun s => .ok ((), s.mapCtx f)
def modCore (f : Core → Core) : M Unit := fun s => .ok ((), s.mapFocus f)
def next : M Flow := pure {}
def jump (t : Word) : M Flow := pure { target := some t, branch := true }
def guardTrap (ok : Bool) (c : BitVec 8) (v : Word) : M Unit := if ok then pure () else trap c v

/-- Does the word that retires end the body of an active level and fall through (R110)? -/
def LoopLevel.ends (l : LoopLevel) (iaddr npc : Word) : Bool := l.active && iaddr == l.last && npc == l.last + 4

/-- Does the end-of-body test of a level send control back to its body? -/
def LoopLevel.goesBack (l : LoopLevel) (iaddr npc : Word) : Bool := l.ends iaddr npc && decide (1 < l.count.toNat)

/-- The end-of-body test of one level (R110): the level after it, and where control goes. -/
def LoopLevel.test (l : LoopLevel) (iaddr npc : Word) : LoopLevel × Word :=
  if l.goesBack iaddr npc then ({ l with count := l.count - 1 }, l.start)
  else if l.ends iaddr npc then ({ l with count := 0, active := false }, npc)
  else (l, npc)

/-- Retirement of the unit at PC of s0 after its effect left s1 (R46, R48, R68, R110). -/
def retire (s0 s1 : State) (fl : Flow) : State :=
  let k0 := s0.ctx
  let npc := fl.target.getD (k0.iaddr + 4)
  let (l1, npc1) := s1.ctx.loops[1].test k0.iaddr npc
  let (l0, npc0) := if s1.ctx.loops[1].goesBack k0.iaddr npc then (s1.ctx.loops[0], npc1) else s1.ctx.loops[0].test k0.iaddr npc1
  let s1 := if fl.branch then s1.trace 1 k0.iaddr 0 npc else s1
  let s1 := s1.mapCtx fun k => { k with
    pc := npc0
    loops := #v[l0, l1]
    instret := if fl.count then k.instret + BitVec.ofNat 64 (1 + k0.hints.length) else k.instret
    hold := if k0.trapBit then k.hold else []
    hints := []
    pops := []
    progress := .none }
  fl.after (s1.mapFocus fun c => { c with watchdog := none, probed := none })

/-- Where a pop's value came from loses it (R45): the older word of a port or a channel. -/
def Ctx.dropPop (k : Ctx) (o : Opnd) : Ctx :=
  match o with
  | .port q => { k with ports := modAt k.ports q.toFin fun p => { p with results := p.results.drop 1 } }
  | .chan c => { k with chans := modAt k.chans c.toFin fun p => { p with held := p.held.drop 1 } }
  | _ => k

/-- Where the values that a unit popped came from loses them. -/
def Ctx.dropPops (k : Ctx) (pops : List Pop) : Ctx := pops.foldl (fun k p => k.dropPop p.1) k

/-- The values that the unit at PC of k0 popped stand in the holding buffer, for that unit, behind those it held; but a
handler leaves the buffer as it is (R45). -/
def Ctx.holdPops (k0 : Ctx) (pops : List Pop) (k : Ctx) : Ctx :=
  if k0.trapBit then { k with hold := k0.hold }
  else { k with hold := ((if k0.holdFor = k0.pc then k0.hold else []) ++ pops.map Prod.snd).take 2, holdFor := k0.pc }

/-- The state a trap is taken from: that before the unit, or what survives; the values popped stand in
the holding buffer (R45). -/
def trapBase (s0 : State) (pops : List Pop) (keep : Option State) : State :=
  (match keep with
    | some t => t
    | none => s0.mapCtx fun k => k.dropPops pops).mapCtx (s0.ctx.holdPops pops)

/-- A wait past an instruction's checks: what it popped is popped, and stays in the holding buffer for it (R175). In a
handler, which may not use the buffer (R45), the values stay where they were. -/
def waitHeld {α : Type} (f : State → State := id) : M α := fun s =>
  wait (fun s0 => f (if s0.ctx.trapBit then s0 else s0.mapCtx fun k => k.holdPops s.ctx.pops (k.dropPops s.ctx.pops))) s

/-- A wait of an instruction that another core may retire: what it popped is taken as under `waitHeld`; in a handler it is
noted, and taken when the instruction retires (R222, R231). -/
def waitTaken {α : Type} (f : State → State := id) : M α := fun s =>
  wait (fun s0 => f (s0.mapCtx fun k =>
    if k.trapBit then { k with pops := s.ctx.pops } else k.holdPops s.ctx.pops (k.dropPops s.ctx.pops))) s

/-- What an earlier presentation noted is taken. -/
def Ctx.takeNoted (k : Ctx) : Ctx := { k.dropPops k.pops with pops := [] }

/-- The outcome of one member's execution of a unit. -/
def memberRun (m : M Flow) (s : State) : Host.Outcome State Fault Refusal × Bool :=
  match m s with
  | .ok (fl, s1) => (.next (retire s s1 fl), false)
  | .error (.trap c v pops keep) => (.next ((trapBase s pops keep).takeTrap c v), false)
  | .error (.wait f) => (.next (f s), true)
  | .error (.fault r) => (.fault r, false)
  | .error (.refused r) => (.refused r, false)

/-! ## Gangs (R222 to R225) -/

/-- The cores, in rising number, that hold an attached follower of a leader. -/
def State.followersOf (s : State) (leader : CoreId) (mask : BitVec 16) : List CoreId :=
  (List.range 16).filterMap fun n =>
    let id := peerOf leader (BitVec.ofNat 4 n)
    let attached (k : Ctx) := k.gang.gang && !k.gang.lead && k.gang.leader == coreNo leader && k.life == .live
    if mask.getLsbD n && n != (coreNo leader).toNat && attached (s.getCore id).front then some id else none

/-- Does an attached follower stand outside its front slot, or is its core still swapping (R228)? -/
def State.gangAway (s : State) (leader : CoreId) (mask : BitVec 16) : Bool :=
  (List.range 16).any fun n =>
    let c := s.getCore (peerOf leader (BitVec.ofNat 4 n))
    let attached (k : Ctx) := k.gang.gang && !k.gang.lead && k.gang.leader == coreNo leader
    mask.getLsbD n && n != (coreNo leader).toNat &&
      ((attached c.shadow && c.shadow.life != .idle) || (attached c.front && decide (s.cycle.toNat < c.busy)))

/-- The state in which a follower starts the unit: its core's, p + 1 cycles after the leader (R3, R223). -/
def State.asFollower (s : State) (id : CoreId) : State :=
  let t := s.focus id
  { t with cycle := s.cycle + BitVec.ofNat 64 (t.ctx.gang.pos.toNat + 1) }

/-- A member waits, so every member waits (R223): what each wait leaves behind is kept. -/
def gangStall (lead : M Flow) (follow : M Flow) (ids : List CoreId) (s : State) : State :=
  let keep (m : M Flow) (s : State) : State :=
    match m s with
    | .error (.wait f) => f s
    | _ => s
  let home := s.core.id
  (ids.foldl (fun t id => { keep follow (t.asFollower id) with cycle := s.cycle }) (keep lead s)).focus home

/-- The followers execute the unit after the leader, each on its own state and at its own offset; one whose next PC
differs detaches (R224), one that traps detaches and takes its trap (R225). None where a member waits. -/
def gangFollow (follow : M Flow) (pc : Word) : List CoreId → State → Option State
  | [], s => some s
  | id :: r, s =>
    let sf := s.asFollower id
    match follow sf with
    | .error (.wait _) => none
    | .ok (fl, s1) =>
      let s2 := { retire sf s1 fl with cycle := s.cycle }
      gangFollow follow pc r (if s2.ctx.pc = pc then s2 else s2.mapCtx Ctx.detach)
    | .error (.trap c v pops keep) => gangFollow follow pc r { (trapBase sf pops keep).takeTrap c v with cycle := s.cycle }
    | .error _ => gangFollow follow pc r s

/-- Gives the followers the hints of the leader's unit. -/
def State.lendHints (s : State) (ids : List CoreId) (hs : List (BitVec 32)) : State :=
  ids.foldl (fun t id => t.modCore id fun c => { c with front := { c.front with hints := hs } }) s

/-- The leader's trap: every attached follower detaches at the unit's first hint (R225). -/
def gangTrap (ids : List CoreId) (c : BitVec 8) (v : Word) (base : State) : State :=
  (ids.foldl (fun t id => t.modCore id fun c => { c with front := c.front.detach }) base).takeTrap c v

/-- A verdict's trap on the waiting instruction of a core (R210), whose followers detach where it leads. -/
def State.verdictTrap (s : State) (id : CoreId) (n : Nat) (seen : List CoreId) : State :=
  let s := s.focus id
  let ids := if s.ctx.gang.gang && s.ctx.gang.lead then s.followersOf id s.ctx.gang.mask else []
  (ids.foldl (fun t id => t.modCore id fun c => { c with front := c.front.detach }) s).takeTrap 0x0C (BitVec.ofNat 64 n) n seen

/-- The unit of a gang's leader (R223). -/
def gangUnit {β : Type} (rd : M β) (eff : β → M Flow) (s : State) : Host.Outcome State Fault Refusal :=
  let home := s.core.id
  let ids := s.followersOf home s.ctx.gang.mask
  let stall (follow : M Flow) : State :=
    (gangStall (rd >>= eff) follow ids (s.lendHints ids s.ctx.hints)).lendHints ids []
  if s.gangAway home s.ctx.gang.mask then .next s
  else match rd s with
    | .ok (b, sb) =>
      match eff b sb with
      | .ok (fl, s1) =>
        let s2 := (retire s s1 { fl with after := id }).lendHints ids s.ctx.hints
        match gangFollow (eff b) s2.ctx.pc ids s2 with
        | some s3 => .next (fl.after (s3.focus home))
        | none => .next (stall (eff b))
      | .error (.trap c v pops keep) => .next (gangTrap ids c v (trapBase s pops keep))
      | .error (.wait _) => .next (stall (eff b))
      | .error (.fault r) => .fault r
      | .error (.refused r) => .refused r
    | .error (.trap c v pops keep) => .next (gangTrap ids c v (trapBase s pops keep))
    | .error (.wait f) => .next (f s)
    | .error (.fault r) => .fault r
    | .error (.refused r) => .refused r

/-- Runs the unit in hand: on the core in focus and, where it leads a gang, on every attached follower.
`rd` reads the operands that the leader hands to its followers (R223's rule for OP 46). -/
def unitWith {β : Type} (rd : M β) (eff : β → M Flow) (s : State) : Host.Outcome State Fault Refusal :=
  if s.ctx.gang.gang && s.ctx.gang.lead then gangUnit rd eff s else (memberRun (rd >>= eff) s).1

/-- Runs the unit in hand; every member executes it with its own operands. -/
def unit (m : M Flow) (s : State) : Host.Outcome State Fault Refusal :=
  if s.ctx.gang.gang && s.ctx.gang.lead then gangUnit (pure ()) (fun _ => m) s else (memberRun m s).1

end Sys2Proof.Machine
end

