-- ==== Sys2Proof/Machine/Mmu.lean ====
section
/-! DEFINITION. The physical map (R234 to R237), ownership (R243), the page walk (R238 to R241), the TLBs
(R244), and the checks of an access up to its permission. -/

namespace Sys2Proof.Machine

/-- How an access is made (R241). -/
inductive AccKind where
  | fetch
  | load
  | store
  | atomic
  deriving DecidableEq, Repr, Inhabited

/-- Cause of a translation fault (R241). -/
def AccKind.faultCause : AccKind → BitVec 8
  | .fetch | .load => 0x04
  | .store | .atomic => 0x05

/-! ## The physical map -/

/-- The regions of R234. -/
inductive Region where
  | stackMem
  | pool
  | window
  | control
  | rank
  | reserved
  | fabric
  deriving DecidableEq, Repr, Inhabited

def regionOf (pa : Nat) : Region :=
  if 2 ^ 51 ≤ pa then .fabric
  else match pa / 2 ^ 48 with
    | 0 => .stackMem
    | 1 => .pool
    | 2 => .window
    | 3 => .control
    | 4 => .rank
    | _ => .reserved

def offsetOf (pa : Nat) : Nat := pa % 2 ^ 48

/-- Extents of R234: 768 GiB, 512 MiB, 512 MiB, 32 MiB, 12 x 1,024 ranks of 64 MiB. -/
def Region.extent : Region → Nat
  | .stackMem => 768 * 2 ^ 30
  | .pool => 512 * 2 ^ 20
  | .window => 512 * 2 ^ 20
  | .control => 2 ^ 25
  | .rank => 768 * 2 ^ 30
  | .reserved => 0
  | .fabric => 0

/-- Is a fabric-space offset assigned (R236)? -/
def fabricOffsetOk (off : Nat) : Bool :=
  if off < 2 ^ 40 then decide (off < Region.extent .stackMem)
  else decide (off - 2 ^ 40 < Region.extent .pool)

/-- R237: no byte from pa to pa + n - 1 is reserved or past its region. -/
def mapped (pa n : Nat) : Bool :=
  match regionOf pa with
  | .fabric => fabricOffsetOk (pa % 2 ^ 41) && fabricOffsetOk (pa % 2 ^ 41 + n - 1) && decide (pa % 2 ^ 41 + n ≤ 2 ^ 41)
  | r => decide (offsetOf pa + n ≤ r.extent)

/-- The region-0 offset of a rank's byte (R235). -/
def rankToStacks (id off : Nat) : Nat :=
  let s := id / 1024
  let sa := (id / 16 % 64) * 2 ^ 30 + (id % 16) * 2 ^ 26 + off
  (sa / 8192 * 12 + s) * 8192 + sa % 8192

/-- The rank id and the byte within its bank of a region-0 offset (R235). -/
def stacksToRank (o : Nat) : Nat × Nat :=
  let g := o / 8192
  let s := g % 12
  let sa := g / 12 * 8192 + o % 8192
  (s * 1024 + sa / 2 ^ 30 * 16 + sa / 2 ^ 26 % 16, sa % 2 ^ 26)

/-- The one address under which a byte is held: rank space is region 0 (R235), and fabric space of this
package is its region 0 or its pool (R236). -/
def canon (pa : Nat) : Nat :=
  match regionOf pa with
  | .rank => rankToStacks (offsetOf pa / 2 ^ 26) (offsetOf pa % 2 ^ 26)
  | .fabric => if pa % 2 ^ 41 < 2 ^ 40 then pa % 2 ^ 41 else 2 ^ 48 + pa % 2 ^ 40
  | _ => pa

/-- The rank id and byte of an address of stacked memory, none elsewhere. -/
def rankOf (pa : Nat) : Option (Nat × Nat) :=
  match regionOf pa with
  | .stackMem => some (stacksToRank pa)
  | .rank => some (offsetOf pa / 2 ^ 26, offsetOf pa % 2 ^ 26)
  | _ => none

/-- Local memory of a core in its window (R234, R154). -/
def localPa (id : CoreId) (off : Nat) : Nat := 2 * 2 ^ 48 + id.toNat * 0x10000 + off
/-- The core and the offset of a window address. -/
def windowCore (pa : Nat) : CoreId := BitVec.ofNat 13 (offsetOf pa / 0x10000)
def windowOffset (pa : Nat) : Nat := offsetOf pa % 0x10000

/-! ## Bytes at rest -/

/-- What the contents of a staging row that a switch to RANK mode left unspecified (R328) are taken with: nothing
for every other byte. -/
def State.scramble (s : State) (a : Nat) : Byte :=
  match regionOf a with
  | .stackMem =>
    let (id, off) := stacksToRank a
    if 65472 * 1024 ≤ off then
      match (s.stack (id / 1024)).scr with
      | some t => Config.freeByte t a
      | none => 0
    else 0
  | _ => 0

/-- A byte at a canonical address. -/
def State.byte (s : State) (a : Nat) : Byte := s.mem.read a ^^^ s.scramble a

/-- n bytes from a canonical address upward. -/
def State.bytes (s : State) : Nat → Nat → List Byte
  | _, 0 => []
  | a, n + 1 => s.byte a :: s.bytes (a + 1) n

/-- Writes bytes from a canonical address upward. -/
def State.putMem (s : State) : Nat → List Byte → State
  | _, [] => s
  | a, b :: r => ({ s with mem := s.mem.write a (b ^^^ s.scramble a) }).putMem (a + 1) r

/-- Do n bytes of one block of 8 KiB share a byte with the window of a rank that is IN STEP (R336)? -/
def State.blockInStep (s : State) (pa n : Nat) : Bool :=
  match rankOf (canon pa) with
  | some (id, off) =>
    let r := s.rank id
    r.state == .inStep && decide (r.wrow * 1024 < off + n) && decide (off < (r.wrow + r.wrows) * 1024)
  | none => false

/-- Do the n bytes from an address share a byte with the window of a rank that is IN STEP (R336)? A block of 8 KiB
lies in one rank (R235). -/
def State.inStep (s : State) (pa n : Nat) : Bool :=
  (List.range ((pa % 8192 + n - 1) / 8192 + 1)).any fun i =>
    let a := if i = 0 then pa else (pa / 8192 + i) * 8192
    s.blockInStep a (min (8192 - a % 8192) (pa + n - a))

/-! ## Ownership (R243) -/

/-- An ownership byte names a tenant: VALID and OWNER (R242). -/
def ownsByte (b : Byte) (tenant : BitVec 6) : Bool := b.getLsbD 7 && b.extractLsb' 0 6 == tenant

/-- Is the granule of this address the tenant's, by the ownership bytes given? -/
def ownsBy (pown sown : Tab Byte) (tenantOf : CoreId → BitVec 6) (tenant : BitVec 6) (pa : Nat) : Bool :=
  match regionOf pa with
  | .stackMem => ownsByte (sown.get (pa / (12 * 2 ^ 30)) 0) tenant
  | .pool => ownsByte (pown.get (offsetOf pa / 2 ^ 20) 0) tenant
  | .window => tenantOf (windowCore pa) == tenant
  | .rank => ownsByte (sown.get (offsetOf pa / 2 ^ 30 % 64) 0) tenant
  | .control | .fabric => true
  | .reserved => false

/-- Is the granule of this address the tenant's? -/
def State.owns (s : State) (tenant : BitVec 6) (pa : Nat) : Bool := ownsBy s.pown s.sown s.tenantOf tenant pa

/-- The ownership bytes that a cluster's walks use: a change takes effect for it only after an invalidation of every
entry (R243). -/
def State.ownership (s : State) (cl : BitVec 9) : Tab Byte × Tab Byte :=
  s.ownPast.getD (s.cluster cl).ownSeen (s.pown, s.sown)

/-- Is the granule of this address the tenant's, to the walks of a cluster? -/
def State.ownsAt (s : State) (cl : BitVec 9) (tenant : BitVec 6) (pa : Nat) : Bool :=
  ownsBy (s.ownership cl).1 (s.ownership cl).2 s.tenantOf tenant pa

def Region.granule : Region → Nat
  | .stackMem => 12 * 2 ^ 30
  | .pool | .window => 2 ^ 20
  | .rank => 2 ^ 30
  | _ => 2 ^ 52

/-- Every granule of a page is the tenant's, to the walks of a cluster. -/
def State.ownsPage (s : State) (cl : BitVec 9) (tenant : BitVec 6) (pa size : Nat) : Bool :=
  let g := (regionOf pa).granule
  (List.range ((offsetOf pa + size - 1) / g - offsetOf pa / g + 1)).all fun i =>
    s.ownsAt cl tenant (if i = 0 then pa else pa - offsetOf pa + (offsetOf pa / g + i) * g)

/-! ## The walk (R239 to R241) -/

/-- Why a walk fails. -/
inductive WalkErr where
  | translation
  | permission
  | memory
  deriving DecidableEq, Repr, Inhabited

def WalkErr.cause (k : AccKind) : WalkErr → BitVec 8
  | .translation => k.faultCause
  | .permission => 0x06
  | .memory => 0x0A

/-- Does any granule of 8 bytes from pa to pa + n - 1 fail (R247)? -/
def State.failing (s : State) (pa n : Nat) : Bool :=
  s.bad.any fun g => decide (canon pa / 8 ≤ g) && decide (g ≤ (canon pa + n - 1) / 8)

/-- The page size that a leaf of a level maps. -/
def pageBits (level : Nat) : Nat := 13 + 10 * level

/-- A non-leaf entry uses V, L and NEXT only; a leaf keeps its reserved bits 0 and names a KIND (R240). -/
def pteOk (level : Nat) (e : Word) : Bool :=
  let v := e.toNat
  e.getLsbD 0 &&
  (if e.getLsbD 1 then
      decide (level < 3) && e.extractLsb' 6 2 != 3 && v / 2 ^ 10 % 8 == 0 && v / 2 ^ 58 == 0
        && v % 2 ^ 52 / 2 ^ 13 % 2 ^ (pageBits level - 13) == 0
    else decide (0 < level) && v / 4 % 2 ^ 11 == 0 && v / 2 ^ 52 == 0)

/-- PA of NEXT. -/
def pteNext (e : Word) : Nat := e.toNat % 2 ^ 52 / 2 ^ 13 * 2 ^ 13

/-- A table's page lies in a granule of memory that the tenant owns (R241 step 1): past the end of its region there
is none. -/
def State.tableOk (s : State) (cl : BitVec 9) (tenant : BitVec 6) (table : Nat) : Bool :=
  s.ownsAt cl tenant table && regionOf table != .control && regionOf table != .fabric && mapped table 8192

/-- The place of a table's entry for an address. -/
def entryPlace (va level table : Nat) : Nat := table + va / 2 ^ pageBits level % 1024 * 8

/-- The entry of a table for an address, read as a physical load (R241). -/
def State.entryAt (s : State) (va level table : Nat) : Word :=
  BitVec.ofNat 64 (natOfBytes (s.bytes (canon (entryPlace va level table)) 8))

/-- The walk from a table at a level down: the leaf, the level it stands at, and the non-leaf entries it went through,
each with its level. -/
def State.walkFrom (s : State) (cl : BitVec 9) (tenant : BitVec 6) (va : Nat) : Nat → Nat → Except WalkErr (Word × Nat × List (Nat × Word))
  | level, table =>
    if !(s.tableOk cl tenant table) then .error .permission
    else if s.failing (entryPlace va level table) 8 then .error .memory
    else
      let e := s.entryAt va level table
      if !pteOk level e then .error .translation
      else if e.getLsbD 1 then .ok (e, level, [])
      else match level with
        | 0 => .error .translation
        | l + 1 => match s.walkFrom cl tenant va l (pteNext e) with
          | .ok (f, n, es) => .ok (f, n, (l + 1, e) :: es)
          | .error x => .error x

/-- The places of the entries that a walk from a table reads, down to the first that stops it. -/
def State.walkReads (s : State) (va : Nat) : Nat → Nat → List Nat
  | level, table =>
    let a := entryPlace va level table
    let e := s.entryAt va level table
    a :: (if s.failing a 8 || !pteOk level e || e.getLsbD 1 then [] else match level with
      | 0 => []
      | l + 1 => s.walkReads va l (pteNext e))

/-- A leaf's own checks, those of the access apart: R237, ownership, TENANT (R241). -/
def State.leafOk (s : State) (cl : BitVec 9) (tenant : BitVec 6) (e : Word) (level : Nat) : Except WalkErr Unit :=
  let pa := pteNext e
  let size := 2 ^ pageBits level
  if !mapped pa size then .error .translation
  else if !s.ownsPage cl tenant pa size then .error .permission
  else if e.extractLsb' 52 6 != tenant then .error .permission
  else .ok ()

/-- A walk's result: the translation that a TLB would hold, and the entries that the walker cache would. -/
structure Walked where
  leaf  : TlbEntry
  nodes : List TlbNode
  deriving DecidableEq, Repr, Inhabited

/-- The address range that an entry of a level translates. -/
def nodeBase (va level : Nat) : Nat := va / 2 ^ pageBits level * 2 ^ pageBits level

/-- A walk from a table at a level down, with the checks of its leaf. An entry that would map any part of 0x0000 to
0xFFFF is never used (R238). -/
def State.walkAt (s : State) (cl : BitVec 9) (tenant : BitVec 6) (va level table : Nat) : Except WalkErr Walked :=
  match s.walkFrom cl tenant va level table with
  | .error e => .error e
  | .ok (e, l, es) =>
    if nodeBase va l < 0x10000 then .error .translation
    else match s.leafOk cl tenant e l with
      | .error x => .error x
      | .ok () => .ok ⟨⟨nodeBase va l, 2 ^ pageBits l, e⟩, es.map fun n => ⟨n.1, nodeBase va n.1, n.2⟩⟩

/-- PA of the root table. -/
def Cluster.rootTable (c : Cluster) : Nat := c.xroot.toNat % 2 ^ 52 / 2 ^ 13 * 2 ^ 13

/-- The walk of a cluster's tables from the root. -/
def State.walk (s : State) (cl : BitVec 9) (tenant : BitVec 6) (va : Nat) : Except WalkErr Walked :=
  if !(s.cluster cl).xroot.getLsbD 0 then .error .translation
  else s.walkAt cl tenant va 3 (s.cluster cl).rootTable

/-- The entries that the TLBs hold for an address. -/
def Cluster.cached (c : Cluster) (va : Nat) : List TlbEntry :=
  c.tlb.filter fun t => decide (t.va ≤ va) && decide (va < t.va + t.size)

/-- The entries that the walker cache holds for an address. -/
def Cluster.nodesOf (c : Cluster) (va : Nat) : List TlbNode := c.nodes.filter fun n => n.base == nodeBase va n.level

/-- What a translation may use (R244): the walk from the root, a translation that a TLB holds, or the walk from a
non-leaf entry that the walker cache holds. -/
def State.translations (s : State) (cl : BitVec 9) (tenant : BitVec 6) (va : Nat) : List (Except WalkErr Walked) :=
  s.walk cl tenant va :: ((s.cluster cl).cached va).map (fun t => .ok ⟨t, []⟩)
    ++ ((s.cluster cl).nodesOf va).map fun n => s.walkAt cl tenant va (n.level - 1) (pteNext n.pte)

/-- Two walks that give one translation, or fail alike. -/
def sameLeaf : Except WalkErr Walked → Except WalkErr Walked → Bool
  | .ok a, .ok b => a.leaf == b.leaf
  | .error a, .error b => a == b
  | _, _ => false

/-- The entry that a translation uses (R244): where those it may use differ, any of them. -/
def State.entry (s : State) (cl : BitVec 9) (tenant : BitVec 6) (va : Nat) : Except WalkErr Walked :=
  let all := s.translations cl tenant va
  let fresh := s.walk cl tenant va
  if all.all (sameLeaf fresh) then fresh else all.getD (Config.pick s.tick % all.length) fresh

/-- The TLBs and the walker cache hold what has passed its checks (R244). Where the translation could have been
another, the choice was drawn. -/
def State.fill (s : State) (cl : BitVec 9) (w : Walked) : State :=
  let c := s.cluster cl
  let nodes := w.nodes.filter fun n => !c.nodes.contains n
  let known := c.tlb.contains w.leaf
  let s' := if known && nodes == [] then s
    else s.setCluster cl { c with tlb := if known then c.tlb else w.leaf :: c.tlb, nodes := nodes ++ c.nodes }
  if (c.cached w.leaf.va).all (· == w.leaf) then s' else s'.drawn

/-- Must a translation wait: the tables it would walk lie in the window of a rank that is IN STEP (R336), and no TLB
holds it? -/
def State.walkHeld (s : State) (cl : BitVec 9) (va : Word) : Bool :=
  let c := s.cluster cl
  let v := va.toNat % 2 ^ 53
  decide (0x10000 ≤ va.toNat) && c.xroot.getLsbD 0 && (c.cached v).isEmpty
    && (s.walkReads v 3 c.rootTable).any fun a => s.inStep a 8

/-! ## Translation of one address -/

/-- Where an access goes: its physical address, whether it is the core's own local memory reached
untranslated (R238), DH of its leaf (R246; local memory, which has none, is never refused), and whether its page is strongly ordered (R256, R257). -/
structure Phys where
  pa     : Nat
  own    : Bool
  dh     : Bool
  strong : Bool
  deriving DecidableEq, Repr, Inhabited

/-- Who translates: the core, or none for a unit without local memory (R303); cluster, tenant, USER. -/
structure Asker where
  core    : Option CoreId
  cluster : BitVec 9
  tenant  : BitVec 6
  user    : Bool
  manager : Bool
  deriving DecidableEq, Repr, Inhabited

def State.asker (s : State) : Asker :=
  ⟨some s.core.id, clusterOf s.core.id, s.tenant, s.ctx.isUser, s.ctx.isManager⟩

/-- R238: bits [63:53] of an address equal bit 52. -/
def canonicalVa (va : Word) : Bool := va == (va.setWidth 53).signExtend 64

/-- The access rights of a leaf (R241). -/
def rightsOk (k : AccKind) (user : Bool) (e : Word) : Bool :=
  (match k with
    | .fetch => e.getLsbD 4
    | .load => e.getLsbD 2
    | .store => e.getLsbD 3
    | .atomic => e.getLsbD 2 && e.getLsbD 3) && !(user && e.getLsbD 5)

/-- A staging row of a stack in RANK mode (R328). -/
def State.stagingRow (s : State) (pa : Nat) : Bool :=
  match rankOf pa with
  | some (id, off) => (s.stack (id / 1024)).mode && decide (65472 * 1024 ≤ off)
  | none => false

/-- What the place itself forbids: R154 (windows), R242 (control space takes LD and ST of 8 bytes only),
R245 (fabric space needs TD), R328 (staging rows). -/
def State.placeOk (s : State) (k : AccKind) (ctrl : Bool) (e : Word) (pa : Nat) : Bool :=
  match regionOf pa with
  | .window =>
    let o := windowOffset pa
    match k with
    | .load | .fetch => decide (o < 0xE000)
    | _ => decide (o < 0xC000)
  | .control => ctrl
  | .fabric => e.getLsbD 8
  | .stackMem | .rank => !s.stagingRow pa
  | _ => true

/-- Translation and permission of one address (R238 to R246). `ctrl` says that the access is an LD or ST
of 8 bytes. -/
def State.xlate (s : State) (q : Asker) (k : AccKind) (ctrl : Bool) (va : Word) : Except (BitVec 8) (Phys × Option Walked) :=
  if !canonicalVa va then .error k.faultCause
  else if va.toNat < 0x10000 then
    match q.core with
    | some id => if va.toNat < 0xC000 then .ok (⟨localPa id va.toNat, true, true, false⟩, none) else .error k.faultCause
    | none => .error k.faultCause
  else
    let v := va.toNat % 2 ^ 53
    match s.entry q.cluster q.tenant v with
    | .error e => .error (e.cause k)
    | .ok w =>
      let e := w.leaf.pte
      let pa := pteNext e + (v - w.leaf.va)
      if rightsOk k q.user e && s.placeOk k ctrl e pa then
        .ok (⟨pa, false, e.getLsbD 9, regionOf pa == .control || e.extractLsb' 6 2 == 0⟩, some w)
      else .error 0x06

/-- Where an address lies, whatever access its leaf allows: none where it does not translate. -/
def State.placeOf? (s : State) (q : Asker) (va : Word) : Option Phys :=
  let v := va.toNat % 2 ^ 53
  if !canonicalVa va then none
  else if va.toNat < 0x10000 then
    match q.core with
    | some id => if va.toNat < 0xC000 then some ⟨localPa id va.toNat, true, false, false⟩ else none
    | none => none
  else match s.entry q.cluster q.tenant v with
    | .ok w => some ⟨pteNext w.leaf.pte + (v - w.leaf.va), false, false, false⟩
    | .error _ =>
      match s.walkFrom q.cluster q.tenant v 3 (s.cluster q.cluster).rootTable with
      | .ok (e, l, _) =>
        if (s.cluster q.cluster).xroot.getLsbD 0 && mapped (pteNext e) (2 ^ pageBits l)
        then some ⟨pteNext e + (v - nodeBase v l), false, false, false⟩ else none
      | .error _ => none

/-- The first byte of each page that n bytes from va touch: where an access splits (R260). -/
def pieces (va : Word) (n : Nat) : List Word :=
  va :: (List.range ((va.toNat % 8192 + n - 1) / 8192)).map fun i =>
    BitVec.ofNat 64 ((va.toNat / 8192 + i + 1) * 8192)

/-- Translation of every address of a list, those that fail in the order of R113 and R137: first a
translation fault or a memory error of the walk, then a permission fault, each at the lowest place. -/
def State.xlateAll (s : State) (q : Asker) (k : AccKind) (ctrl : Bool) (vas : List Word) :
    Except (BitVec 8 × Word) (List (Phys × Option Walked)) :=
  let rs := vas.map fun va => (va, s.xlate q k ctrl va)
  let bad (p : BitVec 8 → Bool) : Option (BitVec 8 × Word) := rs.findSome? fun r =>
    match r.2 with
    | .error c => if p c then some (c, r.1) else none
    | .ok _ => none
  match bad (· != 0x06), bad (· == 0x06) with
  | some f, _ => .error f
  | none, some f => .error f
  | none, none => .ok (rs.filterMap fun r => r.2.toOption)

/-- The checks of the strand's own accesses, with the trap of the first that fails. -/
def checkAll (k : AccKind) (ctrl : Bool) (vas : List Word) : M (List Phys) := fun s =>
  if vas.any (s.walkHeld s.asker.cluster) then wait id s
  else match s.xlateAll s.asker k ctrl vas with
  | .error (c, va) => trap c va s
  | .ok ps => .ok (ps.map Prod.fst, ps.foldl (fun s p => match p.2 with
      | some t => s.fill s.asker.cluster t
      | none => s) s)

end Sys2Proof.Machine
end

