-- ==== Sys2Proof/Machine/Sleep.lean ====
section
/-! DEFINITION. Power states (R365, R366): the units and their states, who sleeps, waking, and the latency tolerance. -/

namespace Sys2Proof.Machine

/-- The state that a unit enters, S1 to S5. -/
def powerLevel : PowerUnit → Nat
  | .core _ => 1
  | .cluster _ => 2
  | .die _ => 3
  | .stackMem => 4
  | .package => 5

/-- A state's typical exit latency in µs, rounded up. -/
def exitLatency (level : Nat) : Nat := [0, 1, 8, 40, 120, 3000].getD level 0

/-- CUR: the deepest state entered. -/
def State.withCur (s : State) : State := { s with cur := BitVec.ofNat 3 (s.asleep.foldl (fun n u => max n (powerLevel u)) 0) }

/-- Does a unit's sleep keep another from being awake: itself, and what encloses it? -/
def unitCovers (u v : PowerUnit) : Bool :=
  match u, v with
  | .core a, .core b => a == b
  | .cluster c, .core b => clusterOf b == c
  | .cluster a, .cluster b => a == b
  | .die d, .core b => dieOf b == d
  | .die d, .cluster c => c.extractLsb' 7 2 == d
  | .die a, .die b => a == b
  | .stackMem, .package => false
  | .stackMem, _ => true
  | .package, _ => true
  | _, _ => false

def State.sleeps (s : State) (u : PowerUnit) : Bool := s.asleep.any fun v => unitCovers v u

/-- A unit, and what encloses it, is awake. -/
def State.rouse (s : State) (u : PowerUnit) : State :=
  if s.sleeps u then ({ s with asleep := s.asleep.filter fun v => !unitCovers v u } : State).withCur else s

/-- A change of TOL: a unit whose state takes longer to leave is awake (R366). -/
def State.withTol (s : State) (t : BitVec 32) : State :=
  ({ s with tol := t, asleep := s.asleep.filter fun u => decide (exitLatency (powerLevel u) ≤ t.toNat) } : State).withCur

/-- An arrival at a core raises a counter; a core that sleeps is woken (R366). -/
def State.raiseAt (s : State) (id : CoreId) (n : BitVec 4) (by' : BitVec 32 := 1) : State :=
  (s.rouse (.core id)).modCore id fun c => c.raise n by'

end Sys2Proof.Machine
end

