-- ==== Sys2Proof/Machine/Remote.lean ====
section
/-! DEFINITION. Forming packets (R352, R353, R362), requests and their responses (R350, R351), and an
access to fabric space by the strand in hand. A package other than this one is the world outside: a request
to it stands among the packets sent, and its response arrives as an act. -/

namespace Sys2Proof

/-! ## The header (R352) -/

def Packet.type (p : Packet) : Nat := (p.dw0.extractLsb' 4 6).toNat
def Packet.dst (p : Packet) : BitVec 10 := p.dw0.extractLsb' 10 10
def Packet.src (p : Packet) : BitVec 10 := p.dw0.extractLsb' 20 10
def Packet.vc (p : Packet) : BitVec 2 := p.dw0.extractLsb' 30 2
def Packet.plen (p : Packet) : Nat := (p.dw0.extractLsb' 32 10).toNat
def Packet.tag (p : Packet) : BitVec 12 := p.dw0.extractLsb' 42 12
def Packet.red (p : Packet) : Bool := p.dw0.getLsbD 57
def Packet.offset (p : Packet) : Nat := (p.dw1.extractLsb' 0 41).toNat
def Packet.win (p : Packet) : BitVec 4 := p.dw1.extractLsb' 41 4
def Packet.etype (p : Packet) : BitVec 3 := p.dw1.extractLsb' 45 3
def Packet.status (p : Packet) : BitVec 8 := p.dw1.extractLsb' 48 8
def Packet.opc (p : Packet) : BitVec 8 := p.dw1.extractLsb' 56 8
def Packet.seq (p : Packet) : Nat := p.dw2.toNat
def Packet.kgen (p : Packet) : BitVec 32 := p.dw3.extractLsb' 0 32
def Packet.keyid (p : Packet) : BitVec 12 := p.dw3.extractLsb' 32 12
def Packet.tenant (p : Packet) : BitVec 6 := p.dw3.extractLsb' 44 6

def Packet.encrypted (p : Packet) : Bool := p.dw0.getLsbD 56

/-- The pair and the virtual channel of a packet received (R362). -/
def Packet.pairOf (p : Packet) : Nat := p.via.toNat * 4 + p.vc.toNat
/-- The canonical address that a packet's offset names. -/
def Packet.target (p : Packet) : Nat := if p.offset < 2 ^ 40 then p.offset else 2 ^ 48 + p.offset % 2 ^ 40

/-! ## DW1 of messages and collectives (R352, R371) -/

def Packet.daddr (p : Packet) : Nat := (p.dw1.extractLsb' 0 16).toNat
def Packet.core (p : Packet) : CoreId := p.dw1.extractLsb' 16 13
def Packet.ctr (p : Packet) : BitVec 4 := p.dw1.extractLsb' 29 4
def Packet.full (p : Packet) : Bool := p.dw1.getLsbD 33
/-- Bytes of the whole message. -/
def Packet.mlen (p : Packet) : Nat := 64 * ((p.dw1.extractLsb' 34 6).toNat + 1)
def Packet.collid (p : Packet) : BitVec 16 := p.dw1.extractLsb' 0 16

end Sys2Proof

namespace Sys2Proof.Machine

/-! ## The tag and the flits (R352, R353, R362) -/

/-- The 32 bytes of a header: the additional authenticated data. -/
def headerBytes (p : Packet) : List Byte := [p.dw0, p.dw1, p.dw2, p.dw3].flatMap fun w => bytesOfNat 8 w.toNat

/-- SEQ, SRC, DST, zeros. -/
def packetNonce (p : Packet) : BitVec 96 := p.dw2 ++ p.src ++ p.dst ++ 0#12

/-- The cipher text and the tag of a packet under a key. -/
def sealPacket (key : BitVec 256) (p : Packet) : List Byte × BitVec 128 := gcmSeal key (packetNonce p) (headerBytes p) p.data

/-- Does a received packet's tag check under a key (R362)? -/
def tagOk (key : BitVec 256) (p : Packet) : Bool := p.mac == (sealPacket key p).2

/-- A packet as it is sent: header, payload, tag, and zeros to whole flits of 64 bytes. -/
def flitBytes (key : BitVec 256) (p : Packet) : List Byte :=
  let bs := headerBytes p ++ (if p.encrypted then (sealPacket key p).1 else p.data) ++ bytesHigh 16 p.mac
  bs ++ List.replicate ((64 - bs.length % 64) % 64) 0

/-- CLEASH PAIR, KGEN, i and j. -/
def pairInfo (kgen : BitVec 32) (i j : BitVec 12) : List Byte :=
  [0x43, 0x4C, 0x45, 0x41, 0x53, 0x48, 0x20, 0x50, 0x41, 0x49, 0x52] ++ bytesOfNat 4 kgen.toNat ++ bytesOfNat 2 i.toNat ++ bytesOfNat 2 j.toNat

/-- The key of the ordered pair (i, j) under the generation in force (R362). -/
def State.pairKey (s : State) (i j : BitVec 12) : BitVec 256 := hkdf s.fabric.key (pairInfo s.fabric.kgen i j)

/-- This package's member id (R350). -/
def State.myId (s : State) : BitVec 12 := 0#2 ++ s.pkgid

def State.isMember (s : State) (id : BitVec 12) : Bool := s.fabric.members.contains id

/-- DW1 of an access (R352). -/
def dw1Of (off : Nat) (win : BitVec 4) (etype : BitVec 3) (status opc : BitVec 8) : Word :=
  opc ++ status ++ etype ++ win ++ BitVec.ofNat 41 off

/-- A packet of this package under the generation in force, with E = 1, which the member `next` decrypts. -/
def State.packetFor (s : State) (next : BitVec 12) (type : Nat) (dst : BitVec 10) (vc : BitVec 2) (tag : BitVec 12) (ord : BitVec 2)
    (red : Bool) (dw1 : Word) (tenant : BitVec 6) (data : List Byte) : Packet where
  dw0 := 0#6 ++ BitVec.ofBool red ++ 1#1 ++ ord ++ tag ++ BitVec.ofNat 10 data.length ++ vc ++ s.pkgid ++ dst
    ++ BitVec.ofNat 6 type ++ 1#4
  dw1 := dw1
  dw2 := BitVec.ofNat 64 (s.fabric.seq.get (next.toNat * 4 + vc.toNat) 1)
  dw3 := 0#14 ++ tenant ++ next ++ s.fabric.kgen
  data := data
  via := s.myId
  mac := 0

/-- A packet that its target itself decrypts: every switch passes it unopened (R362). -/
def State.packet (s : State) (type : Nat) (dst : BitVec 10) (vc : BitVec 2) (tag : BitVec 12) (ord : BitVec 2)
    (red : Bool) (dw1 : Word) (tenant : BitVec 6) (data : List Byte) : Packet :=
  s.packetFor (0#2 ++ dst) type dst vc tag ord red dw1 tenant data

/-- A packet with its tag under the key of its pair (R352, R362). -/
def State.tagged (s : State) (p : Packet) : Packet := { p with mac := (sealPacket (s.pairKey s.myId p.keyid) p).2 }

/-- Sends a packet: it stands, with its tag, among those formed, and its pair's next SEQ follows (R362). -/
def State.send (s : State) (p : Packet) : State :=
  let k := p.keyid.toNat * 4 + p.vc.toNat
  { s with
    traffic := s.cycle.toNat
    fabric := { s.fabric with sent := s.fabric.sent ++ [s.tagged p], seq := s.fabric.seq.set k (s.fabric.seq.get k 1 + 1) } }

/-- The lowest free TAG (R352; which one is the model's choice). -/
def freeTagFrom (reqs : Tab Request) : Nat → Nat → Option Nat
  | 0, _ => none
  | n + 1, t => if (reqs.find? t).isNone then some t else freeTagFrom reqs n (t + 1)
def State.freeTag (s : State) : Option Nat := freeTagFrom s.fabric.reqs 4096 0

/-- Are this package and the target admitted members of one domain (R350)? -/
def State.reachable (s : State) (pkg : BitVec 10) : Bool := s.fabric.member && s.fabric.members.contains (0#2 ++ pkg)

/-- New requests are held between this package's arrival and the new generation (R363). -/
def State.held (s : State) : Bool := s.fabric.arrived && s.fabric.target.isSome

def cyclesOf (us : Nat) : Nat := us * 1400

/-- Registers a request and sends its packet; the time-out is due with it (R351). -/
def State.request (s : State) (tag : Nat) (r : Request) (p : Packet) : State :=
  let s := s.send p
  let s := { s with fabric := { s.fabric with reqs := s.fabric.reqs.set tag { r with due := s.cycle.toNat + cyclesOf s.fabric.ftmo } } }
  s.enqueue (.fabricTimeout tag) (some (s.cycle.toNat + cyclesOf s.fabric.ftmo))

/-! ## An access to fabric space -/

/-- What a fabric access does at its target: reads n bytes, writes bytes, or works at the bank ALU on elements that
lie one after another. -/
inductive RemoteOp where
  | read (n : Nat)
  | write (bs : List Byte)
  | bank (fn : BankFn) (t : BankType) (xs : List Nat) (d : Nat) (returns : Bool)
  deriving DecidableEq, Repr, Inhabited

/-- The bytes that an access touches. -/
def RemoteOp.len : RemoteOp → Nat
  | .read n => n
  | .write bs => bs.length
  | .bank _ t xs _ _ => xs.length * t.bytes

/-- ETYPE of R352. It has no code for the elements of 1 and 2 bytes of a VAOR: they go as INT32, their width that of
the operand (log entry 80). -/
def BankType.etype : BankType → BitVec 3
  | .int 8 => 0
  | .int _ => 1
  | .f32 => 2
  | .bf16 => 3

/-- Does the function take a second operand: the limit of ABADD, the comparand of ACAS (R250)? -/
def BankFn.takesTwo : BankFn → Bool
  | .cas | .badd => true
  | _ => false

/-- The operands of elements, as a payload holds them. -/
def bankPayload (t : BankType) (xs : List Nat) : List Byte := xs.flatMap (bytesOfNat t.bytes)

/-- A contribution that the home has added raises its window's counter by its count (R355). -/
def State.contribute (s : State) (a : Nat) (t : BankType) (count : BitVec 32) : State :=
  match List.find? (fun (w : Nat × RedWindow) => w.2.opened && decide (w.2.home ≤ a) && decide (a < w.2.home + w.2.len)
      && w.2.type.setWidth 3 == t.etype) s.fabric.windows with
  | some w => s.raiseAt w.2.core w.2.ctr count
  | none => s

/-- A reduction's window, where it is a contribution to one, and the member that next decrypts its packet (R355, R362). -/
def State.contribution (s : State) (fn : BankFn) (t : BankType) (dst : BitVec 10) (off : Nat) : Option (BitVec 4) × BitVec 12 :=
  match Config.declaredWindow s.cycle.toNat dst off with
  | some (win, type) =>
    if fn == .add && type.setWidth 3 == t.etype then
      (some win, match Config.reducer s.pkgid dst with
        | some id => if s.isMember id then id else 0#2 ++ dst
        | none => 0#2 ++ dst)
    else (none, 0#2 ++ dst)
  | none => (none, 0#2 ++ dst)

/-- The packet of a fabric access. -/
def State.accessPacket (s : State) (tenant : BitVec 6) (ord : BitVec 2) (tag : Nat) (pa : Nat) (op : RemoteOp) : Packet :=
  let dst : BitVec 10 := BitVec.ofNat 10 (pa / 2 ^ 41)
  let off := pa % 2 ^ 41
  let tg : BitVec 12 := BitVec.ofNat 12 tag
  match op with
  | .read n => s.packet 0 dst 0 tg ord false (dw1Of off 0 0 0 0) tenant (bytesOfNat 8 n)
  | .write bs => s.packet 2 dst 0 tg ord false (dw1Of off 0 0 0 0) tenant bs
  | .bank fn t xs d true =>
    s.packet 4 dst 0 tg ord false (dw1Of off 0 t.etype 0 fn.code) tenant
      (bankPayload t xs ++ if fn.takesTwo then bytesOfNat t.bytes d else [])
  | .bank fn t xs _ false =>
    let (win, next) := s.contribution fn t dst off
    s.packetFor next 6 dst 0 tg ord win.isSome (dw1Of off (win.getD 0) t.etype 0 (fn.code + 9)) tenant (bankPayload t xs)

/-- Whole granules written from a to a + n - 1 no longer fail (R247). -/
def State.mend (s : State) (a n : Nat) : State :=
  { s with bad := s.bad.filter fun g => !(decide (a ≤ g * 8) && decide (g * 8 + 8 ≤ a + n)) }

/-- Writes bytes at a canonical address. -/
def State.poke (s : State) (a : Nat) (bs : List Byte) : State :=
  (s.mend a bs.length).putMem a bs

/-- One element at the bank ALU of this package, and what it found: all ones where ABADD refuses (R250). An element
whose check bits fail keeps them (R251). -/
def State.bankElem (s : State) (a : Nat) (fn : BankFn) (t : BankType) (x d : Nat) : Nat × State :=
  if s.failing a t.bytes then (0, s)
  else
    let old := natOfBytes (s.bytes a t.bytes)
    let (new, carried) := bankOp fn t old x d
    if carried then (old, s.poke a (bytesOfNat t.bytes new)) else (256 ^ t.bytes - 1, s)

/-- The elements from a on, in rising order, and what each found. -/
def State.bankElems (s : State) (fn : BankFn) (t : BankType) (d : Nat) : Nat → List Nat → List Nat × State
  | _, [] => ([], s)
  | a, x :: xs =>
    let (old, s) := s.bankElem a fn t x d
    let (olds, s) := s.bankElems fn t d (a + t.bytes) xs
    (old :: olds, s)

/-- A fabric access performed at this package, its target: the ownership check first (R350), then the
access (R351). The atomics of one packet are performed only where no element meets an uncorrectable error. -/
def State.serve (s : State) (tenant : BitVec 6) (off : Nat) (op : RemoteOp) (count : BitVec 32 := 1) : RemoteVal × State :=
  let a := if off < 2 ^ 40 then off else 2 ^ 48 + off % 2 ^ 40
  let n := op.len
  if !fabricOffsetOk off || !s.owns tenant a || !s.owns tenant (a + n - 1)
    || s.stagingRow a || s.stagingRow (a + n - 1) then (.fail 0x06, s)
  else match op with
    | .read n => if s.failing a n then (.fail 0x0A, s) else (.data (s.bytes a n), s)
    | .write bs => (.data [], s.poke a bs)
    | .bank fn t xs d returns =>
      if returns && s.failing a n then (.fail 0x0A, s)
      else
        let (olds, s) := s.bankElems fn t d a xs
        let s := if !returns && fn == .add then s.contribute a t count else s
        (.data (if returns then bankPayload t olds else []), s)

/-- The package a fabric-space address names (R236). -/
def pkgOf (pa : Nat) : BitVec 10 := BitVec.ofNat 10 (pa / 2 ^ 41 % 2 ^ 10)

/-- Does an access leave for another package? -/
def State.foreign (s : State) (p : Phys) : Bool := regionOf p.pa == .fabric && pkgOf p.pa != s.pkgid

/-! ## The parts of an instruction's access -/

/-- The outcomes that an instruction has so far. -/
def Progress.outcomes : Progress → List RemoteVal
  | .remote got _ => got
  | _ => []

/-- What a part gave, kept for the instruction's next presentation (log entry 5). -/
def State.received (s : State) (v : RemoteVal) : State :=
  s.mapCtx fun k => { k with progress := .remote (k.progress.outcomes ++ [v]) none }

/-- The outcome of the next part that has one; none where the part is still to be performed. A part whose response
is awaited waits. -/
def takePart : M (Option RemoteVal) := fun s =>
  match s.ctx.progress with
  | .remote (g :: rest) t => .ok (some g, s.mapCtx fun k => { k with progress := .remote rest t })
  | .remote [] (some _) => wait id s
  | _ => .ok (none, s)

/-- A part performed within the package. One that must be performed before a later part is even asked for (`first`:
strongly ordered, with a part in another package behind it: R257, R260) is performed in a presentation of its own. -/
def inTurn (first : Bool) (m : M RemoteVal) : M RemoteVal :=
  if first then do
    match ← takePart with
    | some v => return v
    | none => fun s => match m s with
      | .ok _ => wait (fun s0 => match m s0 with
        | .ok (v, s1) => s1.received v
        | .error _ => s0) s
      | .error e => .error e
  else m

/-- A fabric access that the instruction waits for: the request is issued, and its outcome is taken when the
instruction is presented again (R350, R351). This package's own memory answers at once. -/
def remoteCall (va : Word) (p : Phys) (ord : BitVec 2) (op : RemoteOp) (first : Bool := false) : M RemoteVal := do
  let s ← get
  if s.foreign p then
    match ← takePart with
    | some v => return v
    | none =>
      if !s.reachable (pkgOf p.pa) then return .fail 0x15
      else if s.held then wait
      else wait fun s0 => match s0.freeTag with
        | none => s0
        | some tag =>
          (s0.request tag ⟨s0.who, va, op.len, 0, .precise⟩ (s0.accessPacket s0.tenant ord tag p.pa op)).mapCtx
            fun k => { k with progress := .remote k.progress.outcomes (some tag) }
  else inTurn first do
    let s ← get
    if !s.reachable (pkgOf p.pa) then return .fail 0x15
    else if s.inStep p.pa op.len then wait
    else
      let (v, s') := s.serve s.tenant (p.pa % 2 ^ 41) op
      set s'
      return v

/-- The first failure of a posted access is kept until the strand's next release or fence (R351). -/
def Ctx.fail (k : Ctx) (cause : BitVec 8) (va : Word) : Ctx :=
  match k.failed with
  | none => { k with failed := some (cause, va) }
  | some _ => k

/-- The outcome of a store or a reduction: a failure is reported later (R351). -/
def noteFailure (va : Word) (v : RemoteVal) : M Unit :=
  match v with
  | .fail c => modCtx fun k => k.fail c va
  | .data _ => pure ()

/-- A store or a reduction to fabric space (R351). It retires at once; on a strongly ordered page, where the strand's
next such access must not overtake it (R257), and where the instruction asks for it (`await`: R194), it is awaited. -/
def remotePost (va : Word) (p : Phys) (ord : BitVec 2) (op : RemoteOp) (first await : Bool := false) : M Unit := do
  let s ← get
  if !s.foreign p then noteFailure va (← remoteCall va p ord op first)
  else if p.strong || await then noteFailure va (← inTurn (!s.reachable (pkgOf p.pa)) (remoteCall va p ord op))
  else if !s.reachable (pkgOf p.pa) then noteFailure va (.fail 0x15)
  else if s.held then wait
  else match s.freeTag with
    | none => wait
    | some tag => set (s.request tag ⟨s.who, va, op.len, 0, .posted⟩ (s.accessPacket s.tenant ord tag p.pa op))

/-- The stretches of at most 512 bytes of a fabric access (R350). -/
def chunksOf (n : Nat) : List (Nat × Nat) := (List.range ((n + 511) / 512)).map fun i => (512 * i, min 512 (n - 512 * i))

/-- Reads the stretches of an access, in rising order: all their bytes, or the first failure. -/
def remoteReads (va : Word) (p : Phys) (ord : BitVec 2) (first : Bool) : List (Nat × Nat) → M RemoteVal
  | [] => return .data []
  | (o, n) :: r => do
    match ← remoteCall (va + BitVec.ofNat 64 o) { p with pa := p.pa + o } ord (.read n) first with
    | .fail c => return .fail c
    | .data bs => match ← remoteReads va p ord first r with
      | .data cs => return .data (bs ++ cs)
      | .fail c => return .fail c

/-- Writes the stretches of an access, in rising order. -/
def remoteWrites (va : Word) (p : Phys) (ord : BitVec 2) (bs : List Byte) (first await : Bool) : List (Nat × Nat) → M Unit
  | [] => pure ()
  | (o, n) :: r => do
    remotePost (va + BitVec.ofNat 64 o) { p with pa := p.pa + o } ord (.write ((bs.drop o).take n)) first await
    remoteWrites va p ord bs first await r

end Sys2Proof.Machine
end

