-- ==== Sys2Proof/Machine/Access.lean ====
section
/-! DEFINITION. The strand's own accesses to memory once translated: what a byte reads as, the commit
buffer (R294), windows of other cores (R154, R285), windows of ranks in a step (R336), failing granules
(R113, R247), control space (R242), fabric space (R350), and differentiable regions (R9, R246, R305). -/

namespace Sys2Proof.Machine

/-! ## Bytes -/

/-- One byte as the package holds it: the trace ring lies in a core's window (R154). -/
def State.byteAt (s : State) (a : Nat) : Byte :=
  if regionOf a == .window && decide (0xC000 ≤ windowOffset a) then
    if windowOffset a < 0xE000 then
      let o := windowOffset a - 0xC000
      ((s.getCore (windowCore a)).trace.getD (o / 16) 0).extractLsb' (8 * (o % 16)) 8
    else 0
  else s.byte a

/-- The staged line of the task that the context runs (R294). -/
def StagedLine.byte? (l : StagedLine) (a : Nat) : Option Byte :=
  if a / 64 * 64 = l.addr && l.mask.getLsbD (a % 64) then l.data[a % 64]? else none

/-- The staged byte of a task context at an address (R294). -/
def Core.stagedByte (c : Core) (owner : BitVec 32) (a : Nat) : Option Byte :=
  c.commit.findSome? fun l => if l.owner = owner then l.byte? a else none

/-- One byte as the strand in hand reads it: its own staged bytes first (R294). -/
def State.viewByte (s : State) (a : Nat) : Byte :=
  match (if s.ctx.task.isSome then s.core.stagedByte s.ctx.self a else none) with
  | some b => b
  | none => s.byteAt a

/-- n bytes from a physical address, as the strand in hand reads them. -/
def State.view (s : State) (pa : Nat) : Nat → List Byte
  | 0 => []
  | n + 1 => s.viewByte (canon pa) :: s.view (pa + 1) n

/-- The stage and the task of a reference. -/
def State.taskOf (s : State) (t : TaskRef) : Option (Stage × Task) :=
  match (s.die t.die).stages.find? t.stage.toNat with
  | some g => match g.tasks.find? t.slot.toNat with
    | some k => some (g, k)
    | none => none
  | none => none

def Stage.direct (g : Stage) : Bool := g.conf.getLsbD 25

/-- The task of a context whose writes are staged: one of a stage that is not DIRECT (R294). -/
def State.stagedTask (s : State) (t : Option TaskRef) : Option Task :=
  match t.bind s.taskOf with
  | some (g, k) => if g.direct then none else some k
  | none => none

/-- Does a write of a task at an address lie in one of its W footprints, in pool or stack memory (R294)? -/
def Task.stages (k : Task) (va : Word) (pa : Nat) : Bool :=
  (regionOf pa == .pool || regionOf pa == .stackMem || regionOf pa == .rank)
    && k.foots.any fun f => f.write && decide (f.base.toNat ≤ va.toNat) && decide (va.toNat < f.base.toNat + f.len)

/-- Stages one byte of a task context; none where a 257th line would be needed (R294). -/
def stageByte (owner : BitVec 32) (ls : List StagedLine) (a : Nat) (b : Byte) : Option (List StagedLine) :=
  let here (l : StagedLine) : Bool := l.owner == owner && l.addr == a / 64 * 64
  let put (l : StagedLine) : StagedLine :=
    { l with mask := l.mask ||| (1#64 <<< (a % 64)), data := l.data.set (a % 64) b }
  if ls.any here then some (ls.map fun l => if here l then put l else l)
  else if 256 ≤ ls.length then none
  else some (ls ++ [put ⟨owner, a / 64 * 64, 0, List.replicate 64 0⟩])

/-- Writes bytes of a context's access: those in W footprints of the task given are staged, the others
written in place (R294). Where the context no longer runs that task (`gone`), what would be staged is discarded with
the rest of it. The error carries the descriptor's address where the buffer is full. -/
def State.putBytes (s : State) (w : Who) (t : Option Task) (va : Word) (pa : Nat) (bs : List Byte) (gone : Bool := false) : Except Word State :=
  let staged (i : Nat) : Option Task := match t with
    | some k => if k.stages (va + BitVec.ofNat 64 i) (pa + i) then some k else none
    | none => none
  let idx := List.range bs.length
  if idx.all fun i => (staged i).isNone then .ok (s.poke (canon pa) bs)
  else
    idx.foldlM (fun s i =>
      let b := bs.getD i 0
      match staged i with
      | none => .ok (s.poke (canon (pa + i)) [b])
      | some k =>
        if gone then .ok s
        else match stageByte w.ctx (s.getCore w.core).commit (canon (pa + i)) b with
        | some ls => .ok (s.modCore w.core fun c => { c with commit := ls })
        | none => .error k.desc) s

/-! ## Differentiable regions (R9, R246, R304, R305) -/

def Ctx.regionAt (k : Ctx) (i : Nat) : Nat × Nat := ((k.dbase.getD i 0).toNat, (k.dlen.getD i 0).toNat)

/-- DReg(a): the lowest-numbered declared region that holds a. -/
def Ctx.dreg (k : Ctx) (a : Word) : Option Nat :=
  (List.range 8).find? fun i => decide ((k.regionAt i).1 ≤ a.toNat) && decide (a.toNat < (k.regionAt i).1 + (k.regionAt i).2)

/-- esize(k). -/
def Ctx.esize (k : Ctx) (i : Nat) : Nat := if k.esz.getLsbD i then 2 else 4

/-- Adj(a) for a in region i. -/
def Ctx.adj (k : Ctx) (i : Nat) (a : Word) : Word :=
  k.dadj.getD i 0 + BitVec.ofNat 64 ((a.toNat - (k.regionAt i).1) / k.esize i * 4)

/-- The declared regions, as base and length. -/
def Ctx.regions (k : Ctx) : List (Nat × Nat) := ((List.range 8).map k.regionAt).filter (·.2 != 0)

/-- The lowest address of n bytes from a that lies in a declared region. -/
def firstOverlap (regions : List (Nat × Nat)) (a n : Nat) : Option Nat :=
  regions.foldl (fun best r =>
    let lo := max a r.1
    if lo < min (a + n) (r.1 + r.2) then
      match best with
      | none => some lo
      | some b => some (min b lo)
    else best) none

/-- R246 and the region rule of R305 for one access of the strand: in TAPE or REV mode an access in a
declared region needs DH. -/
def dhCheck (va : Word) (p : Phys) : M Unit := do
  let k ← ctx
  if k.diffMode != .fwd && (k.dreg va).isSome && !p.dh then trap 0x1A va

/-- R305: an inverted, pushed or accumulated access lies in the pool or the stacks. -/
def poolOrStacks (va : Word) (p : Phys) : M Unit :=
  guardTrap (!p.own && (regionOf p.pa == .pool || regionOf p.pa == .stackMem)) 0x1A va

/-! ## The compute phase (R285) -/

/-- A store or an atomic to a core local window while the strand is in PHASE 1. -/
def phaseCheck (va : Word) (p : Phys) : M Unit := do
  let k ← ctx
  if k.phase = 1 && !p.own && regionOf p.pa == .window then trap 0x0E va

/-! ## Performing

`first` says of an access that it must be performed before a part in another package is asked for (`inTurn`). -/

/-- Reads n bytes: the bytes, or the cause of the failure. -/
def tryRead (va : Word) (p : Phys) (n : Nat) (ord : BitVec 2 := 0) (first : Bool := false) : M RemoteVal :=
  if regionOf p.pa == .fabric then remoteReads va p ord first (chunksOf n)
  else inTurn first do
    let s ← get
    if s.inStep p.pa n then wait
    else if s.failing p.pa n then return .fail 0x0A
    else return .data (s.view p.pa n)

/-- Reads n bytes; an uncorrectable error traps with cause 0x0A, EVALUE the access's address (R113). -/
def loadAt (va : Word) (p : Phys) (n : Nat) (ord : BitVec 2 := 0) (first : Bool := false) : M (List Byte) := do
  match ← tryRead va p n ord first with
  | .data bs => return bs
  | .fail c => trap c va

/-- Writes bytes in place, or stages them (R294); a store to the window of a core in its compute phase is
discarded (R285), and one to a core whose dump is being made waits (R216). -/
def storeLocal (va : Word) (p : Phys) (bs : List Byte) : M Unit := do
  let s ← get
  if regionOf p.pa == .window then
    let id := windowCore p.pa
    let c := s.getCore id
    if id = s.core.id then set (s.poke p.pa bs)
    else if c.holding then wait
    else if c.computing then set (s.setCore { c with discards := c.discards + 1 })
    else set (s.poke p.pa bs)
  else if s.inStep p.pa bs.length then wait
  else match s.putBytes s.who (s.stagedTask s.ctx.task) va p.pa bs with
    | .ok s' => set s'
    | .error desc => trap 0x14 desc

/-- A store past its checks. -/
def storeAt (va : Word) (p : Phys) (bs : List Byte) (ord : BitVec 2 := 0) (first await : Bool := false) : M Unit :=
  if regionOf p.pa == .fabric then remoteWrites va p ord bs first await (chunksOf bs.length)
  else if first then do
    let _ ← inTurn true (do
      storeLocal va p bs
      return .data [])
  else storeLocal va p bs

/-- The commit buffer has room for the bytes of a store (R294): tested before the value is popped (R45). -/
def stageCheck (va : Word) (p : Phys) (n : Nat) : M Unit := do
  let s ← get
  match s.putBytes s.who (s.stagedTask s.ctx.task) va p.pa (List.replicate n 0) with
  | .ok _ => pure ()
  | .error desc => trap 0x14 desc

/-- An arrival at a core's local memory from another core (R202, R284): written, and true; or discarded and
counted while the core's front context computes (R285), and false. -/
def State.arrival (s : State) (from' dst : CoreId) (off : Nat) (bs : List Byte) : State × Bool :=
  let c := s.getCore dst
  if from' != dst && c.computing then (s.setCore { c with discards := c.discards + 1 }, false)
  else (s.poke (localPa dst off) bs, true)

/-- The outcome of an operation at a bank ALU: refused by a core in its compute phase (R285), met by an
uncorrectable error (R251), failed in the fabric, or the old element and whether it was carried out. -/
inductive BankRes where
  | refused
  | failing
  | failed (c : BitVec 8)
  | done (old : Nat) (carried : Bool)
  deriving DecidableEq, Repr, Inhabited

/-- Does an operation leave the element as it was: a refused ABADD, whose answer is all ones (R250)? -/
def answerCarried (fn : BankFn) (t : BankType) (v : Nat) : Bool := !(fn == .badd && v == 256 ^ t.bytes - 1)

/-- One operation at the bank ALU, or at the port of the owning core's local memory (R248 to R251). -/
def bankLocal (p : Phys) (fn : BankFn) (t : BankType) (b d : Nat) : M BankRes := do
  let s ← get
  let id := windowCore p.pa
  if regionOf p.pa == .window && id != s.core.id && (s.getCore id).computing then return .refused
  else if regionOf p.pa == .window && id != s.core.id && (s.getCore id).holding then wait
  else if s.inStep p.pa t.bytes then wait
  else if s.failing p.pa t.bytes then return .failing
  else
    let a := canon p.pa
    let old := natOfBytes (s.bytes a t.bytes)
    let (new, carried) := bankOp fn t old b d
    if carried then set (s.poke a (bytesOfNat t.bytes new))
    return .done old carried

/-- The elements of a fabric operation that returns values: what each found, or the cause of the failure. -/
def bankRemote (va : Word) (p : Phys) (fn : BankFn) (t : BankType) (xs : List Nat) (d : Nat) (ord : BitVec 2) (first : Bool) :
    M (List BankRes) := do
  match ← remoteCall va p ord (.bank fn t xs d true) first with
  | .data bs => return (List.range xs.length).map fun i =>
      BankRes.done (natOfBytes ((bs.drop (i * t.bytes)).take t.bytes)) (answerCarried fn t (natOfBytes ((bs.drop (i * t.bytes)).take t.bytes)))
  | .fail c => return [.failed c]

/-- One operation, past its checks. -/
def bankAt (va : Word) (p : Phys) (fn : BankFn) (t : BankType) (b d : Nat) (returns : Bool) (ord : BitVec 2 := 0) : M BankRes := do
  if regionOf p.pa == .fabric then
    if returns then
      let rs ← bankRemote va p fn t [b] d ord false
      return rs.headD .failing
    else
      remotePost va p ord (.bank fn t [b] d false)
      return .done 0 true
  else bankLocal p fn t b d

/-! ## Ranges of bytes -/

/-- The stretches of n bytes from va within one page each (R260). -/
def spans (va : Word) (n : Nat) : List (Word × Nat) :=
  (pieces va n).map fun p =>
    (p, min (8192 - p.toNat % 8192) (n - (p - va).toNat))

/-- R246 for a stretch of bytes: in TAPE or REV mode, one that meets a declared region needs DH. -/
def spanDh (k : Ctx) (x : (Word × Nat) × Phys) : M Unit :=
  if k.diffMode != .fwd && !x.2.dh then
    match firstOverlap k.regions x.1.1.toNat x.1.2 with
    | some lo => trap 0x1A (BitVec.ofNat 64 lo)
    | none => pure ()
  else pure ()

/-- Does an access need to be performed before a later part is asked for: it is strongly ordered, and so is one
behind it that goes to another package (R257, R260)? -/
def State.goesFirst (s : State) (p : Phys) (later : List Phys) : Bool := p.strong && later.any fun q => q.strong && s.foreign q

/-- Reads stretches of bytes, in rising order. -/
def loadSpans : List ((Word × Nat) × Phys) → M (List Byte)
  | [] => return []
  | ((a, len), p) :: r => do
    let s ← get
    let bs ← loadAt a p len 0 (s.goesFirst p (r.map Prod.snd))
    let rest ← loadSpans r
    return bs ++ rest

/-- Loads n bytes at va as the strand's own access: translation and permission of every page, R246 unless the access
is to be made as in FWD mode (R316), then the bytes in rising order (Mem of R9). -/
def memLoad (va : Word) (n : Nat) (primal : Bool := false) : M (List Byte) := do
  let ps ← checkAll .load false ((spans va n).map Prod.fst)
  let k ← ctx
  let parts := (spans va n).zip ps
  if primal then pure () else parts.forM (spanDh k)
  loadSpans parts

/-- A little-endian doubleword among bytes. -/
def dwordAt (bs : List Byte) (off : Nat) : Word := BitVec.ofNat 64 (natOfBytes ((bs.drop off).take 8))

/-! ## Trace entries of accesses and engine commands (R170, R171, R377) -/

/-- INFO[2:0]: PA[50:48], 7 for fabric space, 2 for the core's own local memory. -/
def Phys.infoBits (p : Phys) : BitVec 3 :=
  if p.own then 2 else if regionOf p.pa == .fabric then 7 else BitVec.ofNat 3 (p.pa / 2 ^ 48)

/-- An access entry, where the access leaves local memory: 0 load, 1 store, 2 atomic. -/
def traceAccess (kind : BitVec 2) (logw : BitVec 3) (va : Word) (p : Phys) : M Unit := fun s =>
  .ok ((), if p.own then s else s.trace 2 va (kind ++ logw ++ p.infoBits) s.ctx.iaddr)

/-- Has a result just pushed the last word of a command? -/
def Ctx.passed (k : Ctx) (d : Opnd) : Bool :=
  match d with
  | .port q => (k.ports.get q.toFin).part == []
  | _ => false

/-- The access entry of an instruction whose result has gone to d: none where that passed a command, whose entry is
the instruction's only one (R170). -/
def traceResult (d : Opnd) (kind : BitVec 2) (logw : BitVec 3) (va : Word) (p : Phys) : M Unit := do
  let k ← ctx
  if k.passed d then pure () else traceAccess kind logw va p

/-- An engine-command entry whose INFO[2:0] is known. -/
def traceCommand (addr1 : Word) (info : BitVec 3) : M Unit := fun s =>
  .ok ((), s.trace 2 addr1 (3#2 ++ 0#3 ++ info) s.ctx.iaddr)

/-- An engine-command entry of a virtual address: INFO[2:0] is of its physical address; where it has none, the spec
gives none, and the bits are free. -/
def traceCommandVa (va : Word) : M Unit := do
  let s ← get
  if va = 0 then traceCommand 0 0
  else match s.placeOf? s.asker va with
    | some p => traceCommand va p.infoBits
    | none =>
      set s.drawn
      traceCommand va ((Config.freeWord s.tick).setWidth 3)

end Sys2Proof.Machine
end

