-- ==== Sys2Proof/Machine/Slots.lean ====
section
/-! DEFINITION. The contexts of a core: where they stand, launches into a slot (R207, R208), swaps (R148,
R212, R213, R228), slots that become idle (R119, R207), tokens and results that land in a context wherever
it stands (R76, R149, R163, R169), and channel words (R164). -/

namespace Sys2Proof.Machine

/-! ## Places -/

/-- Where a context of a core stands. -/
inductive Place where
  | front
  | shadow
  | saved (i : Fin 4)
  deriving DecidableEq, Repr, Inhabited

def allPlaces : List Place := [.front, .shadow, .saved 0, .saved 1, .saved 2, .saved 3]

/-- The context at a place; none at an idle slot and at an empty place of the save area. -/
def Core.ctxAt (c : Core) : Place → Option Ctx
  | .front => if c.front.life = .idle then none else some c.front
  | .shadow => if c.shadow.life = .idle then none else some c.shadow
  | .saved i => c.save.get i

def Core.setCtx (c : Core) (p : Place) (k : Ctx) : Core :=
  match p with
  | .front => { c with front := k }
  | .shadow => { c with shadow := k }
  | .saved i => { c with save := c.save.set i.val (some k) i.isLt }

/-- The first place whose context meets a condition. -/
def Core.placeOf (c : Core) (f : Ctx → Bool) : Option Place :=
  allPlaces.find? fun p => match c.ctxAt p with
    | some k => f k
    | none => false

/-- Changes the context of an owner, wherever it stands. -/
def State.modWho (s : State) (w : Who) (f : Ctx → Ctx) : State :=
  s.modCore w.core fun c =>
    match c.placeOf fun k => k.self == w.ctx with
    | none => c
    | some p => match c.ctxAt p with
      | some k => c.setCtx p (f k)
      | none => c

def State.ctxOf (s : State) (w : Who) : Option Ctx :=
  let c := s.getCore w.core
  match c.placeOf fun k => k.self == w.ctx with
  | none => none
  | some p => c.ctxAt p

/-- A token lands: its register takes the value, and the token is no longer pending (R76, R169). It makes no
history entry (R46). -/
def State.landToken (s : State) (w : Who) (t : BitVec 5) (v : Word) : State :=
  s.modWho w fun k => { (k.writeX t v) with pend := k.pend &&& ~~~(1#32 <<< t.toNat) }

/-- A command's result enters its port (R163). -/
def State.portResult (s : State) (w : Who) (q : BitVec 2) (v : Word) : State :=
  s.modWho w fun k => { k with
    ports := modAt k.ports q.toFin fun p => { p with results := p.results ++ [v], reserved := p.reserved - 1 } }

/-- Outcomes enter the port in the order of the pushes: those at the head of its flight (R162). -/
def Port.land (p : Port) : List (Nat × Option Word) → Port
  | (_, some v) :: r => ({ p with results := p.results ++ [v], reserved := p.reserved - 1 } : Port).land r
  | fl => { p with flight := fl }

/-- The oldest command of a number that has no outcome has this one. -/
def settleFlight (n : Nat) (v : Word) : List (Nat × Option Word) → List (Nat × Option Word)
  | [] => []
  | (m, none) :: r => if m = n then (m, some v) :: r else (m, none) :: settleFlight n v r
  | x :: r => x :: settleFlight n v r

/-- A command takes its place in its port's flight, with its outcome where it has one already. -/
def State.fly (s : State) (w : Who) (q : BitVec 2) (n : Nat) (v : Option Word) : State :=
  s.modWho w fun k => { k with ports := modAt k.ports q.toFin fun p => p.land (p.flight ++ [(n, v)]) }

/-- A command in flight has its outcome. -/
def State.alight (s : State) (w : Who) (q : BitVec 2) (n : Nat) (v : Word) : State :=
  s.modWho w fun k => { k with ports := modAt k.ports q.toFin fun p => p.land (settleFlight n v p.flight) }

/-! ## Channels (R164) -/

/-- The place of the context of the peer core that holds the other end of a sender's channel. -/
def State.otherEnd (s : State) (me : CoreId) (port : BitVec 3) (peer : CoreId) (pport : BitVec 3) : Option Place :=
  (s.getCore peer).placeOf fun k => (k.chans.get pport.toFin).bind == some ⟨me, port, true⟩

/-- Words held at the other end. -/
def State.heldAt (s : State) (me : CoreId) (port : BitVec 3) (b : ChanBind) : Nat :=
  match s.otherEnd me port b.peer b.port with
  | none => 0
  | some p => match (s.getCore b.peer).ctxAt p with
    | some k => (k.chans.get b.port.toFin).held.length
    | none => 0

/-- Words on their way from a context's sender end. -/
def State.movingFrom (s : State) (me : Who) (port : BitVec 3) : Nat :=
  s.due.countP fun d => match d.act with
    | .channelWordArrival src sp _ _ _ => src == me && sp == port
    | _ => false

/-! ## Swaps -/

/-- May the context issue? -/
def Ctx.issues (k : Ctx) : Bool := k.life == .live
/-- An attached follower of a gang. -/
def Ctx.follows (k : Ctx) : Bool := k.gang.gang && !k.gang.lead

/-- A member leaves its gang and takes back its own CTXID (R227). -/
def Ctx.leaveGang (k : Ctx) : Ctx :=
  { k with ctxid := k.self, gang := { k.gang with isIn := false, gang := false, lead := false, det := false, rjw := false, rejoin := 0 } }

/-- A parked context gives up its wait (R58), but for an arrival made (R276) and a fabric request under way;
what its arrival left is withdrawn: RJW (R226), a counted writer's count (R254), and an exchange's token where the
exchange has not started (R231). -/
def Ctx.parked (k : Ctx) : Ctx :=
  { k with
    pops := []
    pend := match k.progress with
      | .xpose (.xpose t _ _ _) _ _ .arrived => k.pend &&& ~~~(1#32 <<< t.toNat)
      | _ => k.pend
    gang := { k.gang with rjw := false, rejoin := if k.gang.rjw then 0 else k.gang.rejoin }
    progress := match k.progress with
      | .barrier h b d => .barrier h b d
      | .remote g t => .remote g t
      | .xpose i a b .started => .xpose i a b .started
      | .xpose i a b .done => .xpose i a b .done
      | _ => .none }

/-- Subtracts 1 from WW of a lock word (R254). -/
def State.withdrawCount (s : State) (k : Ctx) : State :=
  match k.progress with
  | .lock _ (some a) => s.putMem a (bytesOfNat 4 (natOfBytes (s.bytes a 4) - 2 ^ 16))
  | _ => s

/-- Exchanges the slots of a core in 16 cycles (R148). -/
def Core.exchange (c : Core) (now : Nat) : Core :=
  let c := { c with
    frontSlot := !c.frontSlot
    front := c.shadow
    shadow := c.front.parked
    busy := now + 16
    countdown := none
    swapDue := .no
    watchdog := none
    probed := none }
  if c.front.life = .idle then c else c.log c.frontSlot c.front 4 c.front.pc 1 0

/-- A follower parks with its gang; it is ready again when its leader's core asks (R228). While the spill engine works on
its core's shadow slot, which then stays that slot's (R149), it parks where it stands. -/
def State.parkFollower (s : State) (id : CoreId) : State :=
  (s.withdrawCount (s.getCore id).front).modCore id fun c =>
    let c := { c with front := { c.front.parked with life := .notReady } }
    if c.spilling.isSome || c.filling.isSome then c else c.exchange s.cycle.toNat

/-- The leader's core asks for the followers of its context's gang (R228). -/
def State.callFollowers (s : State) (leader : CoreId) (k : Ctx) : State :=
  let called (f : Ctx) : Ctx :=
    if f.follows && f.gang.leader == coreNo leader && f.gang.leadCtx == k.ctxid && f.life == .notReady then { f with life := .live } else f
  (List.range 16).foldl (fun s n =>
    s.modCore (peerOf leader (BitVec.ofNat 4 n)) fun c =>
      if k.gang.mask.getLsbD n then { c with front := called c.front, shadow := called c.shadow } else c) s

/-- A swap of a core, with the followers of a gang that its front context leads (R213, R228). -/
def State.swap (s : State) (id : CoreId) : State :=
  let c := s.getCore id
  let leads (k : Ctx) := k.gang.gang && k.gang.lead
  let ids := if leads c.front then s.followersOf id c.front.gang.mask else []
  let s := (s.withdrawCount c.front).modCore id fun c => c.exchange s.cycle.toNat
  let s := ids.foldl State.parkFollower s
  let k := (s.getCore id).front
  if leads k then s.callFollowers id k else s

/-- A swap is requested: the shadow context is ready (R212), and is not being spilled. -/
def Core.requested (c : Core) : Bool := c.shadow.issues && c.spilling.isNone

/-- Is a forced swap due (R213)? -/
def SwapDue.pending : SwapDue → Bool
  | .no => false
  | _ => true

/-- Does a request start a countdown now: not for an attached follower (R228), nor in PHASE 2 or 3 (R283)? -/
def Core.mayCount (c : Core) : Bool :=
  c.front.issues && !c.front.follows && c.front.phase.toNat < 2 && c.countdown.isNone && !c.swapDue.pending

/-- Is a command of this context on its way to an engine, or in work? -/
def Act.portOwner : Act → Option Who
  | .actcfg w _ | .scadd w _ | .evict w _ | .trel w _ | .stat w _ | .rcfg w _ | .route w _ | .flush w _ | .rrel w _
  | .rfault w _ | .rsend w _ | .rlaunch w _ | .rwin w _ | .dkgrant w _ | .rwinComplete w _ => some w
  | _ => none

/-- Copies and engine commands of a context that have not completed (R119), its posted stores to the fabric
among its accesses. -/
def State.outstanding (s : State) (w : Who) : Bool :=
  s.cmds.any (·.who == w) || s.due.any (fun d => d.act.portOwner == some w)
    || s.fabric.reqs.any (fun r => r.2.who == w)

/-- The slot of a halted context becomes idle once its work is complete (R119). -/
def State.drainCtx (s : State) (id : CoreId) (p : Place) : State :=
  match (s.getCore id).ctxAt p with
  | some k =>
    if k.life = .draining && k.pend = 0 && k.task.isNone && !s.outstanding ⟨id, k.self⟩ then
      s.modCore id fun c => match p with
        | .saved i => { c with save := c.save.set i.val none i.isLt }
        | p => c.setCtx p { k with life := .idle }
    else s
  | none => s

/-- Brings a core's slots up to date: halted contexts whose work is complete leave their slots (R119); a
launch that waits may take an idle slot (R207); a ready shadow context comes in where the front context no
longer issues (R213); and a request starts its countdown (R212). -/
def State.settle (s : State) (id : CoreId) : State :=
  let s := allPlaces.foldl (fun s p => s.drainCtx id p) s
  let c := s.getCore id
  let s :=
    if (c.front.life = .idle || c.shadow.life = .idle) && c.launchQ != [] && !s.due.any (fun d => d.act == .launchQueueStart id) then
      s.enqueue (.launchQueueStart id)
    else s
  let dead := match c.front.life with
    | .dead _ => true
    | _ => false
  if c.requested && !c.front.issues && !dead then s.swap id
  else if c.requested && c.mayCount then
    let t := s.cycle.toNat + c.front.ydeadline.toNat
    (s.modCore id fun c => { c with countdown := some t }).enqueue (.swapCountdownExpiry id) (some t)
  else s

/-! ## Launches (R207, R208) -/

/-- The context that a launch leaves in a slot. -/
def launchCtx (slot : Bool) (id : CoreId) (pkg : BitVec 10) (gen : BitVec 8) (r : LaunchRec) : Ctx :=
  let k := Ctx.reset (ctxidOf slot id pkg gen)
  { ((k.writeX 1 r.arg1).writeX 2 r.arg2) with
    pc := r.pc
    status := statusOf false 0 0 (if r.kl then 1 else 0) false
    life := .live }

/-- Starts a launch in a slot of its core: true for the front slot. -/
def Core.launchInto (c : Core) (front : Bool) (pkg : BitVec 10) (r : LaunchRec) : Core :=
  let slot := if front then c.frontSlot else !c.frontSlot
  let gen := (if slot then c.gen1 else c.gen0) + 1
  let k := launchCtx slot c.id pkg gen r
  let c := { c with
    gen0 := if slot then c.gen0 else gen
    gen1 := if slot then gen else c.gen1
    freeze := false }
  let c := if front then { c with front := k } else { c with shadow := k }
  c.log slot k 4 r.pc 0 0

/-- Places a launch where a slot is idle (R207 steps 1 and 2); none where both are taken. A slot that the
spill engine is filling is taken (R214). -/
def State.placeLaunch (s : State) (r : LaunchRec) : Option State :=
  let c := s.getCore r.target
  if c.front.life = .idle then
    some (s.modCore r.target fun c => c.launchInto true s.pkgid r)
  else if c.shadow.life = .idle && c.filling.isNone then
    some ((s.modCore r.target fun c => c.launchInto false s.pkgid r).settle r.target)
  else none

/-- R207 whole: a slot, the launch queue, or back-pressure. -/
def State.acceptLaunch (s : State) (r : LaunchRec) : Option State :=
  let c := s.getCore r.target
  match (if c.launchQ = [] then s.placeLaunch r else none) with
  | some s => some s
  | none =>
    if c.launchQ.length < 4 then some (s.modCore r.target fun c => { c with launchQ := c.launchQ ++ [r] }) else none

end Sys2Proof.Machine
end

