-- ==== Sys2Proof/Machine/Control.lean ====
section
/-! DEFINITION. Control space (R242, R244, R274, R303, R368): which offsets exist, who reaches them, what
they read as, and what a write does. The save area (R149) has no offset in the spec, and none here. -/

namespace Sys2Proof.Machine

/-- What a doubleword of control space holds. -/
inductive CtrlReg where
  | xroot (cl : BitVec 9)
  | xinv (cl : BitVec 9)
  | xinvst (cl : BitVec 9)
  | xten (cl : BitVec 9)
  | pown (n : Nat)
  | sown (n : Nat)
  | hown (n : Nat)
  | safe (n : Nat)
  | release (die : BitVec 2)
  deriving DecidableEq, Repr, Inhabited

/-- The register at an aligned offset; none where no chapter assigns it. -/
def ctrlReg (off : Nat) : Option CtrlReg :=
  if off % 8 ≠ 0 then none
  else if off < 512 * 0x1000 then
    let cl := BitVec.ofNat 9 (off / 0x1000)
    match off % 0x1000 with
    | 0x00 => some (.xroot cl)
    | 0x08 => some (.xinv cl)
    | 0x10 => some (.xinvst cl)
    | 0x18 => some (.xten cl)
    | _ => none
  else if 0x1000000 ≤ off && off < 0x1000200 then some (.pown (off - 0x1000000))
  else if 0x1000200 ≤ off && off < 0x1000240 then some (.sown (off - 0x1000200))
  else if 0x1000400 ≤ off && off < 0x1001400 then some (.hown (off - 0x1000400))
  else if 0x1002000 ≤ off && off < 0x1004000 then some (.safe (off - 0x1002000))
  else if 0x1004000 ≤ off && off < 0x1004020 then some (.release (BitVec.ofNat 2 ((off - 0x1004000) / 8)))
  else none

/-- MANAGER level reaches every register; a KERNEL context the cluster block of its own cluster, where it may
read XROOT and XTEN and access XINV and XINVST (R242). -/
def ctrlAllowed (manager kernel : Bool) (own : BitVec 9) (write : Bool) : CtrlReg → Bool
  | .xroot cl | .xten cl => manager || (kernel && cl == own && !write)
  | .xinv cl | .xinvst cl => manager || (kernel && cl == own)
  | _ => manager

/-- Eight bytes of a table of bytes. -/
def octet (t : Tab Byte) (n : Nat) : Word := BitVec.ofNat 64 (natOfBytes ((List.range 8).map fun i => t.get (n + i) 0))
def setOctet (t : Tab Byte) (n : Nat) (v : Word) : Tab Byte :=
  (List.range 8).foldl (fun t i => t.set (n + i) (v.extractLsb' (8 * i) 8 &&& 0xBF)) t

/-- What a doubleword reads as. -/
def State.ctrlRead (s : State) : CtrlReg → Word
  | .xroot cl => (s.cluster cl).xroot
  | .xinv _ => 0
  | .xinvst cl => if (s.cluster cl).inval.isSome then 1 else 0
  | .xten cl => (s.cluster cl).xten.setWidth 64
  | .pown n => octet s.pown n
  | .sown n => octet s.sown n
  | .hown n => octet s.hown n
  | .safe n => BitVec.ofNat 64 (natOfBytes ((List.range 8).map fun i =>
      if (s.getCore (BitVec.ofNat 13 (n + i))).safe then 1 else 0))
  | .release _ => 0

/-- Is any context of a cluster live? Writes to XTEN and XROOT are then ignored (R242). -/
def State.clusterLive (s : State) (cl : BitVec 9) : Bool :=
  (List.range 16).any fun n => ((s.getCore (cl ++ BitVec.ofNat 4 n)).placeOf fun _ => true).isSome

/-- Starts an invalidation (R244). -/
def State.startInval (s : State) (cl : BitVec 9) (v : Word) : State :=
  (s.setCluster cl { s.cluster cl with inval := some v }).enqueue (.invalidationComplete cl)

/-- What a write does; none where it must wait (an XINV store while BUSY is 1). -/
def State.ctrlWrite (s : State) (v : Word) : CtrlReg → Option State
  | .xroot cl =>
    if s.clusterLive cl then some s
    else some (s.setCluster cl { s.cluster cl with xroot := v &&& 0x000FFFFFFFFFE001 })
  | .xinv cl => if (s.cluster cl).inval.isSome then none else some (s.startInval cl v)
  | .xinvst _ => some s
  | .xten cl =>
    if s.clusterLive cl then some s
    else some (s.setCluster cl { s.cluster cl with xten := v.setWidth 6 })
  | .pown n => some { s with pown := setOctet s.pown n v, ownPast := s.ownPast ++ [(s.pown, s.sown)] }
  | .sown n => some { s with sown := setOctet s.sown n v, ownPast := s.ownPast ++ [(s.pown, s.sown)] }
  | .hown n => some { s with hown := setOctet s.hown n v }
  | .safe n => some ((List.range 8).foldl (fun s i =>
      s.modCore (BitVec.ofNat 13 (n + i)) fun c => { c with safe := v.getLsbD (8 * i) }) s)
  | .release d => some (if v.getLsbD 0 then s.enqueue (.routingRelease d v) else s)

end Sys2Proof.Machine
end

