-- ==== Sys2Proof/Machine/Ports.lean ====
section
/-! DEFINITION. The queue ports q0 to q3: what each engine checks as a word is pushed (R299, R300, R346,
R354), the push itself (R162, R163), and the passing of a whole command to its engine. -/

namespace Sys2Proof.Machine

/-! ## Fields of word 0 (R162) -/

def cmdLen (w : Word) : Nat := (w.extractLsb' 60 4).toNat
def cmdRes (w : Word) : Nat := (w.extractLsb' 56 4).toNat
def cmdCode (w : Word) : Nat := (w.extractLsb' 48 8).toNat

/-- LEN from 1 to 8, RES at most 8. -/
def lenResOk (w : Word) : Bool := decide (1 ≤ cmdLen w) && decide (cmdLen w ≤ 8) && decide (cmdRes w ≤ 8)

/-- LEN and RES of each engine's codes (R299, R300, R346, R354); none for an unknown code. -/
def codeShape (q : BitVec 2) (code : Nat) : Option (Nat × Nat) :=
  match q.toNat, code with
  | 0, 1 => some (1, 0)
  | 0, 2 => some (1, 0)
  | 1, 1 => some (1, 1)
  | 1, 2 => some (1, 0)
  | 1, 3 => some (1, 1)
  | 2, 1 => some (7, 0)
  | 2, 2 => some (2, 0)
  | 2, 3 => some (1, 1)
  | 2, 4 => some (1, 1)
  | 2, 5 => some (1, 1)
  | 3, 1 => some (3, 1)
  | 3, 2 => some (2, 1)
  | 3, 3 => some (4, 1)
  | 3, 4 => some (4, 0)
  | _, _ => none

/-- The columns of a tenant (R346): the same column of every stack is one GiB of each (R235, R242). -/
def State.columnOwned (s : State) (tenant : BitVec 6) (col : Nat) : Bool := ownsByte (s.sown.get (col % 64) 0) tenant

/-- Word 0 of a q0 command (R346). -/
def q0WordOk (s : State) (w : Word) : Bool :=
  w.extractLsb' 32 16 == 0 &&
  (if cmdCode w = 1 then
      !s.ctx.isUser && decide ((w.extractLsb' 0 4).toNat ≤ 11) && w.extractLsb' 4 4 == 0 && w.extractLsb' 16 16 != 0
    else w.extractLsb' 14 2 == 0 && decide ((w.extractLsb' 6 4).toNat ≤ 11) && s.columnOwned s.tenant (w.extractLsb' 0 10).toNat)

/-- A word of an RCFG, by its place (R300). -/
def rcfgWordOk (i : Nat) (w : Word) : Bool :=
  match i with
  | 0 =>
    let k := (w.extractLsb' 8 4).toNat
    let c := (w.extractLsb' 12 4).toNat
    w.extractLsb' 21 3 == 0 && w.extractLsb' 32 16 == 0 && decide (1 ≤ k) && decide (k ≤ 8) && decide (k ≤ c) && decide (c ≤ 8)
  | 2 => w.extractLsb' 16 48 == 0
  | 4 => w.extractLsb' 48 16 == 0 && decide (1 ≤ (w.extractLsb' 32 16).toNat) && decide ((w.extractLsb' 32 16).toNat ≤ 256)
  | 6 => w == 0
  | _ => true

/-- Is the push admitted against the configuration that the accepted commands leave standing (R300)? -/
def q2Admitted (s : State) (code : Nat) : Bool :=
  match (s.die (dieOf s.core.id)).routing.admitted with
  | some t => t == s.tenant
  | none => code == 1

/-- A word of a q3 command, by its code and place (R354). -/
def q3WordOk (s : State) (code i : Nat) (w : Word) : Bool :=
  match code, i with
  | 1, 1 | 1, 2 => w.extractLsb' 0 6 == 0
  | 3, 0 => w.extractLsb' 4 2 != 0
  | 3, 1 | 3, 2 => w.extractLsb' 0 9 == 0
  | 4, 0 => !s.ctx.isUser
  | _, _ => true

/-- Bytes of an RSEND, by its word 0 (R354). -/
def rsendBytes (w0 : Word) : Nat := 64 * ((w0.extractLsb' 28 6).toNat + 1)

/-- The checks of a word at its push that need no memory. -/
def portWordOk (s : State) (q : BitVec 2) (part : List Word) (w : Word) : Bool :=
  let w0 := part.headD w
  let i := part.length
  (i != 0 || (lenResOk w && codeShape q (cmdCode w) == some (cmdLen w, cmdRes w))) &&
  (match q.toNat with
    | 0 => q0WordOk s w
    | 1 => true
    | 2 => q2Admitted s (cmdCode w0) && (cmdCode w0 != 1 || rcfgWordOk i w)
    | _ => q3WordOk s (cmdCode w0) i w && (cmdCode w0 != 1 || i != 2 || decide (w.toNat + rsendBytes w0 ≤ 0xC000)))

/-! ## Launch records (R206) -/

/-- R206 steps 2 to 5: the record at a, as a load of the instruction in hand. -/
def readLaunchRec (word : Word) (a : Word) : M (List Word) := do
  guardTrap (a.toNat % 8 == 0) 0x03 a
  let bs ← memLoad a 32
  let target := dwordAt bs 0
  let pc := dwordAt bs 8
  guardTrap (target.extractLsb' 14 50 == 0) 0x01 word
  guardTrap (pc.extractLsb' 0 2 == 0) 0x03 pc
  let k ← ctx
  guardTrap (!(target.getLsbD 13 && k.isUser)) 0x06 word
  return [target, pc, dwordAt bs 16, dwordAt bs 24]

/-- The record that four doublewords give. -/
def launchRecOf : List Word → LaunchRec
  | t :: pc :: a1 :: a2 :: _ => ⟨t.extractLsb' 0 13, t.getLsbD 13, pc, a1, a2⟩
  | _ => ⟨0, false, 0, 0, 0⟩

/-! ## The push -/

/-- The act that carries a whole command. -/
def portAct (q : BitVec 2) (who : Who) (ws : List Word) : Option Act :=
  match q.toNat, cmdCode (ws.headD 0) with
  | 0, 1 => some (.actcfg who ws)
  | 0, 2 => some (.scadd who ws)
  | 1, 1 => some (.evict who ws)
  | 1, 2 => some (.trel who ws)
  | 1, 3 => some (.stat who ws)
  | 2, 1 => some (.rcfg who ws)
  | 2, 2 => some (.route who ws)
  | 2, 3 => some (.flush who ws)
  | 2, 4 => some (.rrel who ws)
  | 2, 5 => some (.rfault who ws)
  | 3, 1 => some (.rsend who ws)
  | 3, 2 => some (.rlaunch who ws)
  | 3, 3 => some (.rwin who ws)
  | 3, 4 => some (.dkgrant who ws)
  | _, _ => none

/-- The tenant whose configuration stands once this command is accepted (R300). -/
def Routing.accept (r : Routing) (code : Nat) (tenant : BitVec 6) : Routing :=
  if code = 1 then { r with admitted := some tenant }
  else if code = 4 then { r with admitted := none }
  else r

/-- Passes a whole command to its engine, with its trace entry (R162, R377). -/
def State.passCommand (s : State) (q : BitVec 2) (ws : List Word) : State :=
  let s := match portAct q s.who ws with
    | some a => s.enqueue a
    | none => s
  let s :=
    if q = 2 then
      let d := s.die (dieOf s.core.id)
      s.setDie (dieOf s.core.id) { d with routing := d.routing.accept (cmdCode (ws.headD 0)) s.tenant }
    else s
  s.trace 2 0 (3#2 ++ 0#6) s.ctx.iaddr

/-- Pushes a word into a queue port. `word` is the instruction in hand (R354 names it in EVALUE). -/
def pushPort (word : Word) (q : BitVec 2) (v : Word) : M Unit := do
  let s ← get
  let p := s.ctx.ports.get q.toFin
  let spec : Word := 48#64 + q.setWidth 64
  guardTrap (portWordOk s q p.part v) 0x0B spec
  let p' ← (if p.part = [] then do
      guardTrap (decide (p.results.length + p.reserved + cmdRes v ≤ 8)) 0x0B spec
      return { p with part := [v], reserved := p.reserved + cmdRes v }
    else if q = 3 ∧ cmdCode (p.part.headD 0) = 2 then do
      let r ← readLaunchRec word v
      return { p with part := p.part ++ [v] ++ r }
    else if q = 3 ∧ cmdCode (p.part.headD 0) = 1 ∧ p.part.length = 2 then do
      -- an RSEND carries its bytes as they stand at the push
      let n := rsendBytes (p.part.headD 0)
      let bs := s.view (localPa s.core.id v.toNat) n
      return { p with part := p.part ++ [v] ++ (List.range (n / 8)).map fun i => dwordAt bs (8 * i) }
    else return { p with part := p.part ++ [v] })
  let whole := cmdLen (p'.part.headD 0) ≤ p'.part.length
  modCtx fun k => { k with ports := k.ports.set q.toNat (if whole then { p' with part := [] } else p') q.isLt }
  if whole then modify fun s => s.passCommand q p'.part

end Sys2Proof.Machine
end

