-- ==== Sys2Proof/Machine/Operands.lean ====
section
/-! DEFINITION. Reading sources and writing destinations (R9, R43 to R47, R159 to R164), the modifiers of
bound hints (R50 to R52, R82), and draws and rounding (R83, R84). -/

namespace Sys2Proof.Machine

/-- The instruction word, zero-extended, as EVALUE holds it. -/
def wordOf (i : Instr) : Word := (encode i).setWidth 64

/-! ## Waiting in a receive (R209, R210) -/

/-- The state of a front context that waits in a receive: the watchdog is armed as the receive begins. -/
def State.inReceive (s : State) (r : Recv) : State :=
  let armed := match s.ctx.progress with
    | .receive _ => true
    | _ => false
  let s := s.mapCtx fun k => { k with progress := .receive r }
  if armed || s.ctx.rxwatch == 0 then s
  else
    let t := s.cycle.toNat + s.ctx.rxwatch.toNat
    (s.mapFocus fun c => { c with watchdog := some t }).enqueue (.rxwatchExpiry s.core.id) (some t)

def waitReceive {α : Type} (r : Recv) : M α := wait fun s => s.inReceive r

/-- The core in a counter's tag, when V is 1. -/
def Counter.edge (c : Counter) : Option CoreId := if c.tag.getLsbD 13 then some (c.tag.extractLsb' 0 13) else none

/-! ## Ring handles (R159, R160) -/

def Ring.slots (r : Ring) : Nat := 2 ^ (r.cfg.extractLsb' 0 4).toNat
def Ring.size (r : Ring) : Nat := (r.cfg.extractLsb' 4 7).toNat * 64
def Ring.bound (r : Ring) : Bool := r.cfg.getLsbD 11
def Ring.ctr (r : Ring) : BitVec 4 := r.cfg.extractLsb' 12 4

/-- P: the counter's value for a ring bound to one. -/
def Ring.prodAt (r : Ring) (c : Core) : BitVec 32 := if r.bound then (c.counter r.ctr).val else r.prod
def Ring.filled (r : Ring) (c : Core) : Nat := (r.prodAt c - r.cons).toNat
def Ring.head (r : Ring) : Word := BitVec.ofNat 64 (r.base.toNat + r.cons.toNat % r.slots * r.size)
def Ring.tail (r : Ring) (c : Core) : Word := BitVec.ofNat 64 (r.base.toNat + (r.prodAt c).toNat % r.slots * r.size)

/-- The specifier of a handle, as EVALUE holds it. -/
def handleSpec (h : BitVec 3) : Word := 40#64 + h.setWidth 64
def chanSpec (c : BitVec 3) : Word := 56#64 + c.setWidth 64
def portSpec (q : BitVec 2) : Word := 48#64 + q.setWidth 64

/-- A bound ring whose count is sound (R44, R159). -/
def ringOf (h : BitVec 3) : M Ring := do
  let s ← get
  match s.ctx.rings.get h.toFin with
  | none => trapUnpopped 0x0B (handleSpec h)
  | some r => if r.slots < r.filled s.core then trapUnpopped 0x0B (handleSpec h) else return r

/-- RFILL with W = 0 (R161): a receive where a counter binds the ring (R209). -/
def ringHead (h : BitVec 3) (n : Nat) : M Word := do
  let r ← ringOf h
  let s ← get
  if r.slots < n then trap 0x0B (handleSpec h)
  else if n ≤ r.filled s.core then return r.head
  else if r.bound then waitReceive (.ring h n)
  else wait

/-! ## Sources (R43 to R45) -/

/-- A source that pops takes the value held for this unit first (R45); none where it must pop afresh: in a handler,
and in a unit other than the one the buffer belongs to. -/
def takeHeld : M (Option Word) := fun s =>
  match s.ctx.hold with
  | v :: rest => if s.ctx.trapBit || s.ctx.pc != s.ctx.holdFor then .ok (none, s) else .ok (some v, s.mapCtx fun k => { k with hold := rest })
  | [] => .ok (none, s)

/-- A pop made: its value is noted, so that a trap keeps it (R45). -/
def popped (o : Opnd) (v : Word) : M Word := do
  modCtx fun k => { k.dropPop o with pops := k.pops ++ [(o, v)] }
  return v

/-- Pops the oldest result of a queue port (R163). -/
def popPort (q : BitVec 2) : M Word := do
  match ← takeHeld with
  | some v => return v
  | none =>
    let k ← ctx
    let p := k.ports.get q.toFin
    match p.results with
    | v :: _ => popped (.port q) v
    | [] => if p.reserved = 0 then trapUnpopped 0x0B (portSpec q) else wait

/-- Pops a bound receiver channel (R44, R164); its wait is a receive (R209). -/
def popChan (c : BitVec 3) : M Word := do
  match ← takeHeld with
  | some v => return v
  | none =>
    let k ← ctx
    let ch := k.chans.get c.toFin
    match ch.bind with
    | none => trapUnpopped 0x0B (chanSpec c)
    | some b =>
      if !b.recv then trapUnpopped 0x0B (chanSpec c)
      else match ch.held with
        | v :: _ => popped (.chan c) v
        | [] => waitReceive (.chan c (k.pops.countP (fun p => p.1 == .chan c) + 1))

/-- Src (R9, R43): a pending token waits (R169). -/
def src (o : Opnd) : M Word := do
  match o with
  | .x r =>
    let k ← ctx
    if k.pend.getLsbD r.toNat then wait else return k.readX r
  | .hist n =>
    let k ← ctx
    return k.history.getD n.toNat 0
  | .ring h => ringHead h 1
  | .port q => popPort q
  | .chan c => popChan c

/-! ## Destinations -/

/-- Pushes into a bound sender channel (R164): it waits while 8 words are held at the receiver or on
their way. -/
def pushChan (c : BitVec 3) (v : Word) : M Unit := do
  let s ← get
  let ch := s.ctx.chans.get c.toFin
  match ch.bind with
  | none => trapUnpopped 0x0B (chanSpec c)
  | some b =>
    if b.recv then trapUnpopped 0x0B (chanSpec c)
    else if 8 ≤ s.heldAt s.core.id c b + s.movingFrom s.who c then wait
    else
      modify fun s => s.enqueue (.channelWordArrival s.who c b.peer b.port v)

/-- An x register takes a result, which enters the history (R46); a pending token waits (R169). -/
def writeReg (r : BitVec 5) (v : Word) : M Unit := do
  let k ← ctx
  if k.pend.getLsbD r.toNat then wait else modCtx fun k => (k.pushHist v).writeX r v

/-- Dst (R9, R43). `word` is the instruction in hand. Specifiers 32 to 47 stand in no well-formed
instruction. -/
def dst (word : Word) (o : Opnd) (v : Word) : M Unit :=
  match o with
  | .x r => writeReg r v
  | .port q => pushPort word q v
  | .chan c => pushChan c v
  | .hist _ | .ring _ => trap 0x01 word

/-! ## Modifiers of bound hints -/

def hintKind (w : BitVec 32) : BitVec 2 := w.extractLsb' 24 2

/-- The payload of the bound hint of a kind. -/
def Ctx.hint? (k : Ctx) (kind : BitVec 2) : Option (BitVec 24) :=
  (k.hints.find? fun w => hintKind w == kind).map fun w => w.extractLsb' 0 24

/-- imm of OPs 2 to 7 (R50, R101). -/
def Ctx.immediate (k : Ctx) (imm : BitVec 14) : Word :=
  match k.hint? 0 with
  | some p => (p ++ imm).signExtend 64
  | none => imm.signExtend 64

def Ctx.modPayload (k : Ctx) : BitVec 24 := (k.hint? 2).getD 0
/-- RM of a bound HINT.MOD (R52). -/
def Ctx.modRm (k : Ctx) : Option RMode := (roundingOf (k.modPayload.extractLsb' 21 3)).getD none
def Ctx.modSat (k : Ctx) : Bool := k.modPayload.getLsbD 20
def Ctx.modPrimal (k : Ctx) : Bool := k.modPayload.getLsbD 19

/-- STATUS.RM (R64); its reserved values are never held. -/
def Ctx.statusRm (k : Ctx) : RMode :=
  match k.rm.toNat with
  | 0 => .nearest
  | 1 => .zero
  | 2 => .up
  | 3 => .down
  | _ => .stochastic

/-- The rounding mode that governs (R82). -/
def Ctx.roundMode (k : Ctx) (own : Option RMode := none) : RMode := k.modRm.getD (own.getD k.statusRm)
/-- Does saturation apply (R82)? -/
def Ctx.saturates (k : Ctx) (own : Bool := false) : Bool := k.modSat || own || k.satBit

/-! ## Draws and rounding (R83, R84) -/

/-- The next state of the stochastic generator. -/
def nextSeed (s : Word) : Word :=
  let s := if s = 0 then 1 else s
  let s := s ^^^ (s <<< 13)
  let s := s ^^^ (s >>> 7)
  s ^^^ (s <<< 17)

def Core.draw (c : Core) : Nat × Core :=
  let s := nextSeed c.rngSeed
  ((s.extractLsb' 48 16).toNat, { c with rngSeed := s })

/-- The draw of a rounded value: one under stochastic rounding, none otherwise. -/
def drawFor (mode : RMode) : M Nat := fun s =>
  if mode = .stochastic then .ok (s.core.draw.1, s.mapFocus fun c => c.draw.2) else .ok (0, s)

/-- Round with the draw it needs. -/
def roundM (f : Fmt) (mode : RMode) (sat : Bool) (x : Num) : M (Nat × Conds) := do
  let r ← drawFor mode
  return round f mode sat r x

end Sys2Proof.Machine
end

