-- ==== Sys2Proof/Machine/Scalar.lean ====
section
/-! DEFINITION. Integer instructions, OPs 1 to 10 (R95 to R103). -/

namespace Sys2Proof.Machine

/-! ## Results (R98 to R100) -/

def word (b : Bool) : Word := if b then 1 else 0

/-- The shift amount: B[5:0]. -/
def shiftOf (b : Word) : Nat := (b.extractLsb' 0 6).toNat
def sllW (a b : Word) : Word := a <<< shiftOf b
def srlW (a b : Word) : Word := a >>> shiftOf b
def sraW (a b : Word) : Word := a.sshiftRight (shiftOf b)
def rolW (a b : Word) : Word := (a <<< shiftOf b) ||| (a >>> (64 - shiftOf b))

def mulhW (a b : Word) : Word := (a.signExtend 128 * b.signExtend 128).extractLsb' 64 64
def mulhuW (a b : Word) : Word := (a.setWidth 128 * b.setWidth 128).extractLsb' 64 64

/-- R99. -/
def divW (a b : Word) : Word := if b = 0 then BitVec.allOnes 64 else a.sdiv b
def divuW (a b : Word) : Word := if b = 0 then BitVec.allOnes 64 else a / b
def remW (a b : Word) : Word := if b = 0 then a else a.srem b
def remuW (a b : Word) : Word := if b = 0 then a else a % b

def minW (a b : Word) : Word := if b.slt a then b else a
def maxW (a b : Word) : Word := if a.slt b then b else a
def minuW (a b : Word) : Word := if b.ult a then b else a
def maxuW (a b : Word) : Word := if a.ult b then b else a

/-- Leading zero bits among the n low bits. -/
def clzFrom (a : Word) : Nat → Nat
  | 0 => 0
  | n + 1 => if a.getLsbD n then 0 else clzFrom a n + 1
/-- Trailing zero bits from bit i upward, n bits left. -/
def ctzFrom (a : Word) : Nat → Nat → Nat
  | _, 0 => 0
  | i, n + 1 => if a.getLsbD i then 0 else ctzFrom a (i + 1) n + 1
/-- One bits among the n low bits. -/
def onesOf {w : Nat} (a : BitVec w) : Nat → Nat
  | 0 => 0
  | n + 1 => onesOf a n + (if a.getLsbD n then 1 else 0)

def clzW (a : Word) : Word := BitVec.ofNat 64 (clzFrom a 64)
def ctzW (a : Word) : Word := BitVec.ofNat 64 (ctzFrom a 0 64)
def popcW (a : Word) : Word := BitVec.ofNat 64 (onesOf a 64)

/-- The field of R100: its low bit, and its length, cut at bit 63. -/
def fieldOf (b : Word) : Nat × Nat :=
  let lo := (b.extractLsb' 0 6).toNat
  (lo, min (lo + min (b.extractLsb' 8 7).toNat 64) 64 - lo)
def maskOf (n : Nat) : Word := BitVec.ofNat 64 (2 ^ n - 1)
def bfxW (a b : Word) : Word := (a >>> (fieldOf b).1) &&& maskOf (fieldOf b).2
def bfiW (d a b : Word) : Word :=
  let m := maskOf (fieldOf b).2 <<< (fieldOf b).1
  (d &&& ~~~m) ||| ((a <<< (fieldOf b).1) &&& m)

/-! ## Shapes -/

/-- `MNEMONIC d, a, b`: both sources, then the result (R95). -/
def binOp (i : Instr) (d a b : Opnd) (f : Word → Word → Word) : M Flow := do
  let x ← src a
  let y ← src b
  dst (wordOf i) d (f x y)
  next

/-- `MNEMONIC d, a`. -/
def unOp (i : Instr) (d a : Opnd) (f : Word → Word) : M Flow := do
  let x ← src a
  dst (wordOf i) d (f x)
  next

/-- `MNEMONIC d, a, imm`: imm is that of R50 where a HINT.IMM is bound (R101). -/
def immOp (i : Instr) (d a : Opnd) (imm : BitVec 14) (f : Word → Word → Word) : M Flow := do
  let k ← ctx
  let x ← src a
  dst (wordOf i) d (f x (k.immediate imm))
  next

/-! ## OP 1 -/

def execAdd (d a b : Opnd) (s : State) : Host.Outcome State Fault Refusal :=
  unit (binOp (.add d a b) d a b (fun x y => x + y)) s
def execSub (d a b : Opnd) (s : State) : Host.Outcome State Fault Refusal :=
  unit (binOp (.sub d a b) d a b (fun x y => x - y)) s
def execAnd (d a b : Opnd) (s : State) : Host.Outcome State Fault Refusal :=
  unit (binOp (.and d a b) d a b (fun x y => x &&& y)) s
def execOr (d a b : Opnd) (s : State) : Host.Outcome State Fault Refusal :=
  unit (binOp (.or d a b) d a b (fun x y => x ||| y)) s
def execXor (d a b : Opnd) (s : State) : Host.Outcome State Fault Refusal :=
  unit (binOp (.xor d a b) d a b (fun x y => x ^^^ y)) s
def execAndn (d a b : Opnd) (s : State) : Host.Outcome State Fault Refusal :=
  unit (binOp (.andn d a b) d a b (fun x y => x &&& ~~~y)) s
def execSll (d a b : Opnd) (s : State) : Host.Outcome State Fault Refusal :=
  unit (binOp (.sll d a b) d a b sllW) s
def execSrl (d a b : Opnd) (s : State) : Host.Outcome State Fault Refusal :=
  unit (binOp (.srl d a b) d a b srlW) s
def execSra (d a b : Opnd) (s : State) : Host.Outcome State Fault Refusal :=
  unit (binOp (.sra d a b) d a b sraW) s
def execRol (d a b : Opnd) (s : State) : Host.Outcome State Fault Refusal :=
  unit (binOp (.rol d a b) d a b rolW) s
def execMul (d a b : Opnd) (s : State) : Host.Outcome State Fault Refusal :=
  unit (binOp (.mul d a b) d a b (fun x y => x * y)) s
def execMulh (d a b : Opnd) (s : State) : Host.Outcome State Fault Refusal :=
  unit (binOp (.mulh d a b) d a b mulhW) s
def execMulhu (d a b : Opnd) (s : State) : Host.Outcome State Fault Refusal :=
  unit (binOp (.mulhu d a b) d a b mulhuW) s
def execDiv (d a b : Opnd) (s : State) : Host.Outcome State Fault Refusal :=
  unit (binOp (.div d a b) d a b divW) s
def execDivu (d a b : Opnd) (s : State) : Host.Outcome State Fault Refusal :=
  unit (binOp (.divu d a b) d a b divuW) s
def execRem (d a b : Opnd) (s : State) : Host.Outcome State Fault Refusal :=
  unit (binOp (.rem d a b) d a b remW) s
def execRemu (d a b : Opnd) (s : State) : Host.Outcome State Fault Refusal :=
  unit (binOp (.remu d a b) d a b remuW) s
def execMin (d a b : Opnd) (s : State) : Host.Outcome State Fault Refusal :=
  unit (binOp (.min d a b) d a b minW) s
def execMax (d a b : Opnd) (s : State) : Host.Outcome State Fault Refusal :=
  unit (binOp (.max d a b) d a b maxW) s
def execMinu (d a b : Opnd) (s : State) : Host.Outcome State Fault Refusal :=
  unit (binOp (.minu d a b) d a b minuW) s
def execMaxu (d a b : Opnd) (s : State) : Host.Outcome State Fault Refusal :=
  unit (binOp (.maxu d a b) d a b maxuW) s
def execSlt (d a b : Opnd) (s : State) : Host.Outcome State Fault Refusal :=
  unit (binOp (.slt d a b) d a b (fun x y => word (x.slt y))) s
def execSltu (d a b : Opnd) (s : State) : Host.Outcome State Fault Refusal :=
  unit (binOp (.sltu d a b) d a b (fun x y => word (x.ult y))) s
def execSeq (d a b : Opnd) (s : State) : Host.Outcome State Fault Refusal :=
  unit (binOp (.seq d a b) d a b (fun x y => word (x == y))) s
def execClz (d a : Opnd) (s : State) : Host.Outcome State Fault Refusal :=
  unit (unOp (.clz d a) d a clzW) s
def execCtz (d a : Opnd) (s : State) : Host.Outcome State Fault Refusal :=
  unit (unOp (.ctz d a) d a ctzW) s
def execPopc (d a : Opnd) (s : State) : Host.Outcome State Fault Refusal :=
  unit (unOp (.popc d a) d a popcW) s
def execBfx (d a b : Opnd) (s : State) : Host.Outcome State Fault Refusal :=
  unit (binOp (.bfx d a b) d a b bfxW) s
/-- R96: d is read as a source before the result is written. -/
def execBfi (d a b : Opnd) (s : State) : Host.Outcome State Fault Refusal :=
  unit (do
    let x ← src a
    let y ← src b
    let z ← src d
    dst (wordOf (.bfi d a b)) d (bfiW z x y)
    next) s

/-! ## OPs 2 to 7 (R101) -/

def execAddi (d a : Opnd) (imm : BitVec 14) (s : State) : Host.Outcome State Fault Refusal :=
  unit (immOp (.addi d a imm) d a imm (fun x y => x + y)) s
def execAndi (d a : Opnd) (imm : BitVec 14) (s : State) : Host.Outcome State Fault Refusal :=
  unit (immOp (.andi d a imm) d a imm (fun x y => x &&& y)) s
def execOri (d a : Opnd) (imm : BitVec 14) (s : State) : Host.Outcome State Fault Refusal :=
  unit (immOp (.ori d a imm) d a imm (fun x y => x ||| y)) s
def execXori (d a : Opnd) (imm : BitVec 14) (s : State) : Host.Outcome State Fault Refusal :=
  unit (immOp (.xori d a imm) d a imm (fun x y => x ^^^ y)) s
def execSlti (d a : Opnd) (imm : BitVec 14) (s : State) : Host.Outcome State Fault Refusal :=
  unit (immOp (.slti d a imm) d a imm (fun x y => word (x.slt y))) s
def execSltiu (d a : Opnd) (imm : BitVec 14) (s : State) : Host.Outcome State Fault Refusal :=
  unit (immOp (.sltiu d a imm) d a imm (fun x y => word (x.ult y))) s

/-! ## OP 8 (R102) -/

def execSlli (d a : Opnd) (n : BitVec 6) (s : State) : Host.Outcome State Fault Refusal :=
  unit (unOp (.slli d a n) d a fun x => sllW x (n.setWidth 64)) s
def execSrli (d a : Opnd) (n : BitVec 6) (s : State) : Host.Outcome State Fault Refusal :=
  unit (unOp (.srli d a n) d a fun x => srlW x (n.setWidth 64)) s
def execSrai (d a : Opnd) (n : BitVec 6) (s : State) : Host.Outcome State Fault Refusal :=
  unit (unOp (.srai d a n) d a fun x => sraW x (n.setWidth 64)) s
def execRoli (d a : Opnd) (n : BitVec 6) (s : State) : Host.Outcome State Fault Refusal :=
  unit (unOp (.roli d a n) d a fun x => rolW x (n.setWidth 64)) s

/-! ## OPs 9 and 10 (R103) -/

/-- SignExt(imm20) times 2^14. -/
def upper (imm : BitVec 20) : Word := imm.signExtend 64 <<< 14

def execLui (d : Opnd) (imm : BitVec 20) (s : State) : Host.Outcome State Fault Refusal :=
  unit (do dst (wordOf (.lui d imm)) d (upper imm); next) s
/-- PC is the address of the instruction word itself, past its hints. -/
def execAuipc (d : Opnd) (imm : BitVec 20) (s : State) : Host.Outcome State Fault Refusal :=
  unit (do
    let k ← ctx
    dst (wordOf (.auipc d imm)) d (k.iaddr + upper imm)
    next) s

end Sys2Proof.Machine
end

