-- ==== Sys2Proof/Machine/LoadStore.lean ====
section
/-! DEFINITION. Loads, stores and bit access, OPs 21 to 23 (R112 to R117), the tape (R9, R310 to R312), and
adjoint cells (R305, R314). -/

namespace Sys2Proof

/-! ## Widths (R41) -/

def LdWidth.bytes : LdWidth → Nat
  | .s1 | .z1 => 1
  | .s2 | .z2 => 2
  | .s4 | .z4 => 4
  | .d8 => 8
def LdWidth.log : LdWidth → BitVec 3
  | .s1 | .z1 => 0
  | .s2 | .z2 => 1
  | .s4 | .z4 => 2
  | .d8 => 3
/-- The bytes of a load, extended by its width code (R41). -/
def LdWidth.extend (w : LdWidth) (v : Nat) : Word :=
  match w with
  | .s1 => (BitVec.ofNat 8 v).signExtend 64
  | .s2 => (BitVec.ofNat 16 v).signExtend 64
  | .s4 => (BitVec.ofNat 32 v).signExtend 64
  | _ => BitVec.ofNat 64 v
def StWidth.bytes : StWidth → Nat
  | .w1 => 1 | .w2 => 2 | .w4 => 4 | .w8 => 8
def StWidth.log : StWidth → BitVec 3
  | .w1 => 0 | .w2 => 1 | .w4 => 2 | .w8 => 3

/-- Is the specifier a register: one that can carry an adjoint (R114)? -/
def Opnd.isReg : Opnd → Bool
  | .x _ => true
  | _ => false

end Sys2Proof

namespace Sys2Proof.Machine

/-! ## Reporting of failed fabric stores (R351) -/

/-- A fabric-scope release, a full fence, a FENCE with E, TRET or HALT: it waits until every posted access
of the strand has its response, and reports the first that failed, once. -/
def reportFabric : M Unit := do
  let s ← get
  if s.fabric.reqs.any (fun r => r.2.who == s.who && r.2.use == .posted) then wait
  else match s.ctx.failed with
    | some (c, va) =>
      modCtx fun k => { k with failed := none }
      trapKeep c va
    | none => pure ()

/-! ## Control space -/

/-- The register an LD or ST of 8 bytes reaches, or cause 0x06 (R242). -/
def ctrlAt (va : Word) (p : Phys) (write : Bool) : M CtrlReg := do
  let s ← get
  match ctrlReg (offsetOf p.pa) with
  | some r =>
    guardTrap (ctrlAllowed s.ctx.isManager (!s.ctx.isUser) (clusterOf s.core.id) write r) 0x06 va
    return r
  | none => trap 0x06 va

/-! ## One cell -/

/-- In TAPE or REV mode an access that meets a declared region needs DH (R246): an adjoint cell or a tape entry that
lies over primal data is under the rules of both (R307). -/
def overlapDh (a : Word) (n : Nat) (p : Phys) : M Unit := do
  let k ← ctx
  spanDh k ((a, n), p)

/-- An adjoint cell's checks (R305, R241): translation as an access of the kind given, R and W, and its
region. -/
def adjCell (kind : AccKind) (c : Word) : M Phys := do
  let ps ← checkAll kind false [c]
  let p := ps.headD ⟨0, true, false, false⟩
  poolOrStacks c p
  overlapDh c 4 p
  return p

/-- Steps 4 and R246 for the stretches of an entry. -/
def spansPooled : List ((Word × Nat) × Phys) → M Unit
  | [] => pure ()
  | ((a, n), p) :: r => do
    poolOrStacks a p
    overlapDh a n p
    spansPooled r

/-- The tape entry of n bytes at an address: steps 2 to 4 of R312. -/
def tapeSpan (kind : AccKind) (a : Word) (n : Nat) : M (List ((Word × Nat) × Phys)) := do
  let ps ← checkAll kind false ((spans a n).map Prod.fst)
  let parts := (spans a n).zip ps
  spansPooled parts
  return parts

/-- Writes bytes in place, over the spans of an entry; never staged (R310). -/
def putSpans : List ((Word × Nat) × Phys) → List Byte → M Unit
  | [], _ => pure ()
  | ((_, n), p) :: r, bs => do
    let s ← get
    if s.inStep p.pa n then wait
    set (s.poke (canon p.pa) (bs.take n))
    putSpans r (bs.drop n)

/-- Reads the bytes of an entry in place; an uncorrectable error traps with cause 0x0A (R312 step 5). -/
def getSpans : List ((Word × Nat) × Phys) → M (List Byte)
  | [] => return []
  | ((a, n), p) :: r => do
    let s ← get
    if s.inStep p.pa n then wait
    else if s.failing p.pa n then trap 0x0A a
    else
      let rest ← getSpans r
      return s.bytes (canon p.pa) n ++ rest

/-- TapePush's bounds and places (R9, R312 steps 1 to 4). -/
def tapePushAt (a : Word) (n : Nat) : M (List ((Word × Nat) × Phys)) := do
  let k ← ctx
  guardTrap (decide (k.tapePos.toNat + n ≤ k.tapeLim.toNat)) 0x10 a
  tapeSpan .store k.tapePos n

/-- TapePop's bounds and places. -/
def tapePopAt (n : Nat) : M (List ((Word × Nat) × Phys)) := do
  let k ← ctx
  guardTrap (decide (k.tapeBase.toNat + n ≤ k.tapePos.toNat)) 0x11 k.tapePos
  tapeSpan .load (k.tapePos - BitVec.ofNat 64 n) n

/-- The ADDR word of an entry (R310): KIND 1 scalar, 2 vector. -/
def tapeAddr (kind : BitVec 2) (logw : BitVec 3) (a : Word) : Word := 0#6 ++ kind ++ logw ++ a.setWidth 53

/-- RoundNE32 of a sum of FP32 encodings (R9). -/
def addNE32 (a b : Nat) : Nat := addFp .fp32 a b

/-! ## LD and ST (R112 to R114) -/

/-- The control register that a scalar access of 8 bytes reaches, none elsewhere: part of its permission check
(R113 step 4, R242). -/
def ctrlPart (a : Word) (p : Phys) (write : Bool) : M (Option CtrlReg) :=
  if regionOf p.pa == .control then do
    let r ← ctrlAt a p write
    return some r
  else pure none

/-- The checks of a scalar access: alignment, translation, permission, the compute phase for a store,
R246. -/
def scalarChecks (kind : AccKind) (a : Word) (n : Nat) (ctrl : Bool) : M (Phys × Option CtrlReg) := do
  guardTrap (a.toNat % n == 0) 0x03 a
  let ps ← checkAll kind (ctrl && n == 8) [a]
  let p := ps.headD ⟨0, true, false, false⟩
  let c ← ctrlPart a p (kind != .load)
  if kind != .load then phaseCheck a p
  dhCheck a p
  return (p, c)

/-- REV LD: the register's value is added into the adjoint cell, and the register becomes 0 (R114, R314). -/
def revLoad (i : Instr) (d : Opnd) (a : Word) (p : Phys) (n region : Nat) : M Unit := do
  let k ← ctx
  guardTrap (n == k.esize region && d.isReg) 0x1A a
  poolOrStacks a p
  let g ← src d
  let c := k.adj region a
  let q ← adjCell .atomic c
  match ← bankAt c q .add .f32 (g.toNat % 2 ^ 32) 0 true with
  | .failing => trap 0x0A c
  | _ => dst (wordOf i) d 0

/-- LD and LDA past their address. -/
def loadForm (i : Instr) (d : Opnd) (a : Word) (w : LdWidth) (acquire : Bool) : M Flow := do
  let (p, c) ← scalarChecks .load a w.bytes !acquire
  let k ← ctx
  match k.diffMode, k.dreg a, acquire with
  | .rev, some _, true => trap 0x1A a
  | .rev, some r, false => revLoad i d a p w.bytes r
  | _, _, _ =>
    match c with
    | some r =>
      let s ← get
      dst (wordOf i) d (s.ctrlRead r)
    | none =>
      let bs ← loadAt a p w.bytes (if acquire then 1 else 0)
      dst (wordOf i) d (w.extend (natOfBytes bs))
  traceResult d 0 w.log a p
  next

/-- TAPE ST: the old value is pushed, then the new one stored (R114, R310, R312). `value` pops or reads the new
value, after the checks (R45). -/
def tapeStore (a : Word) (p : Phys) (n : Nat) (logw : BitVec 3) (value : M Word) : M Unit := do
  poolOrStacks a p
  let parts ← tapePushAt a 16
  let old ← loadAt a p n
  stageCheck a p n
  let v ← value
  putSpans parts (bytesOfNat 8 (tapeAddr 1 logw a).toNat ++ bytesOfNat 8 (natOfBytes old))
  modCtx fun k => { k with tapePos := k.tapePos + 16 }
  storeAt a p (bytesOfNat n v.toNat)

/-- REV ST: the entry is popped, the primal value restored, and the cell's adjoint taken into the register
(R114, R311, R314). -/
def revStore (i : Instr) (r : Opnd) (a : Word) (p : Phys) (n : Nat) (logw : BitVec 3) (region : Nat) : M Unit := do
  let k ← ctx
  guardTrap (n == k.esize region && r.isReg) 0x1A a
  poolOrStacks a p
  let parts ← tapePopAt 16
  let e ← getSpans parts
  guardTrap (dwordAt e 0 == tapeAddr 1 logw a) 0x11 a
  let v ← src r
  let c := k.adj region a
  let q ← adjCell .atomic c
  match ← bankAt c q .swap (.int 4) 0 0 true with
  | .done g _ =>
    storeAt a p ((e.drop 8).take n)
    modCtx fun k => { k with tapePos := k.tapePos - 16 }
    dst (wordOf i) r (BitVec.ofNat 64 (addNE32 (v.toNat % 2 ^ 32) g))
  | _ => trap 0x0A c

/-- A store to a register of control space. An invalidation takes effect only after the strand's earlier stores, so
its store waits for those that are posted (R244). -/
def ctrlStore (c : CtrlReg) (v : Word) : M Unit := do
  let s ← get
  let held : Bool := match c with
    | .xinv _ => s.fabric.reqs.any fun r => r.2.who == s.who && r.2.use == .posted
    | _ => false
  if held then wait
  else match s.ctrlWrite v c with
    | some s' => set s'
    | none => wait

/-- A plain store past its checks; its value is popped or read once they have passed (R45). -/
def plainStore (a : Word) (p : Phys) (c : Option CtrlReg) (n : Nat) (ord : BitVec 2) (value : M Word) : M Unit := do
  match c with
  | some c =>
    let v ← value
    ctrlStore c v
  | none =>
    if regionOf p.pa == .fabric then pure () else stageCheck a p n
    let v ← value
    storeAt a p (bytesOfNat n v.toNat) ord

/-- ST and STL past their address. Where an STL has an earlier failed store to report (R351) and would trap with cause
0x1A itself (R115), it reports the failed store first (log entry 81). -/
def storeForm (i : Instr) (r : Opnd) (a : Word) (w : StWidth) (release : Option Scope) : M Flow := do
  let (p, c) ← scalarChecks .store a w.bytes release.isNone
  match release with
  | some sc => if sc = .fabric || regionOf p.pa == .fabric then reportFabric
  | none => pure ()
  let k ← ctx
  match k.diffMode, k.dreg a, release with
  | .tape, some _, none => tapeStore a p w.bytes w.log (src r)
  | .rev, some region, none => revStore i r a p w.bytes w.log region
  | .fwd, _, _ => plainStore a p c w.bytes (if release.isSome then 2 else 0) (src r)
  | _, some _, some _ => trap 0x1A a
  | _, none, _ => plainStore a p c w.bytes (if release.isSome then 2 else 0) (src r)
  traceAccess 1 w.log a p
  next

/-- Src(base) + imm11 times the width. -/
def scaled (base : Word) (imm : BitVec 11) (n : Nat) : Word := base + imm.signExtend 64 * BitVec.ofNat 64 n

def execLd (d b : Opnd) (w : LdWidth) (imm : BitVec 11) (s : State) : Host.Outcome State Fault Refusal :=
  unit (do
    let base ← src b
    loadForm (.ld d b w imm) d (scaled base imm w.bytes) w false) s
def execSt (r b : Opnd) (w : StWidth) (imm : BitVec 11) (s : State) : Host.Outcome State Fault Refusal :=
  unit (do
    let base ← src b
    storeForm (.st r b w imm) r (scaled base imm w.bytes) w none) s

/-- R115. Every access of this model is performed at its step (log entry 6), so an acquire orders nothing
more. -/
def execLda (d a : Opnd) (w : LdWidth) (sc : Scope) (s : State) : Host.Outcome State Fault Refusal :=
  unit (do
    let x ← src a
    loadForm (.lda d a w sc) d x w true) s
def execStl (r a : Opnd) (w : StWidth) (sc : Scope) (s : State) : Host.Outcome State Fault Refusal :=
  unit (do
    let x ← src a
    storeForm (.stl r a w sc) r x w (some sc)) s

/-! ## Bit access (R116, R117) -/

def Ctx.baAt (k : Ctx) (n : BitVec 2) : Word := k.ba.get n.toFin
def Ctx.setBa (k : Ctx) (n : BitVec 2) (v : Word) : Ctx := { k with ba := k.ba.set n.toNat v n.isLt }

/-- The address of the 32-bit word that holds the bit ba. -/
def bitWord (ba : Word) : Word := ba.sshiftRight 5 <<< 2

/-- The words that w bits from ba touch. -/
def bitWords (ba : Word) (w : Nat) : List Word :=
  (List.range (((ba.extractLsb' 0 5).toNat + w - 1) / 32 + 1)).map fun i => bitWord ba + BitVec.ofNat 64 (4 * i)

/-- R117's rule and R246 for the words of a bit access: refused in the modes given, or on a page with DH
= 0. A region that takes in any byte of a touched word counts, and EVALUE is the lowest such byte (log entry 82). -/
def bitRegions (refuse : DiffMode → Bool) : List (Word × Phys) → M Unit
  | [] => pure ()
  | (a, p) :: r => do
    let k ← ctx
    if k.diffMode != .fwd && (refuse k.diffMode || !p.dh) then
      match firstOverlap k.regions a.toNat 4 with
      | some lo => trap 0x1A (BitVec.ofNat 64 lo)
      | none => pure ()
    bitRegions refuse r

/-- The touched words as accesses: two that follow on in fabric space make one piece (R350). -/
def joinWords : List (Word × Phys) → List ((Word × Nat) × Phys)
  | [] => []
  | (a, p) :: r => match joinWords r with
    | ((b, n), q) :: rest =>
      if regionOf p.pa == .fabric && q.pa == p.pa + 4 && q.strong == p.strong then ((a, n + 4), p) :: rest
      else ((a, 4), p) :: ((b, n), q) :: rest
    | rest => ((a, 4), p) :: rest

/-- The bits of the touched words, lowest first. -/
def loadWords (ws : List (Word × Phys)) : M Nat := do
  let bs ← loadSpans (joinWords ws)
  return natOfBytes bs

/-- Bytes as a read-modify-write within the package finds them: an uncorrectable error does not trap it (R113). -/
def peekAt (p : Phys) (n : Nat) : M (List Byte) := do
  let s ← get
  if s.inStep p.pa n then wait else return s.view p.pa n

/-- Replaces bits lo to hi of the word at a with those of v (bit lo of the word taking bit 0 of v). -/
def mergeWord (a : Word) (p : Phys) (lo hi v : Nat) : M Unit := do
  let first := lo / 8
  let n := hi / 8 - first + 1
  let va := a + BitVec.ofNat 64 first
  let q := { p with pa := p.pa + first }
  let old ← peekAt q n
  let mask := (2 ^ (hi + 1 - lo) - 1) * 2 ^ (lo - 8 * first)
  let o := natOfBytes old
  let new := o - (o &&& mask) + ((v * 2 ^ (lo - 8 * first)) &&& mask)
  storeLocal va q (bytesOfNat n new)

/-- A byte that a bit store changes: its place, and the bits of it that take new values. -/
structure BitByte where
  va   : Word
  p    : Phys
  mask : Nat
  val  : Nat
  deriving DecidableEq, Repr, Inhabited

/-- The bytes that bits lo to hi of the word at a change. -/
def bitBytes (a : Word) (p : Phys) (lo hi v : Nat) : List BitByte :=
  let mask := (2 ^ (hi + 1 - lo) - 1) * 2 ^ lo
  (List.range (hi / 8 - lo / 8 + 1)).map fun j =>
    let o := lo / 8 + j
    ⟨a + BitVec.ofNat 64 o, { p with pa := p.pa + o }, mask / 256 ^ o % 256, v * 2 ^ lo / 256 ^ o % 256⟩

/-- Writes w bits of v into the stream from offset o of the first word on: at once within the package; the bytes that
lie in fabric space are handed on. -/
def mergeWords : List (Word × Phys) → Nat → Nat → Nat → M (List BitByte)
  | [], _, _, _ => return []
  | (a, p) :: r, o, w, v => do
    if w = 0 then return []
    else
      let n := min w (32 - o)
      if regionOf p.pa == .fabric then
        let rest ← mergeWords r 0 (w - n) (v / 2 ^ n)
        return bitBytes a p o (o + n - 1) v ++ rest
      else
        mergeWord a p o (o + n - 1) v
        mergeWords r 0 (w - n) (v / 2 ^ n)

/-- Bytes of fabric space that follow on from one another make one piece of at most 512 bytes (R350). -/
def joinBytes : List BitByte → List (List BitByte)
  | [] => []
  | b :: r => match joinBytes r with
    | (c :: cs) :: rest =>
      if c.va == b.va + 1 && c.p.pa == b.p.pa + 1 && decide (cs.length + 2 ≤ 512) then (b :: c :: cs) :: rest else [b] :: (c :: cs) :: rest
    | rest => [b] :: rest

/-- The places of a list of changes, each once. -/
def bitPlaces (us : List BitByte) : List BitByte :=
  us.foldl (fun ps u => if ps.any (fun q => q.p.pa == u.p.pa) then ps else ps ++ [u]) []

/-- The bytes at the pieces as a bit store finds them, by physical address. A failure is noted, and no trap (R351); one
for an uncorrectable error is none of a store's (R113). The bytes are then left as they are. -/
def bitReads : List (List BitByte) → M (List (Nat × Byte))
  | [] => return []
  | [] :: r => bitReads r
  | (b :: bs) :: r => do
    match ← tryRead b.va b.p (bs.length + 1) with
    | .data vs =>
      let rest ← bitReads r
      return ((b :: bs).map fun u => u.p.pa).zip vs ++ rest
    | .fail c =>
      if c = 0x0A then pure () else noteFailure b.va (.fail c)
      bitReads r

/-- A byte after every change that reaches it, in order. -/
def changedByte (us : List BitByte) (pa : Nat) (v : Byte) : Byte :=
  us.foldl (fun v u => if u.p.pa = pa then BitVec.ofNat 8 (v.toNat - (v.toNat &&& u.mask) + (u.val &&& u.mask)) else v) v

/-- Writes the pieces whose bytes were read. -/
def bitWrites (us : List BitByte) (got : List (Nat × Byte)) : List (List BitByte) → M Unit
  | [] => pure ()
  | [] :: r => bitWrites us got r
  | (b :: bs) :: r => do
    let vs := (b :: bs).filterMap fun u => (got.find? fun g => g.1 == u.p.pa).map fun g => changedByte us u.p.pa g.2
    if vs.length = bs.length + 1 then storeAt b.va b.p vs else pure ()
    bitWrites us got r

/-- The changes of a bit store to bytes in fabric space: every byte is read once, takes the changes in order, and is
written back. -/
def mergeFar (us : List BitByte) : M Unit := do
  let ps := joinBytes (bitPlaces us)
  let got ← bitReads ps
  bitWrites us got ps

def execLdbit (d : Opnd) (kn : BitVec 2) (w1 : BitVec 5) (adv : Bool) (s : State) : Host.Outcome State Fault Refusal :=
  unit (do
    let k ← ctx
    let ba := k.baAt kn
    let w := w1.toNat + 1
    let vas := bitWords ba w
    let ps ← checkAll .load false vas
    bitRegions (· == .rev) (vas.zip ps)
    let v ← loadWords (vas.zip ps)
    dst (wordOf (.ldbit d kn w1 adv)) d (BitVec.ofNat 64 (v / 2 ^ (ba.extractLsb' 0 5).toNat % 2 ^ w))
    if adv then modCtx fun k => k.setBa kn (ba + BitVec.ofNat 64 w)
    traceResult d 0 2 (bitWord ba) (ps.headD ⟨0, true, false, false⟩)
    next) s

def execStbit (r : Opnd) (kn : BitVec 2) (w1 : BitVec 5) (adv : Bool) (s : State) : Host.Outcome State Fault Refusal :=
  unit (do
    let k ← ctx
    let ba := k.baAt kn
    let w := w1.toNat + 1
    let vas := bitWords ba w
    let ps ← checkAll .store false vas
    (vas.zip ps).forM fun x => phaseCheck x.1 x.2
    bitRegions (fun _ => true) (vas.zip ps)
    let v ← src r
    let far ← mergeWords (vas.zip ps) (ba.extractLsb' 0 5).toNat w (v.toNat % 2 ^ w)
    mergeFar far
    if adv then modCtx fun k => k.setBa kn (ba + BitVec.ofNat 64 w)
    traceAccess 1 2 (bitWord ba) (ps.headD ⟨0, true, false, false⟩)
    next) s

def execBaset (kn : BitVec 2) (a b : Opnd) (s : State) : Host.Outcome State Fault Refusal :=
  unit (do
    let x ← src a
    let y ← src b
    modCtx fun k => k.setBa kn ((x <<< 3) + y)
    next) s

end Sys2Proof.Machine
end

