-- ==== Sys2Proof/Machine/Atomics.lean ====
section
/-! DEFINITION. Atomics and reductions, OP 24 (R248 to R252). -/

namespace Sys2Proof

/-- Is the ordering a release? -/
def Order.releases : Order → Bool
  | .release | .both => true
  | _ => false

/-- The type of a reduction at the bank ALU (R249). -/
def RedType.bank : RedType → Machine.BankType
  | .i64 => .int 8
  | .i32 => .int 4
  | .f32 => .f32
  | .bf16 => .bf16

end Sys2Proof

namespace Sys2Proof.Machine

/-- Log2 of a width in bytes. -/
def logOf (n : Nat) : BitVec 3 := BitVec.ofNat 3 (Nat.log2 n)

/-- The code of an ordering (R55), as a fabric packet carries it. -/
def ordCode (o : Order) : BitVec 2 := o.code

/-- The checks of an atomic: alignment, translation, permission, the compute phase, and the mode (R251). -/
def atomicChecks (a : Word) (n : Nat) : M Phys := do
  guardTrap (a.toNat % n == 0) 0x03 a
  let ps ← checkAll .atomic false [a]
  let p := ps.headD ⟨0, true, false, false⟩
  phaseCheck a p
  let k ← ctx
  if k.diffMode != .fwd && (k.dreg a).isSome then trap 0x1A a
  return p

/-- A release in fabric space reports failed stores (R252, R351). -/
def atomicRelease (o : Order) (p : Phys) : M Unit :=
  if o.releases && regionOf p.pa == .fabric then reportFabric else pure ()

/-- fn 0 to 8 past the address: the old element, or the refusal's all ones (R250). A value that is popped is popped
once the checks have passed (R45). -/
def atomicOld (a : Word) (b : Opnd) (d : Word) (fn : BankFn) (o : Order) : M (Phys × Word) := do
  let p ← atomicChecks a 8
  atomicRelease o p
  let y ← src b
  match ← bankAt a p fn (.int 8) y.toNat d.toNat true (ordCode o) with
  | .refused => trap 0x0E a
  | .failing => trap 0x0A a
  | .failed c => trap c a
  | .done old carried => return (p, if carried then BitVec.ofNat 64 old else BitVec.allOnes 64)

/-- `MNEMONIC d, b, 0(a)`. -/
def atomicOp (i : Instr) (d a b : Opnd) (o : Order) (fn : BankFn) : M Flow := do
  let x ← src a
  let (p, old) ← atomicOld x b 0 fn o
  dst (wordOf i) d old
  traceResult d 2 3 x p
  next

/-- ACAS and ABADD read d first (R96, R250). -/
def atomicOp3 (i : Instr) (d a b : Opnd) (o : Order) (fn : BankFn) : M Flow := do
  let z ← src d
  let x ← src a
  let (p, old) ← atomicOld x b z fn o
  dst (wordOf i) d old
  traceResult d 2 3 x p
  next

def execAadd (d a b : Opnd) (o : Order) (s : State) : Host.Outcome State Fault Refusal :=
  unit (atomicOp (.aadd d a b o) d a b o .add) s
def execAmin (d a b : Opnd) (o : Order) (s : State) : Host.Outcome State Fault Refusal :=
  unit (atomicOp (.amin d a b o) d a b o .min) s
def execAmax (d a b : Opnd) (o : Order) (s : State) : Host.Outcome State Fault Refusal :=
  unit (atomicOp (.amax d a b o) d a b o .max) s
def execAand (d a b : Opnd) (o : Order) (s : State) : Host.Outcome State Fault Refusal :=
  unit (atomicOp (.aand d a b o) d a b o .and) s
def execAor (d a b : Opnd) (o : Order) (s : State) : Host.Outcome State Fault Refusal :=
  unit (atomicOp (.aor d a b o) d a b o .or) s
def execAxor (d a b : Opnd) (o : Order) (s : State) : Host.Outcome State Fault Refusal :=
  unit (atomicOp (.axor d a b o) d a b o .xor) s
def execAswp (d a b : Opnd) (o : Order) (s : State) : Host.Outcome State Fault Refusal :=
  unit (atomicOp (.aswp d a b o) d a b o .swap) s
def execAcas (d a b : Opnd) (o : Order) (s : State) : Host.Outcome State Fault Refusal :=
  unit (atomicOp3 (.acas d a b o) d a b o .cas) s
def execAbadd (d a b : Opnd) (o : Order) (s : State) : Host.Outcome State Fault Refusal :=
  unit (atomicOp3 (.abadd d a b o) d a b o .badd) s

/-- fn 9 to 11: nothing is returned, and no history entry is made. An uncorrectable error leaves the element
as it is (R251); a core in its compute phase discards the reduction and counts it (R285). -/
def reduceOp (a b : Opnd) (o : Order) (t : RedType) (fn : BankFn) : M Flow := do
  let x ← src a
  let p ← atomicChecks x t.bank.bytes
  atomicRelease o p
  let y ← src b
  match ← bankAt x p fn t.bank (y.toNat % 256 ^ t.bank.bytes) 0 false (ordCode o) with
  | .refused => modify fun s => s.modCore (windowCore p.pa) fun c => { c with discards := c.discards + 1 }
  | _ => pure ()
  traceAccess 2 (logOf t.bank.bytes) x p
  next

def execRedadd (t : RedType) (a b : Opnd) (o : Order) (s : State) : Host.Outcome State Fault Refusal :=
  unit (reduceOp a b o t .add) s
def execRedmin (t : RedType) (a b : Opnd) (o : Order) (s : State) : Host.Outcome State Fault Refusal :=
  unit (reduceOp a b o t .min) s
def execRedmax (t : RedType) (a b : Opnd) (o : Order) (s : State) : Host.Outcome State Fault Refusal :=
  unit (reduceOp a b o t .max) s

end Sys2Proof.Machine
end

