-- ==== Sys2Proof/Machine/Branch.lean ====
section
/-! DEFINITION. Branches, jumps and hardware loops, OPs 12 to 20 (R107 to R111). -/

namespace Sys2Proof.Machine

/-- A branch (R107): taken, control goes to the branch word's address + 4 times the offset. -/
def branch (a b : Opnd) (off : BitVec 14) (taken : Word → Word → Bool) : M Flow := do
  let k ← ctx
  let x ← src a
  let y ← src b
  if taken x y then jump (k.iaddr + (off.signExtend 64 <<< 2)) else next

def execBeq (a b : Opnd) (off : BitVec 14) (s : State) : Host.Outcome State Fault Refusal :=
  unit (branch a b off fun x y => x == y) s
def execBne (a b : Opnd) (off : BitVec 14) (s : State) : Host.Outcome State Fault Refusal :=
  unit (branch a b off fun x y => x != y) s
def execBlt (a b : Opnd) (off : BitVec 14) (s : State) : Host.Outcome State Fault Refusal :=
  unit (branch a b off fun x y => x.slt y) s
def execBge (a b : Opnd) (off : BitVec 14) (s : State) : Host.Outcome State Fault Refusal :=
  unit (branch a b off fun x y => !x.slt y) s
def execBltu (a b : Opnd) (off : BitVec 14) (s : State) : Host.Outcome State Fault Refusal :=
  unit (branch a b off fun x y => x.ult y) s
def execBgeu (a b : Opnd) (off : BitVec 14) (s : State) : Host.Outcome State Fault Refusal :=
  unit (branch a b off fun x y => !x.ult y) s

/-- R108. -/
def execJal (d : Opnd) (off : BitVec 20) (s : State) : Host.Outcome State Fault Refusal :=
  unit (do
    let k ← ctx
    dst (wordOf (.jal d off)) d (k.iaddr + 4)
    jump (k.iaddr + (off.signExtend 64 <<< 2))) s

/-- R108: a misaligned target traps before d or the PC changes (R39). -/
def execJalr (d a : Opnd) (imm : BitVec 14) (s : State) : Host.Outcome State Fault Refusal :=
  unit (do
    let k ← ctx
    let x ← src a
    let t := x + imm.signExtend 64
    guardTrap (t.extractLsb' 0 2 == 0) 0x03 t
    dst (wordOf (.jalr d a imm)) d (k.iaddr + 4)
    jump t) s

/-! ## Hardware loops -/

def Ctx.loopAt (k : Ctx) (l : Bool) : LoopLevel := if l then k.loops[1] else k.loops[0]
def Ctx.setLoop (k : Ctx) (l : Bool) (v : LoopLevel) : Ctx :=
  { k with loops := if l then #v[k.loops[0], v] else #v[v, k.loops[1]] }

/-- LSTARTk's number. -/
def lstartNo (l : Bool) : Word := if l then 0x014 else 0x010

/-- A level that is active already traps before the count is read (R109, R45). -/
def loopIdle (l : Bool) : M Unit := do
  let k ← ctx
  guardTrap (!(k.loopAt l).active) 0x09 (lstartNo l)

/-- Starts level l (R109): the body runs from the next word to the one `off` words on. -/
def startLoop (l : Bool) (count : BitVec 32) (off : Word) : M Flow := do
  let k ← ctx
  if count = 0 then return { target := some (k.iaddr + (off <<< 2) + 4) }
  else
    modCtx fun k => k.setLoop l ⟨k.iaddr + 4, k.iaddr + (off <<< 2), count, true⟩
    next

def execLoop (l : Bool) (a : Opnd) (off : BitVec 14) (s : State) : Host.Outcome State Fault Refusal :=
  unit (do
    loopIdle l
    let x ← src a
    startLoop l (x.setWidth 32) (off.setWidth 64)) s
def execLoopi (l : Bool) (n : BitVec 12) (off : BitVec 12) (s : State) : Host.Outcome State Fault Refusal :=
  unit (do
    loopIdle l
    startLoop l (n.setWidth 32) (off.setWidth 64)) s

end Sys2Proof.Machine
end

