-- ==== Sys2Proof/Machine/Engine.lean ====
section
/-! DEFINITION. Memory as the engines reach it: the copy unit, the scheduler, the routing core, the stack and
fabric engines (R168, R243, R246, R268, R285, R294, R350). Their work is done anew from its start each time
it is taken up, with the fabric responses it has had so far; nothing of it stands before it completes. -/

namespace Sys2Proof.Machine

/-- On whose behalf an engine works, and in which mode its command retired (R316); the task whose writes are staged, and
whether its context has left it (R294). -/
structure Eng where
  who     : Who
  task    : Option Task
  gone    : Bool
  asker   : Asker
  mode    : DiffMode
  regions : List (Nat × Nat)
  deriving DecidableEq, Repr, Inhabited

/-- Why an engine's work does not go on: a cause to record, a fabric request to issue, or an access that is
held (R216, R336). -/
inductive EStop where
  | fault (c : BitVec 8)
  | issue (va : Word) (pa : Nat) (op : RemoteOp)
  | held
  deriving DecidableEq, Repr, Inhabited

/-- The state, and the fabric responses not yet used. -/
abbrev E := StateT (State × List RemoteVal) (Except EStop)

def eStop {α : Type} (x : EStop) : E α := fun _ => .error x
def eFault {α : Type} (c : BitVec 8) : E α := eStop (.fault c)
def eState : E State := fun p => .ok (p.1, p)
def eMod (f : State → State) : E Unit := fun p => .ok ((), (f p.1, p.2))

/-- A fabric access of an engine (R350). -/
def eFabric (tenant : BitVec 6) (va : Word) (pa : Nat) (op : RemoteOp) : E RemoteVal := fun (s, got) =>
  if pkgOf pa = s.pkgid then
    if !s.reachable (pkgOf pa) then .ok (.fail 0x15, (s, got))
    else if s.inStep pa op.len then .error .held
    else
      let (v, s') := s.serve tenant (pa % 2 ^ 41) op
      .ok (v, (s', got))
  else match got with
    | g :: rest => .ok (g, (s, rest))
    | [] => if s.reachable (pkgOf pa) then .error (.issue va pa op) else .ok (.fail 0x15, (s, []))

/-- Does R246 refuse the bytes: in a declared region, in TAPE or REV mode, on a page with DH = 0? -/
def Eng.dhFault (e : Eng) (a : Word) (n : Nat) (p : Phys) : Bool :=
  e.mode != .fwd && !p.dh && (firstOverlap e.regions a.toNat n).isSome

/-- Does R316 refuse the bytes: in a declared region, in REV mode without PRIMAL? -/
def Eng.revFault (e : Eng) (a : Word) (n : Nat) : Bool := e.mode == .rev && (firstOverlap e.regions a.toNat n).isSome

/-- Translation of one address for an engine. -/
def eXlate (e : Eng) (k : AccKind) (va : Word) : E Phys := do
  let s ← eState
  match s.xlate e.asker k false va with
  | .error c => eFault c
  | .ok (p, t) =>
    match t with
    | some t => eMod fun s => s.fill e.asker.cluster t
    | none => pure ()
    return p

/-- The bytes of a task context as its own engines read them (R294). -/
def State.viewFor (s : State) (e : Eng) (pa : Nat) : Nat → List Byte
  | 0 => []
  | n + 1 =>
    let a := canon pa
    let b := match (if e.task.isSome then (s.getCore e.who.core).stagedByte e.who.ctx a else none) with
      | some b => b
      | none => s.byteAt a
    b :: s.viewFor e (pa + 1) n

/-- Reads n bytes within one page. -/
def eReadSpan (e : Eng) (a : Word) (n : Nat) : E (List Byte) := do
  let p ← eXlate e .load a
  if e.dhFault a n p then eFault 0x1A
  else if regionOf p.pa == .fabric then
    let mut out : List Byte := []
    for (o, m) in chunksOf n do
      match ← eFabric e.asker.tenant (a + BitVec.ofNat 64 o) (p.pa + o) (.read m) with
      | .data bs => out := out ++ bs
      | .fail c => eFault c
    return out
  else
    let s ← eState
    if s.inStep p.pa n then eStop .held
    else if s.failing p.pa n then eFault 0x0A
    else return s.viewFor e p.pa n

def eRead (e : Eng) (va : Word) (n : Nat) : E (List Byte) := do
  let mut out : List Byte := []
  for (a, m) in spans va n do out := out ++ (← eReadSpan e a m)
  return out

/-- Writes bytes within one page: a write to a core local window while the strand is in PHASE 1 is refused
with cause 0x0E, one to a core in its compute phase is discarded (R285). -/
def eWriteSpan (e : Eng) (a : Word) (bs : List Byte) : E Unit := do
  let p ← eXlate e .store a
  let s ← eState
  if e.dhFault a bs.length p then eFault 0x1A
  else if regionOf p.pa == .fabric then
    for (o, m) in chunksOf bs.length do
      match ← eFabric e.asker.tenant (a + BitVec.ofNat 64 o) (p.pa + o) (.write ((bs.drop o).take m)) with
      | .data _ => pure ()
      | .fail c => eFault c
  else if regionOf p.pa == .window then
    let c := s.getCore (windowCore p.pa)
    let computing := match s.ctxOf e.who with
      | some k => k.phase == 1
      | none => false
    if !p.own && computing then eFault 0x0E
    else if c.holding && !p.own then eStop .held
    else if !p.own && c.id != e.who.core && c.computing then
      eMod fun s => s.modCore c.id fun c => { c with discards := c.discards + 1 }
    else eMod fun s => s.poke p.pa bs
  else if s.inStep p.pa bs.length then eStop .held
  else match s.putBytes e.who e.task a p.pa bs e.gone with
    | .ok s' => eMod fun _ => s'
    | .error _ => eFault 0x14

def eWrite (e : Eng) (va : Word) (bs : List Byte) : E Unit := do
  for (a, m) in spans va bs.length do
    eWriteSpan e a ((bs.drop (a - va).toNat).take m)

/-! ## Commands -/

/-- The command as its engine sees it. A PRIMAL command runs as in FWD mode (R316). -/
def State.engOf (s : State) (c : Cmd) : Eng where
  who := c.who
  task := c.task
  gone := match s.ctxOf c.who with
    | some k => k.task.isNone
    | none => true
  asker := ⟨some c.who.core, clusterOf c.who.core, c.tenant, c.user, false⟩
  mode := if c.primal then .fwd else c.mode
  regions := c.regions

/-- Adds a command of the strand in hand, with its token pending (R167, R344), and the act that carries it out. -/
def State.issue (s : State) (t : BitVec 5) (kind : CmdKind) (foot : List Foot) (act : Nat → Act) (cycle : Option Nat := none) : State :=
  let k := s.ctx
  let c : Cmd := ⟨s.nextCmd, s.who, t, kind, k.isUser, s.tenant, k.diffMode, k.modPrimal, k.regions, k.satBit, s.stagedTask k.task, foot,
    [], none, 0, 0⟩
  let s := { s with cmds := s.cmds ++ [c], nextCmd := s.nextCmd + 1 }
  let s := s.mapCtx fun k => { k with pend := k.pend ||| (1#32 <<< t.toNat) }
  s.enqueue (act c.id) cycle

def State.cmd? (s : State) (id : Nat) : Option Cmd := s.cmds.find? (·.id == id)

/-- A command has completed: its token lands. -/
def State.finish (s : State) (c : Cmd) (v : Word) : State :=
  ({ s with cmds := s.cmds.filter (·.id != c.id) }.landToken c.who c.token v).settle c.who.core

/-- An error record (R168). -/
def errorRecord (cause : BitVec 8) (low : Nat) : Word := 1#1 ++ 0#7 ++ cause ++ BitVec.ofNat 48 low

/-- Issues the fabric request that a command needs next (R350); where no tag is free, or requests are held
(R363), the command tries again. -/
def State.issueFor (s : State) (c : Cmd) (act : Act) (va : Word) (pa : Nat) (op : RemoteOp) : State :=
  if s.held then s.enqueue act
  else match s.freeTag with
    | none => s.enqueue act
    | some tag =>
      let s := s.request tag ⟨c.who, va, op.len, 0, .command c.id⟩ (s.accessPacket c.tenant 0 tag pa op)
      { s with cmds := s.cmds.map fun d => if d.id = c.id then { d with tag := some tag } else d }

/-- The act that carries a command out. -/
def Cmd.act (c : Cmd) : Act :=
  match c.kind with
  | .copy .. | .copy2d .. | .gather .. | .scatter .. => .copyComplete c.id
  | .xpose => .transposeExchangeComplete (clusterOf c.who.core)
  | .updt _ => .updtComplete c.id
  | .fmt _ => .fmtComplete c.id
  | .rkload .. => .rkloadComplete c.id
  | .rkrun .. => .rankProgramComplete c.id
  | .smode w => .modeSwitchComplete (w.extractLsb' 0 4)
  | .coll => .collComplete c.id

/-! ## The order of a strand's commands (R268) -/

/-- The physical bytes of a stretch of a footprint; a page that does not translate has none. -/
def State.footBytes (s : State) (q : Asker) : Foot → List (Nat × Nat)
  | .pa a n => (spans (BitVec.ofNat 64 a) n).map fun x => (canon x.1.toNat, x.2)
  | .va a n => (spans a n).filterMap fun x => (s.placeOf? q x.1).map fun p => (if s.foreign p then p.pa else canon p.pa, x.2)

/-- Do two stretches share a byte? -/
def sharesByte (a b : Nat × Nat) : Bool := decide (a.1 < b.1 + b.2) && decide (b.1 < a.1 + a.2)

/-- The list of a GATHER or a SCATTER, its entries as they stand, and the bytes of each element (R166). -/
def State.listFoot (s : State) (c : Cmd) : List Foot :=
  let at' (l : Word) (n count : Nat) : List Foot := (List.range count).map fun i =>
    .va (BitVec.ofNat 64 (natOfBytes (s.mem.readBytes (localPa c.who.core (l.toNat + 8 * i)) 8))) n
  match c.kind with
  | .gather _ l n count _ => at' l n count
  | .scatter l _ n count => at' l n count
  | _ => []

/-- Every byte that a command may read or write, by its address. -/
def State.footprint (s : State) (c : Cmd) : List (Nat × Nat) :=
  let q : Asker := ⟨some c.who.core, clusterOf c.who.core, c.tenant, c.user, false⟩
  (c.foot ++ s.listFoot c).flatMap (s.footBytes q)

/-- Does an outstanding command of a strand share one of these bytes? -/
def State.footBusy (s : State) (w : Who) (mine : List (Nat × Nat)) (earlier : Cmd → Bool) : Bool :=
  s.cmds.any fun d => earlier d && d.who == w && (s.footprint d).any fun a => mine.any fun b => sharesByte a b

/-- May a command's accesses be performed: every earlier command of the strand that shares a byte of its footprint is
complete (R268), and so is every earlier store of the strand that has left for another package (R169). -/
def State.cmdTurn (s : State) (c : Cmd) : Bool :=
  !(s.footBusy c.who (s.footprint c) fun d => decide (d.id < c.id))
    && !(s.fabric.reqs.any fun r => r.2.who == c.who && r.2.use == .posted && c.foot.any fun f => match f with
      | .va a n => sharesByte (r.2.va.toNat, r.2.len) (a.toNat, n)
      | .pa .. => false)

/-- Carries out a command's work: it completes with the state and the token's value that the work leaves, or
is taken up again. -/
def State.carryOut (s : State) (id : Nat) (act : Act) (work : Cmd → E Word) : State :=
  match s.cmd? id with
  | none => s
  | some c =>
    if c.tag.isSome then s
    else if !s.cmdTurn c then s.enqueue act
    else match work c (s, c.got) with
      | .ok (v, (s', _)) => s'.finish c v
      | .error (.fault cause) => s.finish c (errorRecord cause 0)
      | .error (.issue va pa op) => s.issueFor c act va pa op
      | .error .held => s.enqueue act

end Sys2Proof.Machine
end

