-- ==== Sys2Proof/Machine/Copy.lean ====
section
/-! DEFINITION. Copies, OP 28 (R166 to R169): the checks at retirement, and the copy unit, which moves one element
in each of its acts. -/

namespace Sys2Proof.Machine

/-! ## Elements (R166, R168) -/

def CmdKind.isCopy : CmdKind → Bool
  | .copy .. | .copy2d .. | .gather .. | .scatter .. => true
  | _ => false

def CmdKind.full : CmdKind → Bool
  | .copy _ _ _ f | .copy2d _ _ _ _ _ _ f | .gather _ _ _ _ f => f
  | _ => false

/-- Bytes of the first block of a COPY: up to the next multiple of 64 of the destination. -/
def firstBlock (dst : Word) (n : Nat) : Nat := min n (64 - dst.toNat % 64)

/-- The number of elements. -/
def CmdKind.count : CmdKind → Nat
  | .copy dst _ n _ => 1 + (n - firstBlock dst n + 63) / 64
  | .copy2d _ _ _ rows _ _ _ => rows
  | .gather _ _ _ count _ => count
  | .scatter _ _ _ count => count
  | _ => 0

/-- Destination, source and bytes of element i; the list's entry is read from the core's local memory. -/
def CmdKind.elem (k : CmdKind) (entry : Nat → Word) (i : Nat) : Word × Word × Nat :=
  match k with
  | .copy dst src n _ =>
    let o := if i = 0 then 0 else firstBlock dst n + 64 * (i - 1)
    let m := if i = 0 then firstBlock dst n else min 64 (n - o)
    (dst + BitVec.ofNat 64 o, src + BitVec.ofNat 64 o, m)
  | .copy2d dst src row _ ss ds _ => (dst + BitVec.ofNat 64 (16 * i * ds), src + BitVec.ofNat 64 (16 * i * ss), row)
  | .gather dst _ n _ _ => (dst + BitVec.ofNat 64 (i * n), entry i, n)
  | .scatter _ src n _ => (entry i, src + BitVec.ofNat 64 (i * n), n)
  | _ => (0, 0, 0)

/-- Entry i of a list. -/
def State.listEntry (s : State) (id : CoreId) (k : CmdKind) (i : Nat) : Word :=
  let a := match k with
    | .gather _ l _ _ _ => l.toNat
    | .scatter l _ _ _ => l.toNat
    | _ => 0
  BitVec.ofNat 64 (natOfBytes (s.mem.readBytes (localPa id (a + 8 * i)) 8))

/-- The addresses that a COPY or COPY2D reads and writes, row by row. -/
def CmdKind.rows : CmdKind → List (Word × Nat)
  | .copy dst src n _ => [(dst, n), (src, n)]
  | .copy2d dst src row rows ss ds _ =>
    (List.range rows).flatMap fun r => [(dst + BitVec.ofNat 64 (16 * r * ds), row), (src + BitVec.ofNat 64 (16 * r * ss), row)]
  | _ => []

/-- The destination ranges of a command with F. -/
def CmdKind.dests : CmdKind → List (Word × Nat)
  | .copy dst _ n _ => [(dst, n)]
  | .copy2d dst _ row rows _ ds _ => (List.range rows).map fun r => (dst + BitVec.ofNat 64 (16 * r * ds), row)
  | .gather dst _ n count _ => [(dst, n * count)]
  | _ => []

/-- The footprint of a copy but for the elements that a list names (R166). -/
def CmdKind.copyFoot : CmdKind → List Foot
  | .gather dst l n count _ => [.va dst (n * count), .va l (8 * count)]
  | .scatter l src n count => [.va l (8 * count), .va src (n * count)]
  | k => k.rows.map fun r => .va r.1 r.2

/-! ## The checks (R167) -/

/-- The lowest of some addresses that lies outside local memory. -/
def lowestOutside (rs : List (Word × Nat)) : Option Nat :=
  rs.foldl (fun best r =>
    if 0xC000 < r.1.toNat + r.2 then
      let a := max r.1.toNat 0xC000
      match best with
      | none => some a
      | some b => some (min a b)
    else best) none

/-- The lowest address of some ranges that lies in a declared region. -/
def lowestRegion (regions : List (Nat × Nat)) (rs : List (Word × Nat)) : Option Nat :=
  rs.foldl (fun best r =>
    match firstOverlap regions r.1.toNat r.2, best with
    | none, b => b
    | some a, none => some a
    | some a, some b => some (min a b)) none

/-- Cause 0x12 of an engine command of a strand in REV mode without PRIMAL (R316). -/
def revCheck (rs : List (Word × Nat)) : M Unit := do
  let k ← ctx
  if k.diffMode == .rev && !k.modPrimal then
    match lowestRegion k.regions rs with
    | some a => trap 0x12 (BitVec.ofNat 64 a)
    | none => pure ()

/-- A copy past its operands: `shape` says whether the shape is in range, `list` is the list's address and
length, and `traced` the address that its trace entry gives. -/
def copyIssue (word : Word) (t : BitVec 5) (kind : CmdKind) (shape : Bool) (list : Option (Word × Nat)) (traced : Word) : M Flow := do
  guardTrap shape 0x01 word
  match list with
  | some (l, n) =>
    guardTrap (l.toNat % 8 == 0) 0x03 l
    match lowestOutside [(l, 8 * n)] with
    | some a => trap 0x1A (BitVec.ofNat 64 a)
    | none => pure ()
  | none => pure ()
  if kind.full then
    match lowestOutside kind.dests with
    | some a => trap 0x1A (BitVec.ofNat 64 a)
    | none => pure ()
  revCheck kind.rows
  let s ← get
  if 16 ≤ s.cmds.countP (fun c => c.who.core == s.core.id && c.kind.isCopy) then wait
  traceCommandVa traced
  modify fun s => s.issue t kind kind.copyFoot fun id => .copyComplete id
  next

def execCopy (t : BitVec 5) (a b : Opnd) (f : Bool) (s : State) : Host.Outcome State Fault Refusal :=
  unit (do
    let x ← src a
    let y ← src b
    let z ← src (.x t)
    copyIssue (wordOf (.copy t a b f)) t (.copy x y z.toNat f) (decide (1 ≤ z.toNat) && decide (z.toNat ≤ 2 ^ 24)) none y) s

def execCopy2d (t : BitVec 5) (a b : Opnd) (f : Bool) (s : State) : Host.Outcome State Fault Refusal :=
  unit (do
    let x ← src a
    let y ← src b
    let z ← src (.x t)
    let row := (z.extractLsb' 0 16).toNat
    let rows := (z.extractLsb' 16 16).toNat
    let ds := (z.extractLsb' 48 16).toNat
    let ok := row != 0 && rows != 0 && (rows == 1 || decide (row ≤ 16 * ds))
    copyIssue (wordOf (.copy2d t a b f)) t (.copy2d x y row rows (z.extractLsb' 32 16).toNat ds f) ok none y) s

/-- Element bytes, count, and whether the shape of GATHER and SCATTER is in range. -/
def listShape (z : Word) : Nat × Nat × Bool :=
  let n := (z.extractLsb' 0 16).toNat
  let count := (z.extractLsb' 16 16).toNat
  (n, count, z.extractLsb' 32 32 == 0 && decide (1 ≤ n) && decide (n ≤ 4096) && decide (1 ≤ count) && decide (count ≤ 4096))

def execGather (t : BitVec 5) (a b : Opnd) (f : Bool) (s : State) : Host.Outcome State Fault Refusal :=
  unit (do
    let x ← src a
    let y ← src b
    let z ← src (.x t)
    let (n, count, ok) := listShape z
    copyIssue (wordOf (.gather t a b f)) t (.gather x y n count f) ok (some (y, count)) y) s

def execScatter (t : BitVec 5) (a b : Opnd) (s : State) : Host.Outcome State Fault Refusal :=
  unit (do
    let x ← src a
    let y ← src b
    let z ← src (.x t)
    let (n, count, ok) := listShape z
    copyIssue (wordOf (.scatter t a b)) t (.scatter x y n count) ok (some (x, count)) y) s

/-! ## The copy unit (R168) -/

/-- An element is split at the 512-byte boundaries of its destination (R350): offsets and bytes. -/
def destPieces (dst : Word) (m : Nat) : List (Nat × Nat) :=
  let phase := dst.toNat % 512
  (List.range ((phase + m + 511) / 512)).filterMap fun i =>
    let lo := 512 * i - phase
    let hi := min m (512 * (i + 1) - phase)
    if lo < hi then some (lo, hi - lo) else none

/-- Moves the first m bytes of an element. -/
def moveBytes (e : Eng) (dst src : Word) (m : Nat) : E Unit := do
  let mut bs : List Byte := []
  for (o, n) in destPieces dst m do bs := bs ++ (← eRead e (src + BitVec.ofNat 64 o) n)
  for (o, n) in destPieces dst m do eWrite e (dst + BitVec.ofNat 64 o) ((bs.drop o).take n)

/-- One element: refused in a reverse-mode region, else read and written. -/
def moveElem (e : Eng) (dst src : Word) (n : Nat) : E Unit := do
  if e.revFault dst n || e.revFault src n then eFault 0x12
  moveBytes e dst src n

/-- Of an element that meets a fault, bytes may or may not be written: a prefix of free length is, where its own
accesses are met by no fault. -/
def State.partElem (s : State) (e : Eng) (dst src : Word) (n : Nat) : State :=
  if e.revFault dst n || e.revFault src n then s
  else match moveBytes e dst src (Config.pick s.tick % n) (s, []) with
    | .ok (_, (s', _)) => s'.drawn
    | .error _ => s.drawn

/-- Sets the lines whose every byte of the command is written once an element is: those before the line of the
next element. -/
def Core.fillLines (c : Core) (dst : Word) (n : Nat) (nextDst : Option Word) : Core :=
  let first := dst.toNat / 128
  let last := (dst.toNat + n - 1) / 128
  let stop := match nextDst with
    | some d => min (last + 1) (d.toNat / 128)
    | none => last + 1
  c.setLines true first (stop - first)

/-- The elements that the copy unit moves together: one, but the blocks of a COPY whose destination or source lies in
fabric space up to the next 512-byte boundary of the destination, which travel as one packet (R350). -/
def State.together (s : State) (c : Cmd) : Nat :=
  match c.kind with
  | .copy dst src n _ =>
    let q : Asker := ⟨some c.who.core, clusterOf c.who.core, c.tenant, c.user, false⟩
    let o := if c.step = 0 then 0 else firstBlock dst n + 64 * (c.step - 1)
    let far (a : Word) : Bool := match s.placeOf? q (a + BitVec.ofNat 64 o) with
      | some p => regionOf p.pa == .fabric
      | none => false
    if far dst || far src then min (c.kind.count - c.step) ((512 - (dst.toNat + o) % 512 + 63) / 64) else 1
  | _ => 1

/-- Destination, source and bytes of what is moved together. -/
def State.nextElem (s : State) (c : Cmd) : Word × Word × Nat :=
  let (dst, src, n) := c.kind.elem (s.listEntry c.who.core c.kind) c.step
  match c.kind with
  | .copy .. => (dst, src, ((List.range (s.together c)).map fun i => (c.kind.elem (s.listEntry c.who.core c.kind) (c.step + i)).2.2).sum)
  | _ => (dst, src, n)

/-- Elements of a command are complete: n bytes from dst on. -/
def State.elemDone (s : State) (c : Cmd) (m : Nat) (dst : Word) (n : Nat) : State :=
  let i := c.step + m
  let more := i < c.kind.count
  let nextDst := if more then some (c.kind.elem (s.listEntry c.who.core c.kind) i).1 else none
  let s := if c.kind.full then s.modCore c.who.core fun k => k.fillLines dst n nextDst else s
  if more then
    ({ s with cmds := s.cmds.map fun (d : Cmd) => if d.id = c.id then { d with step := i, moved := c.moved + n, got := [] } else d }).enqueue (.copyComplete c.id)
  else s.finish c (BitVec.ofNat 64 (c.moved + n))

/-- Does the list's entry for the next element meet an uncorrectable error (R168, R247)? -/
def State.listFails (s : State) (c : Cmd) : Bool :=
  match c.kind with
  | .gather _ l _ _ _ => s.failing (localPa c.who.core (l.toNat + 8 * c.step)) 8
  | .scatter l _ _ _ => s.failing (localPa c.who.core (l.toNat + 8 * c.step)) 8
  | _ => false

/-- The act COPY_COMPLETE: the next element of a copy, and after the last one the token. -/
def execCopyComplete (s : State) : Host.Outcome State Fault Refusal :=
  match s.due with
  | ⟨.copyComplete id, _⟩ :: rest =>
    let s' := { s with due := rest }
    match s.cmd? id with
    | none => .next s'
    | some c =>
      if c.tag.isSome then .next s'
      else if !s.cmdTurn c then .next s
      else if s.listFails c then .next (s'.finish c (errorRecord 0x0A c.moved))
      else
        let e := s.engOf c
        let (dst, src, n) := s.nextElem c
        match moveElem e dst src n (s', c.got) with
        | .ok (_, (s1, _)) => .next (s1.elemDone c (s.together c) dst n)
        | .error (.fault cause) => .next ((s'.partElem e dst src n).finish c (errorRecord cause c.moved))
        | .error (.issue va pa op) => .next (s'.issueFor c (.copyComplete id) va pa op)
        | .error .held => .next s
  | _ => .next s

end Sys2Proof.Machine
end

