-- ==== Sys2Proof/Machine/Hints.lean ====
section
/-! DEFINITION. Which hints an instruction accepts (R50 to R52 and each family's rule), the misuses of
R49, and the binding of a hint word (R48). -/

namespace Sys2Proof.Machine

/-- OPs 2 to 7 (R50). -/
def acceptsImm : Instr → Bool
  | .addi .. | .andi .. | .ori .. | .xori .. | .slti .. | .sltiu .. => true
  | _ => false

/-- RM of HINT.MOD (R52, R104, R123, R196). -/
def acceptsRm : Instr → Bool
  | .fadd .. | .fsub .. | .fmul .. | .fma .. | .fdiv .. | .fsqrt .. | .fcvt .. => true
  | .vadd _ _ _ _ t | .vsub _ _ _ _ t | .vmul _ _ _ _ t | .vfma _ _ _ _ t | .vrsum _ _ _ t | .vscan _ _ _ t => !t.isInt
  | .vexp2 .. | .vrcp .. | .vrsq .. | .vlog2 .. | .vcvt .. => true
  | .mst _ _ _ _ f _ => f
  | .madd _ _ _ i => !i
  | _ => false

/-- SAT of HINT.MOD (R52, R104, R123, R196). -/
def acceptsSat : Instr → Bool
  | .fcvt .. => true
  | .vadd _ _ _ _ t | .vsub _ _ _ _ t | .vmul _ _ _ _ t | .vfma _ _ _ _ t | .vscan _ _ _ t => !t.isInt
  | .vrsum .. | .vexp2 .. | .vrcp .. | .vrsq .. | .vlog2 .. | .vcvt .. => true
  | .mst _ _ _ _ f _ => f
  | _ => false

/-- PRIMAL of HINT.MOD (R52, R196, R345, R358). -/
def acceptsPrimal : Instr → Bool
  | .copy .. | .copy2d .. | .gather .. | .scatter .. | .xpose .. | .coll .. => true
  | .updt .. | .fmt .. | .rkload .. | .rkrun .. | .smode .. => true
  | .mm .. | .mms .. | .mmg .. | .mldw .. | .mld .. | .mcb .. | .mst .. | .mscale .. => true
  | _ => false

/-- CP of HINT.MOD (R52 and each family's rule). -/
def acceptsCp : Instr → Bool
  | .ld .. | .st .. | .lda .. | .stl .. | .ldbit .. | .stbit .. => true
  | .aadd .. | .amin .. | .amax .. | .aand .. | .aor .. | .axor .. | .aswp .. | .acas .. | .abadd .. => true
  | .redadd .. | .redmin .. | .redmax .. | .rwlr .. | .rwlw .. | .rwur .. | .rwuw .. => true
  | .copy .. | .copy2d .. | .gather .. | .scatter .. => true
  | .vld .. | .vst .. | .vldx .. | .vstx .. | .vldbit .. | .vstbit .. | .vaadd .. | .vaor .. | .vamax .. | .vredadd .. => true
  | .mldw .. | .mld .. | .mcb .. | .mst .. | .mscale .. => true
  | .xtab .. | .stdecl .. | .tspawn .. | .ldadj .. | .stadj .. | .accadj .. => true
  | .updt .. | .fmt .. | .rkload .. | .rkrun .. | .smode .. => true
  | _ => false

/-- Does the hint itself misuse its encoding: kind 0b11, a reserved field set (R49 to R52)? -/
def hintFieldsOk (w : BitVec 32) : Bool :=
  match decHint w with
  | some _ => true
  | none => false

/-- May a HINT.MOD with these PRIMAL and CP fields stand before an instruction at all? Some families take none (R199, R221,
R264, R275, R280, R288, R306, R358); before XPOSE and COLL one must carry PRIMAL, and before XTAB, STDECL and TSPAWN CP: one
that carries nothing is no such hint there (log entry 93). -/
def admitsMod (i : Instr) (p : Bool) (c : CachePol) : Bool :=
  match i with
  | .send .. | .sendm .. | .launch .. | .wait .. | .waitany .. | .ctrset .. | .ctradd .. => false
  | .gang .. | .gjoin .. | .gleave .. | .grejoin .. | .xptab .. => false
  | .fence .. => false
  | .hreg .. | .harr .. | .hwait .. | .hsync .. | .hdarr .. | .hdrop .. => false
  | .xsend .. | .sstep .. => false
  | .stdeclFree .. | .tret .. | .tabort .. => false
  | .dmode .. | .dregset .. => false
  | .dombar .. | .fstat .. => false
  | .xpose .. | .coll .. => p
  | .xtab .. | .stdecl .. | .tspawn .. => c != .default
  | _ => true

/-- Does a target accept a hint (R49 to R52)? -/
def acceptsHint (i : Instr) (h : Instr) : Bool :=
  match h with
  | .hintImm _ => acceptsImm i
  | .hintMod m s p c =>
    admitsMod i p c && (m.isNone || acceptsRm i) && (!s || acceptsSat i) && (!p || acceptsPrimal i)
      && (c == .default || acceptsCp i)
  | _ => true

/-- The hint word at an address is the last word of an active loop's body (R49). -/
def Ctx.endsBody (k : Ctx) (a : Word) : Bool :=
  (k.loops[0].active && k.loops[0].last == a) || (k.loops[1].active && k.loops[1].last == a)

/-- The first misused hint word of a run, before a target that is legal (R49). -/
def hintMisuseFrom (k : Ctx) (i : Instr) : Nat → List (BitVec 32) → List (BitVec 32) → Option (BitVec 32)
  | _, _, [] => none
  | n, seen, w :: rest =>
    let ok := match decHint w with
      | some h => acceptsHint i h
      | none => false
    if !ok || 2 ≤ n || seen.any (fun u => u.extractLsb' 24 2 == w.extractLsb' 24 2) || k.endsBody (k.pc + BitVec.ofNat 64 (4 * n)) then some w
    else hintMisuseFrom k i (n + 1) (seen ++ [w]) rest

/-- The first misused hint of the unit in hand, whose target is i. -/
def Ctx.hintMisuse (k : Ctx) (i : Instr) : Option (BitVec 32) := hintMisuseFrom k i 0 [] k.hints

/-- Binds a hint word to the next word (R48): it takes effect with its target, and is judged there (R49). -/
def bindHint (w : BitVec 32) (s : State) : State := s.mapCtx fun k => { k with hints := k.hints ++ [w] }

end Sys2Proof.Machine
end

