-- ==== Sys2Proof/Machine/HuddleOps.lean ====
section
/-! DEFINITION. The huddle engine (R273, R274, R276 to R278): registrations, arrivals, drops, and the
completion of a phase. -/

namespace Sys2Proof.Machine

def huddleDie (h : BitVec 12) : BitVec 2 := h.extractLsb' 10 2
def huddleNo (h : BitVec 12) : Nat := (h.extractLsb' 0 10).toNat

def State.huddle (s : State) (h : BitVec 12) : Huddle := (s.die (huddleDie h)).huddles.get (huddleNo h) Huddle.reset
def State.setHuddle (s : State) (h : BitVec 12) (g : Huddle) : State :=
  let d := s.die (huddleDie h)
  s.setDie (huddleDie h) { d with huddles := d.huddles.set (huddleNo h) g }

/-- Is the huddle VALID and the tenant's (R274)? -/
def State.ownsHuddle (s : State) (h : BitVec 12) (tenant : BitVec 6) : Bool := ownsByte (s.hown.get h.toNat 0) tenant

/-- The registration of a context. -/
def Huddle.member (g : Huddle) (w : Who) : Option HReg := g.regs.find? (·.who == w)
def Huddle.modMember (g : Huddle) (w : Who) (f : HReg → HReg) : Huddle :=
  { g with regs := g.regs.map fun r => if r.who = w then f r else r }

/-- Registrations that the context holds on every huddle, and those on the huddles of a die (R273). -/
def State.registrations (s : State) (w : Who) : Nat :=
  s.dies.foldl (fun n d => n + d.2.huddles.foldl (fun n g => n + g.2.regs.countP (·.who == w)) 0) 0
def State.dieRegistrations (s : State) (d : BitVec 2) : Nat :=
  (s.die d).huddles.foldl (fun n g => n + g.2.regs.length) 0

/-- A registration in a mode; a signalling member counts in the current phase. -/
def Huddle.register (g : Huddle) (w : Who) (mode : BitVec 2) : Huddle :=
  { g with
    regs := g.regs ++ [⟨w, mode, false, false, 0, none, 0⟩]
    expect := if mode = 2 then g.expect else g.expect + 1 }

/-- A member arrives in the current phase. -/
def Huddle.arrive (g : Huddle) (w : Who) : Huddle :=
  { g.modMember w (fun r => { r with arr := true, ap := g.phase }) with arrived := g.arrived + 1 }

/-- A member drops: one that has not arrived lowers EXPECT at once, one that has, from the next phase on. -/
def Huddle.drop (g : Huddle) (w : Who) : Huddle :=
  match g.member w with
  | none => g
  | some r =>
    let g := { g with regs := g.regs.filter (·.who != w) }
    if r.mode = 2 then g
    else if r.arr then { g with leaving := g.leaving + 1 }
    else { g with expect := g.expect - 1 }

/-- Does the member wait on this huddle in its front slot? -/
def State.waitsAt (s : State) (h : BitVec 12) (w : Who) : Bool :=
  let k := (s.getCore w.core).front
  k.self == w.ctx && k.life == .live && (match k.progress with
    | .barrier _ h' _ => h' == h
    | _ => false)

/-- Cycles from a phase's completion to the release (R278). -/
def Huddle.delay (g : Huddle) (h : BitVec 12) : Nat :=
  if g.regs.all fun r => dieOf r.who.core == huddleDie h then 48 else 320

/-- Does a member wait for this phase of the huddle, wherever its context stands: in an HWAIT for one that it reaches, or in
another instruction for any (R276)? -/
def State.awaits (s : State) (h : BitVec 12) (r : HReg) (phase : BitVec 32) : Bool :=
  match s.ctxOf r.who with
  | some k => match k.progress with
    | .barrier i h' _ => h' == h && (match i with
        | .hwait .. => reaches phase r.goal
        | _ => true)
    | _ => false
  | none => false

/-- The completion test, once all of a cycle's updates are made (R277): the phase advances, and those that wait for it are
held until their release, which is due (R276, R278). -/
def State.testHuddle (s : State) (h : BitVec 12) : State :=
  let g := s.huddle h
  if g.arrived = g.expect ∧ 0 < g.expect then
    let t := s.cycle.toNat + g.delay h
    let regs := g.regs.map fun r => { r with
      arr := false
      held := if r.held.isNone && s.awaits h r (g.phase + 1) then some t else r.held }
    let s := s.setHuddle h { phase := g.phase + 1, expect := g.expect - g.leaving, arrived := 0, leaving := 0, regs := regs }
    s.enqueue (.huddleRelease (huddleDie h) (h.extractLsb' 0 10)) (some t)
  else s

/-- Every huddle that is listed. -/
def State.huddleIds (s : State) : List (BitVec 12) :=
  s.dies.flatMap fun d => d.2.huddles.map fun g => BitVec.ofNat 2 d.1 ++ BitVec.ofNat 10 g.1

/-- The tests that end a cycle, where it is over. -/
def State.testHuddles (s : State) (ended : Bool := true) : State := s.huddleIds.foldl (fun s h => if ended then s.testHuddle h else s) s

/-- Drops every registration of a context (R276: HALT, and a fatal trap after its dump). -/
def State.dropAll (s : State) (w : Who) : State :=
  let ids : List (BitVec 12) := s.dies.flatMap fun d => (d.2.huddles.filter fun g => (g.2.member w).isSome).map
    fun g => BitVec.ofNat 2 d.1 ++ BitVec.ofNat 10 g.1
  ids.foldl (fun s h => s.setHuddle h ((s.huddle h).drop w)) s

end Sys2Proof.Machine
end

