-- ==== Sys2Proof/Machine/Sched.lean ====
section
/-! DEFINITION. The Work Scheduler (R286 to R299): descriptors, spawning, producer counts, the assignment of
cores, placement, expert residency, and the ends of a task. -/

namespace Sys2Proof.Machine

/-! ## The fields of a stage (R286) -/

def Stage.clLo (g : Stage) : Nat := (g.conf.extractLsb' 0 7).toNat
def Stage.clHi (g : Stage) : Nat := (g.conf.extractLsb' 8 7).toNat
def Stage.depth (g : Stage) : Nat := if g.conf.extractLsb' 16 2 = 0 then 16 else if g.conf.extractLsb' 16 2 = 1 then 64 else 256
def Stage.stream (g : Stage) : Bool := g.conf.getLsbD 18
def Stage.resident (g : Stage) : Nat := (g.conf.extractLsb' 19 6).toNat
def Stage.exp (g : Stage) : Bool := g.conf.getLsbD 26
def Stage.kl (g : Stage) : Bool := g.conf.getLsbD 27
def Stage.minCores (g : Stage) : Nat := (g.limits.extractLsb' 0 16).toNat
def Stage.maxCores (g : Stage) : Nat := (g.limits.extractLsb' 16 16).toNat
def Stage.hiThr (g : Stage) : Nat := (g.limits.extractLsb' 32 16).toNat
def Stage.loThr (g : Stage) : Nat := (g.limits.extractLsb' 48 16).toNat

/-- Is a stage descriptor's every field in range and every reserved bit 0 (R286)? -/
def stageOk (bs : List Byte) : Bool :=
  let entry := dwordAt bs 0
  let conf := dwordAt bs 8
  let limits := dwordAt bs 16
  let sbuf := dwordAt bs 32
  let stream := conf.getLsbD 18
  let res := conf.extractLsb' 19 6
  entry.extractLsb' 0 2 == 0
    && conf.getLsbD 7 == false && conf.getLsbD 15 == false && conf.extractLsb' 28 36 == 0
    && decide ((conf.extractLsb' 0 7).toNat ≤ (conf.extractLsb' 8 7).toNat)
    && conf.extractLsb' 16 2 != 3
    && (if stream then res != 0 else res == 0)
    && (conf.getLsbD 26 || limits == 0)
    && (if stream then sbuf.toNat % 128 == 0 && decide (sbuf.toNat < 0xC000) else sbuf == 0)
    && dwordAt bs 40 == 0 && dwordAt bs 48 == 0 && dwordAt bs 56 == 0

/-- Footprint f of a task descriptor. -/
def footAt (bs : List Byte) (f : Nat) : Footprint :=
  let l := dwordAt bs (0x28 + 16 * f)
  ⟨dwordAt bs (0x20 + 16 * f), (l.extractLsb' 0 40).toNat, l.getLsbD 40⟩

/-- Reserved bits, NFP and the footprints of a task descriptor (R287, R290). -/
def taskOk (bs : List Byte) : Bool :=
  let head := dwordAt bs 0
  let nfp := (head.extractLsb' 8 3).toNat
  let ex := head.extractLsb' 32 16
  head.extractLsb' 4 4 == 0 && head.extractLsb' 11 5 == 0 && head.extractLsb' 48 16 == 0 && decide (nfp ≤ 4)
    && (decide (ex.toNat < 256) || ex == 0xFFFF) && dwordAt bs 0x18 == 0
    && (List.range 4).all fun f =>
      let b := dwordAt bs (0x20 + 16 * f)
      let l := dwordAt bs (0x28 + 16 * f)
      if f < nfp then l.extractLsb' 41 23 == 0 && l.extractLsb' 0 40 != 0 && decide (0x10000 ≤ b.toNat) && decide (b.toNat + (l.extractLsb' 0 40).toNat ≤ 2 ^ 64)
      else b == 0 && l == 0

/-! ## Stages and tasks of a die -/

def State.stageAt (s : State) (d : BitVec 2) (n : Nat) : Option Stage := (s.die d).stages.find? n
def State.modStage (s : State) (d : BitVec 2) (n : Nat) (f : Stage → Stage) : State :=
  match s.stageAt d n with
  | some g => s.setDie d { s.die d with stages := (s.die d).stages.set n (f g) }
  | none => s
def State.modTask (s : State) (t : TaskRef) (f : Task → Task) : State :=
  s.modStage t.die t.stage.toNat fun g => match g.tasks.find? t.slot.toNat with
    | some k => { g with tasks := g.tasks.set t.slot.toNat (f k) }
    | none => g

/-- Tasks in flight on a die (R290). -/
def State.inFlight (s : State) (d : BitVec 2) : Nat := (s.die d).stages.foldl (fun n g => n + g.2.tasks.length) 0

/-- Do two footprints overlap in a byte, with one of them written (R291)? -/
def footsClash (a b : Footprint) : Bool :=
  (a.write || b.write) && decide (a.base.toNat < b.base.toNat + b.len) && decide (b.base.toNat < a.base.toNat + a.len)

/-- The producers of a task: earlier tasks of the die and tenant that have not retired (R291). -/
def State.producers (s : State) (d : BitVec 2) (tenant : BitVec 6) (foots : List Footprint) : List Nat :=
  (s.die d).stages.flatMap fun g =>
    if g.2.tenant = tenant then
      g.2.tasks.filterMap fun t => if t.2.foots.any (fun a => foots.any (footsClash a)) then some t.2.order else none
    else []

/-- The lowest free slot of a stage's queue (which one is the model's choice); none where it is full. -/
def Stage.freeSlot (g : Stage) : Option Nat := (List.range g.depth).find? fun i => (g.tasks.find? i).isNone

/-- Enters a task into a stage's queue, and its task id (R290). The queue has room. -/
def State.spawn (s : State) (d : BitVec 2) (n : Nat) (expert : Option Nat) (extra : Nat) (arg1 arg2 : Word)
    (foots : List Footprint) (desc : Word) : State × Word :=
  match s.stageAt d n with
  | none => (s, 0)
  | some g =>
    let slot := (g.freeSlot).getD 0
    let gen := g.gens.get slot 0
    let preds := s.producers d g.tenant foots
    let t : Task := ⟨gen, if preds = [] ∧ extra = 0 then .ready else .waiting, (s.die d).spawned, preds, extra, expert, arg1, arg2, foots, desc, none⟩
    let s := s.setDie d { s.die d with spawned := (s.die d).spawned + 1 }
    let s := s.modStage d n fun g => { g with tasks := g.tasks.set slot t, gens := g.gens.set slot (gen + 1) }
    (s, 0#32 ++ gen ++ 0#4 ++ BitVec.ofNat 4 n ++ BitVec.ofNat 8 slot)

/-- A count that has fallen to 0 makes its task READY. -/
def Task.recount (t : Task) : Task :=
  if t.state = .waiting ∧ t.preds = [] ∧ t.extra = 0 then { t with state := .ready } else t

/-- Unpins the slices that a task pinned (R297). -/
def Stage.unpin (g : Stage) (t : Task) : Stage :=
  match t.expert with
  | none => g
  | some e =>
    let x := g.experts.get e ⟨.absent, []⟩
    if t.state = .running then { g with experts := g.experts.set e { x with pins := x.pins.map (· - 1) } } else g

/-- Every pin of a DRAINING expert is released: the expert is drained at once (R299). -/
def State.drainDue (s : State) (d : BitVec 2) (n : Nat) (t : Task) : State :=
  match t.expert, s.stageAt d n with
  | some e, some g =>
    let x := g.experts.get e ⟨.absent, []⟩
    if x.state = .draining ∧ x.pins.all (· == 0) then s.enqueue (.expertDrained d (BitVec.ofNat 4 n) e) else s
  | _, _ => s

/-- Placements that may be made: every stage with a READY task, on every core assigned to it that has an idle
slot and runs no task of the stage (R293). -/
def State.offer (s : State) (d : BitVec 2) : State :=
  (s.die d).assign.foldl (fun s a =>
    let id : CoreId := BitVec.ofNat 13 a.1
    let act := Act.taskPlacement d a.2 id
    let c := s.getCore id
    let ready := match s.stageAt d a.2.toNat with
      | some g => g.tasks.any (·.2.state == .ready)
      | none => false
    let runs := allPlaces.any fun p => match c.ctxAt p with
      | some k => (match k.task with
        | some t => t.stage == a.2
        | none => false)
      | none => false
    if ready && (c.front.life = .idle || (c.shadow.life = .idle && c.filling.isNone)) && !runs && !s.due.any (·.act == act) then s.enqueue act
    else s) s

/-- A task leaves its slot: retired or failed, it no longer counts as a producer (R291, R292). -/
def State.endTask (s : State) (t : TaskRef) (failed : Bool) : State :=
  match s.taskOf t with
  | none => s
  | some (_, k) =>
    let s := s.modStage t.die t.stage.toNat fun g =>
      let g := g.unpin k
      { g with tasks := g.tasks.erase t.slot.toNat, fails := if failed then g.fails + 1 else g.fails }
    let s := s.setDie t.die { s.die t.die with
      stages := (s.die t.die).stages.map fun g => (g.1, { g.2 with
        tasks := g.2.tasks.map fun u => (u.1, ({ u.2 with preds := u.2.preds.filter (· != k.order) }).recount) }) }
    (s.drainDue t.die t.stage.toNat k).offer t.die

/-- Discards the staged lines of a task context (R295). -/
def Core.dropStaged (c : Core) (owner : BitVec 32) : Core := { c with commit := c.commit.filter (·.owner != owner) }

/-- A task fails: HALT in it, a fatal trap, or a placement that cannot be made (R292, R295, R298). -/
def State.failTask (s : State) (w : Who) (t : TaskRef) : State :=
  (s.modCore w.core fun c => c.dropStaged w.ctx).endTask t true

/-- A task goes back to READY: TABORT or a forced swap (R295). -/
def State.requeueTask (s : State) (w : Who) (t : TaskRef) : State :=
  let s := s.modCore w.core fun c => c.dropStaged w.ctx
  let s := match s.taskOf t with
    | some (_, k) => s.modStage t.die t.stage.toNat fun g => g.unpin k
    | none => s
  let k? := (s.taskOf t).map Prod.snd
  let s := s.modTask t fun k => { k with state := .ready, avoid := some w.core }
  (match k? with
    | some k => s.drainDue t.die t.stage.toNat k
    | none => s).offer t.die

/-- The staged lines as the commit point publishes them, oldest first (R295). -/
def State.publish (s : State) (id : CoreId) (owner : BitVec 32) : State :=
  let ls := (s.getCore id).commit.filter (·.owner == owner)
  let s := ls.foldl (fun s l => (List.range 64).foldl (fun s i =>
    if l.mask.getLsbD i then s.poke (l.addr + i) [l.data.getD i 0] else s) s) s
  s.modCore id fun c => c.dropStaged owner

/-! ## Forced swaps of a task (R295, R318) -/

/-- Is the task of a context discarded by a forced swap? -/
def State.discards (s : State) (k : Ctx) : Bool :=
  match k.task with
  | none => false
  | some t => match s.taskOf t with
    | some (g, _) => !g.direct && k.mode == .fwd
    | none => false

/-- A forced swap (R213): a task that R295 discards leaves its core; its parked context is dropped once its
copies are complete, as TABORT waits for them. -/
def State.forceSwap (s : State) (id : CoreId) : State :=
  let k := (s.getCore id).front
  let gone := s.discards k
  let s := s.swap id
  let s :=
    if gone then (s.modCore id fun c => { c with shadow := { c.shadow with life := .draining } }).dropAll ⟨id, k.self⟩
    else s
  s.settle id

/-- The task of a context that a forced swap discarded, whose copies and commands are complete. -/
def State.dropped (s : State) (id : CoreId) (k : Ctx) : Option TaskRef :=
  if k.life = .draining && k.pend = 0 && !s.outstanding ⟨id, k.self⟩ then
    match k.task with
    | some t => match s.taskOf t with
      | some (_, u) => if u.state = .running then some t else none
      | none => none
    | none => none
  else none

/-- Requeues the task of a dropped context at a place. -/
def State.dropTask (s : State) (id : CoreId) (p : Place) : State :=
  match (s.getCore id).ctxAt p with
  | none => s
  | some k => match s.dropped id k with
    | none => s
    | some t => ((s.requeueTask ⟨id, k.self⟩ t).modCore id fun c => c.setCtx p { k with task := none }).settle id

/-- Requeues the tasks of a core's dropped contexts. -/
def State.dropTasks (s : State) (id : CoreId) : State := allPlaces.foldl (fun s p => s.dropTask id p) s

/-! ## Core assignment (R296) -/

/-- Occupancy: WAITING, READY, FILLING and RUNNING tasks. -/
def Stage.occupancy (g : Stage) : Nat := g.tasks.countP fun t => t.2.state != .committing

/-- May a stage take one more core, holding `have'` already? -/
def Stage.wantsCore (g : Stage) (have' : Nat) : Bool :=
  if g.exp then decide (have' < g.maxCores) && (decide (have' < g.occupancy) || decide (have' < g.minCores))
  else decide (have' < g.occupancy)

/-- Is an expert-level stage's occupancy at or above HITHR, or any other below LOTHR (R296)? -/
def Stage.isHigh (g : Stage) : Bool := g.exp && decide (g.hiThr ≤ g.occupancy)
def Stage.isLow (g : Stage) : Bool := g.exp && decide (g.occupancy < g.loThr)

/-- The one of two claims that a core goes to: MINCORES first, of the higher stage number, so that a shortage cuts shares
in ascending stage number; else the greater ratio of occupancy to cores held + 1, ties to the lower number (R296; the spec
fixes no rounding of the shares: log entry 20). -/
def claimRank (g : Stage) (n have' : Nat) : Nat :=
  if g.exp && decide (have' < g.minCores) then 2 ^ 60 + n else g.occupancy * 65536 / (have' + 1)

/-- Cores held so far by each stage. -/
def coresOf (a : Tab (BitVec 4)) (n : Nat) : Nat := a.countP fun e => e.2.toNat == n

/-- The strongest of some claims: rank and stage. -/
def strongest (cs : List (Nat × Nat × Stage)) : Option (Nat × Nat × Stage) :=
  cs.foldl (fun best c => match best with
    | some b => if b.1 < c.1 then some c else some b
    | none => some c) none

/-- Assigns one core, whose cluster is of a tenant. A core that would go to a stage below LOTHR goes to one at or above
HITHR, where there is one (R296). -/
def assignOne (stages : Tab Stage) (tenant : BitVec 6) (a : Tab (BitVec 4)) (id : CoreId) : Tab (BitVec 4) :=
  let cl := (id.extractLsb' 4 7).toNat
  let claims := stages.filterMap fun (e : Nat × Stage) =>
    let h := coresOf a e.1
    if e.2.clLo ≤ cl && cl ≤ e.2.clHi && e.2.tenant == tenant && e.2.wantsCore h then some (claimRank e.2 e.1 h, e.1, e.2) else none
  let best := match strongest claims with
    | some b =>
      if b.2.2.isLow && decide (b.1 < 2 ^ 60) then (strongest (claims.filter fun c => c.2.2.isHigh)).or (some b) else some b
    | none => none
  match best with
  | some b => a ++ [(id.toNat, BitVec.ofNat 4 b.2.1)]
  | none => a

/-- Assigns every core of a die, beginning at a core the spec does not fix. -/
def State.assignCores (s : State) (d : BitVec 2) : State :=
  let first := Config.pick s.tick % 2048
  let ids := (List.range 2048).map fun i => (d ++ BitVec.ofNat 11 ((first + i) % 2048) : CoreId)
  let a := ids.foldl (fun a id => assignOne (s.die d).stages (s.tenantOf id) a id) []
  (s.setDie d { s.die d with assign := a }).drawn

/-! ## Expert fills (R297, R298) -/

/-- The scheduler's own accesses for a stage: through the tables of the cluster that declared it. -/
def Stage.eng (g : Stage) (w : Who) : Eng := ⟨w, none, false, ⟨some w.core, g.cluster, g.tenant, !g.kl, false⟩, .fwd, []⟩

/-- An expert's entry: WSRC, WRES, NS, and the slice's size. -/
def expertEntry (g : Stage) (w : Who) (e : Nat) : E (Word × Word × Nat × Nat) := do
  let bs ← eRead (g.eng w) (g.extab + BitVec.ofNat 64 (32 * e)) 32
  let shape := dwordAt bs 16
  let ns := (shape.extractLsb' 0 8).toNat
  let sz := (shape.extractLsb' 8 8).toNat
  if ns = 0 ∨ 64 < ns ∨ sz = 0 ∨ 128 < sz then eFault 0x1A
  else return (dwordAt bs 0, dwordAt bs 8, ns, 128 * sz)

/-- Copies slices 0 to n - 1 from the stacks to the pool. -/
def fillSlices (g : Stage) (w : Who) (src dst : Word) (size : Nat) : Nat → E Unit
  | 0 => pure ()
  | n + 1 => do
    fillSlices g w src dst size n
    let o := BitVec.ofNat 64 (n * size)
    eWrite (g.eng w) (dst + o) (← eRead (g.eng w) (src + o) size)

/-- Pins slices 0 to n - 1 of ns. -/
def Expert.pin (x : Expert) (ns n : Nat) : Expert :=
  { x with pins := (List.range ns).map fun i => x.pins.getD i 0 + (if i < n then 1 else 0) }

def State.modExpert (s : State) (d : BitVec 2) (n e : Nat) (f : Expert → Expert) : State :=
  s.modStage d n fun g => { g with experts := g.experts.set e (f (g.experts.get e ⟨.absent, []⟩)) }

/-- Runs the scheduler's own accesses; a fabric access has no place here (R297: weights lie in the stacks). -/
def runE {α : Type} (m : E α) (s : State) : Except EStop (α × State) :=
  match m (s, []) with
  | .ok (a, (s', _)) => .ok (a, s')
  | .error x => .error x

/-! ## Placement (R293) -/

/-- The context a placement starts. -/
def taskCtx (slot : Bool) (id : CoreId) (pkg : BitVec 10) (gen : BitVec 8) (g : Stage) (t : TaskRef) (k : Task) (tid : Word) : Ctx :=
  { (launchCtx slot id pkg gen ⟨id, g.kl, g.entry, k.arg1, k.arg2⟩).writeX 3 tid with task := some t }

/-- Starts a task context in a slot of its core; `ready` false leaves it not ready (R298). -/
def Core.placeTask (c : Core) (front ready : Bool) (pkg : BitVec 10) (g : Stage) (t : TaskRef) (k : Task) (tid : Word) : Core :=
  let slot := if front then c.frontSlot else !c.frontSlot
  let gen := (if slot then c.gen1 else c.gen0) + 1
  let x := taskCtx slot c.id pkg gen g t k tid
  let x := if ready then x else { x with life := .notReady }
  let c := { c with
    gen0 := if slot then c.gen0 else gen
    gen1 := if slot then gen else c.gen1
    freeze := false }
  let c := if front then { c with front := x } else { c with shadow := x }
  c.log slot x 4 g.entry 0 0

/-- The oldest READY task of a stage that may go to a core: not one that TABORT sent away, while the stage has
another core (R295). -/
def State.oldestReady (s : State) (d : BitVec 2) (n : Nat) (id : CoreId) : Option (Nat × Task) :=
  match s.stageAt d n with
  | none => none
  | some g =>
    let others := (s.die d).assign.any fun a => a.2.toNat == n && a.1 != id.toNat
    let ok (t : Nat × Task) : Bool := t.2.state == .ready && !(others && t.2.avoid == some id)
    g.tasks.foldl (fun best t => if ok t then
        match best with
        | none => some t
        | some b => if t.2.order < b.2.order then some t else some b
      else best) none

/-- The stream window is set empty, slices 0 to S - 1 are filled and pinned, and the next slice is due (R298). -/
def State.startStream (s : State) (t : TaskRef) (g : Stage) (w : Who) (e : Nat) : Except EStop State :=
  match runE (do
      let (src, dst, ns, size) ← expertEntry g w e
      if 0xC000 < g.sbuf.toNat + (ns - g.resident) * size then eFault 0x1A
      fillSlices g w src dst size (min g.resident ns)
      return (ns, size)) s with
  | .ok ((ns, size), s) =>
    let s := s.modExpert t.die t.stage.toNat e fun x => x.pin ns (min g.resident ns)
    let s := s.modCore w.core fun c => c.setLines false (g.sbuf.toNat / 128) ((ns - g.resident) * size / 128)
    .ok (if g.resident < ns then s.enqueue (.streamSliceArrival w g.resident) else s)
  | .error x => .error x

/-- Every slice is filled into the pool: the expert is RESIDENT (R298, PARK). -/
def State.fillExpert (s : State) (t : TaskRef) (g : Stage) (w : Who) (e : Nat) : Except EStop State :=
  match runE (do
      let (src, dst, ns, size) ← expertEntry g w e
      fillSlices g w src dst size ns
      return ns) s with
  | .ok (ns, s) => .ok (s.modExpert t.die t.stage.toNat e fun x => { x with state := .resident, pins := (List.range ns).map fun i => x.pins.getD i 0 })
  | .error x => .error x

/-- A placed task pins every slice of its RESIDENT expert (R297). -/
def State.pinAll (s : State) (t : TaskRef) (e : Nat) : State :=
  s.modExpert t.die t.stage.toNat e fun x => x.pin x.pins.length x.pins.length

/-! ## The end of a strand (R119, R276) -/

/-- The front context of the core in focus issues nothing further: its registrations are dropped, it leaves its
gang, and its slot becomes idle once its work is complete. -/
def State.stopCtx (s : State) : State :=
  let s := s.dropAll s.who
  let s := s.mapCtx fun k => { k.leaveGang with
    life := .draining
    ports := k.ports.map fun p => { p with part := [] } }
  s.settle s.core.id

end Sys2Proof.Machine
end

