-- ==== Sys2Proof/Machine/Sync.lean ====
section
/-! DEFINITION. Fences and reader-writer locks, OP 25 (R253, R254, R264, R265, R351). -/

namespace Sys2Proof.Machine

/-- With E, every copy and engine command of the strand has completed, and its tokens have landed (R265). -/
def awaitEngines : M Unit := do
  let s ← get
  if s.ctx.pend != 0 || s.outstanding s.who then wait else pure ()

/-- Every access of this model is performed at its step (log entry 6): a fence waits for engines, and
reports failed fabric stores (R351). -/
def execFence (e : Bool) (sc : Scope) (k : FenceKind) (s : State) : Host.Outcome State Fault Refusal :=
  unit (do
    if e then awaitEngines
    if e || k = .full || (k = .release && sc = .fabric) then reportFabric
    next) s

/-! ## Lock words (R253) -/

def lockWH (w : Nat) : Bool := w / 2 ^ 31 % 2 == 1
def lockWP (w : Nat) : Bool := w / 2 ^ 30 % 2 == 1
def lockWW (w : Nat) : Nat := w / 2 ^ 16 % 2 ^ 14
def lockRD (w : Nat) : Nat := w % 2 ^ 16

/-- The word after a request of RWLR that is granted. -/
def grantRead (w : Nat) : Option Nat :=
  if !lockWH w && decide (lockRD w < 0xFFFF) && (!lockWP w || lockWW w == 0) then some (w + 1) else none
/-- The word after a request of RWLW that is granted. -/
def grantWrite (w : Nat) (counted : Bool) : Option Nat :=
  if !lockWH w && lockRD w == 0 then some (w + 2 ^ 31 - (if counted then 2 ^ 16 else 0)) else none

/-- The checks of a lock instruction: as for atomics, but that the word lies in the pool (R254). -/
def lockChecks (a : Word) : M Phys := do
  guardTrap (a.toNat % 4 == 0) 0x03 a
  let ps ← checkAll .atomic false [a]
  let p := ps.headD ⟨0, true, false, false⟩
  guardTrap (!p.own && regionOf p.pa == .pool) 0x1A a
  let k ← ctx
  if k.diffMode != .fwd && (k.dreg a).isSome then trap 0x1A a
  let s ← get
  if s.failing p.pa 4 then trap 0x0A a
  return p

def lockWord (p : Phys) : M Nat := do
  let s ← get
  return natOfBytes (s.bytes (canon p.pa) 4)
def putLock (p : Phys) (w : Nat) : M Unit := modify fun s => s.poke (canon p.pa) (bytesOfNat 4 w)

/-- A lock instruction waits, to be presented again as the word changes. -/
def State.presents (s : State) (i : Instr) (counted : Option Nat) : State :=
  let s := s.mapCtx fun k => { k with progress := .lock i counted }
  if s.due.any (fun d => d.act == .lockRepresentation s.core.id) then s
  else s.enqueue (.lockRepresentation s.core.id)

def lockRead (d a : Opnd) : M Flow := do
  let x ← src a
  let p ← lockChecks x
  let w ← lockWord p
  match grantRead w with
  | some w' =>
    putLock p w'
    dst (wordOf (.rwlr d a)) d (BitVec.ofNat 64 w)
    traceResult d 2 2 x p
    next
  | none => wait fun s => s.presents (.rwlr d a) none

/-- On its first refusal a writer counts itself, unless WW is full; it then waits. -/
def lockWrite (d a : Opnd) : M Flow := do
  let x ← src a
  let p ← lockChecks x
  let w ← lockWord p
  let k ← ctx
  let seen : Option (Option Nat) := match k.progress with
    | .lock _ c => some c
    | _ => none
  match grantWrite w (seen.getD none).isSome with
  | some w' =>
    putLock p w'
    dst (wordOf (.rwlw d a)) d (BitVec.ofNat 64 w)
    traceResult d 2 2 x p
    next
  | none =>
    match seen with
    | some c => wait fun s => s.presents (.rwlw d a) c
    | none =>
      if lockWW w < 16383 then
        wait fun s => (s.poke (canon p.pa) (bytesOfNat 4 (w + 2 ^ 16))).presents (.rwlw d a) (some (canon p.pa))
      else wait fun s => s.presents (.rwlw d a) none

def execRwlr (d a : Opnd) (s : State) : Host.Outcome State Fault Refusal := unit (lockRead d a) s
def execRwlw (d a : Opnd) (s : State) : Host.Outcome State Fault Refusal := unit (lockWrite d a) s

/-- RWUR and RWUW: the update where the lock is held so, else cause 0x1A with the word found. -/
def unlock (i : Instr) (d a : Opnd) (f : Nat → Option Nat) : M Flow := do
  let x ← src a
  let p ← lockChecks x
  let w ← lockWord p
  match f w with
  | some w' =>
    putLock p w'
    dst (wordOf i) d (BitVec.ofNat 64 w)
    traceResult d 2 2 x p
    next
  | none => trap 0x1A (BitVec.ofNat 64 w)

def execRwur (d a : Opnd) (s : State) : Host.Outcome State Fault Refusal :=
  unit (unlock (.rwur d a) d a fun w => if 0 < lockRD w then some (w - 1) else none) s
def execRwuw (d a : Opnd) (s : State) : Host.Outcome State Fault Refusal :=
  unit (unlock (.rwuw d a) d a fun w => if lockWH w then some (w - 2 ^ 31) else none) s

/-- The lock instruction that waits on a core is presented again to the bank ALU (R254): it completes where it
is granted, and goes on waiting where it is not. -/
def representLock (id : CoreId) (s : State) : Host.Outcome State Fault Refusal :=
  let s := s.focus id
  if s.ctx.life != .live then .next s
  else match s.ctx.progress with
    | .lock (.rwlr d a) _ => unit (lockRead d a) s
    | .lock (.rwlw d a) _ => unit (lockWrite d a) s
    | _ => .next s

/-- The act LOCK_REPRESENTATION at the head of those due. -/
def execLockRepresentation (s : State) : Host.Outcome State Fault Refusal :=
  match s.due with
  | ⟨.lockRepresentation id, _⟩ :: rest => representLock id { s with due := rest }
  | _ => .next s

end Sys2Proof.Machine
end

