-- ==== Sys2Proof/Machine/Tasks.lean ====
section
/-! DEFINITION. Stages, tasks and experts: OP 49, the commands of q1, and the acts of the Work Scheduler (R286 to
R299). -/

namespace Sys2Proof.Machine

/-! ## STDECL (R289) -/

/-- Are the clusters CLLO to CLHI of a die the tenant's? -/
def State.ownsClusters (s : State) (d : BitVec 2) (tenant : BitVec 6) (lo hi : Nat) : Bool :=
  (List.range (hi + 1 - lo)).all fun i => (s.cluster (d ++ BitVec.ofNat 7 (lo + i))).xten == tenant

def stageOf (bs : List Byte) (tenant : BitVec 6) (cluster : BitVec 9) : Stage :=
  ⟨dwordAt bs 0, dwordAt bs 8, dwordAt bs 16, dwordAt bs 24, dwordAt bs 32, tenant, cluster, [], [], [], 0⟩

/-- The next multiple of 4,096 cycles (R296). -/
def State.nextAssign (s : State) : Nat := (s.cycle.toNat / 4096 + 1) * 4096

/-- Core assignment goes on while the die has stages (R296). -/
def State.assignLater (s : State) (d : BitVec 2) : State :=
  if s.due.any (·.act == .coreAssignment d) then s else s.enqueue (.coreAssignment d) (some s.nextAssign)

def execStdecl (d a : Opnd) (s : State) : Host.Outcome State Fault Refusal :=
  unit (do
    let w := wordOf (.stdecl d a)
    let x ← src a
    guardTrap (x.toNat % 64 == 0) 0x03 x
    let bs ← memLoad x 64
    let s ← get
    let die := dieOf s.core.id
    let g := stageOf bs s.tenant (clusterOf s.core.id)
    guardTrap (stageOk bs && !(g.kl && s.ctx.isUser)) 0x1A x
    guardTrap (s.ownsClusters die s.tenant g.clLo g.clHi) 0x06 w
    match (List.range 16).find? fun n => (s.stageAt die n).isNone with
    | none => trap 0x1A x
    | some n =>
      modify fun s => (s.setDie die { s.die die with stages := (s.die die).stages.set n g }).assignLater die
      dst w d (BitVec.ofNat 64 n)
      traceCommandVa x
      next) s

/-- `STDECL xa, free`. -/
def execStdeclFree (a : Opnd) (s : State) : Host.Outcome State Fault Refusal :=
  unit (do
    let x ← src a
    let s ← get
    let die := dieOf s.core.id
    match (if x.toNat < 16 then s.stageAt die x.toNat else none) with
    | none => trap 0x1A x
    | some g =>
      guardTrap (g.tenant == s.tenant) 0x1A x
      if g.tasks != [] then wait
      modify fun s => s.setDie die { s.die die with
        stages := (s.die die).stages.erase x.toNat
        assign := (s.die die).assign.filter fun e => e.2.toNat != x.toNat }
      traceCommand 0 0
      next) s

/-! ## TSPAWN (R290, R291) -/

def execTspawn (d a : Opnd) (s : State) : Host.Outcome State Fault Refusal :=
  unit (do
    let x ← src a
    guardTrap (x.toNat % 32 == 0) 0x03 x
    let bs ← memLoad x 96
    guardTrap (taskOk bs) 0x1A x
    let head := dwordAt bs 0
    let n := (head.extractLsb' 0 4).toNat
    let ex := (head.extractLsb' 32 16).toNat
    let s ← get
    let die := dieOf s.core.id
    match s.stageAt die n with
    | none => trap 0x1A x
    | some g =>
      guardTrap (g.tenant == s.tenant && (ex == 0xFFFF || g.extab != 0)) 0x1A x
      if g.freeSlot.isNone || 4096 ≤ s.inFlight die then wait
      let foots := (List.range (head.extractLsb' 8 3).toNat).map (footAt bs)
      let (s', id) := s.spawn die n (if ex = 0xFFFF then none else some ex) (head.extractLsb' 16 16).toNat (dwordAt bs 8) (dwordAt bs 16) foots x
      set (s'.offer die)
      dst (wordOf (.tspawn d a)) d id
      traceCommandVa x
      next) s

/-! ## TRET and TABORT (R295) -/

/-- The task that the context runs; cause 0x1A with EVALUE 0 outside one. -/
def runningTask : M (TaskRef × Stage × Task) := do
  let s ← get
  match s.ctx.task with
  | none => trap 0x1A 0
  | some t => match s.taskOf t with
    | some (g, k) => return (t, g, k)
    | none => trap 0x1A 0

/-- The task leaves RUNNING: its pins are released (R297). -/
def State.leaveRunning (s : State) (t : TaskRef) : State :=
  match s.taskOf t with
  | none => s
  | some (_, k) =>
    let s := s.modStage t.die t.stage.toNat fun g => g.unpin k
    (s.modTask t fun k => { k with state := .committing }).drainDue t.die t.stage.toNat k

def execTret (s : State) : Host.Outcome State Fault Refusal :=
  unit (do
    let (t, _, _) ← runningTask
    awaitEngines
    reportFabric
    return { after := fun s => ((s.leaveRunning t).enqueue (.taskCommit s.core.id)).stopCtx }) s

def execTabort (s : State) : Host.Outcome State Fault Refusal :=
  unit (do
    let (t, g, k) ← runningTask
    let c ← ctx
    guardTrap (!g.direct && c.mode == .fwd) 0x1A k.desc
    awaitEngines
    return { after := fun s => ((s.requeueTask s.who t).mapCtx fun k => { k with task := none }).stopCtx }) s

/-- Publication completes: the task retires (R295). -/
def State.commitTask (s : State) (id : CoreId) (p : Place) (k : Ctx) (t : TaskRef) : State :=
  let s := (s.publish id k.self).endTask t false
  (s.modCore id fun c => c.setCtx p { k with task := none }).settle id

/-- Is the context's task committing? -/
def State.commits (s : State) (k : Ctx) : Option TaskRef :=
  match k.task with
  | some t => match s.taskOf t with
    | some (_, u) => if u.state = .committing then some t else none
    | none => none
  | none => none

/-- The act TASK_COMMIT. -/
def execTaskCommit (s : State) : Host.Outcome State Fault Refusal :=
  match s.due with
  | ⟨.taskCommit id, _⟩ :: rest =>
    let s := { s with due := rest }
    let c := s.getCore id
    match c.placeOf fun k => (s.commits k).isSome with
    | none => .next s
    | some p => match c.ctxAt p with
      | none => .next s
      | some k => match s.commits k with
        | some t => .next (s.commitTask id p k t)
        | none => .next s
  | _ => .next s

/-! ## Placement (R293, R298) -/

/-- Starts a task in an idle slot of a core, the front slot first. -/
def State.startTask (s : State) (id : CoreId) (ready front : Bool) (g : Stage) (t : TaskRef) (k : Task) : State :=
  let tid : Word := 0#32 ++ k.gen ++ 0#4 ++ t.stage ++ t.slot
  let s := s.modCore id fun c => c.placeTask front ready s.pkgid g t k tid
  (s.modTask t fun k => { k with state := if ready then .running else .filling, avoid := none }).settle id

/-- The identity that a context placed in a slot takes. -/
def Core.nextCtxid (c : Core) (front : Bool) (pkg : BitVec 10) : BitVec 32 :=
  let slot := if front then c.frontSlot else !c.frontSlot
  ctxidOf slot c.id pkg ((if slot then c.gen1 else c.gen0) + 1)

/-- Places a READY task on a core with an idle slot, as its expert's state asks. None where it is still to be made: the
weights' rows are held (R336), or a context that is not ready finds the shadow slot taken (R298). -/
def State.placeOn (s : State) (id : CoreId) (g : Stage) (t : TaskRef) (k : Task) : Option State :=
  let c := s.getCore id
  let frontFree := c.front.life = .idle
  match k.expert with
  | none => some (s.startTask id true frontFree g t k)
  | some e =>
    match (g.experts.get e ⟨.absent, []⟩).state, g.stream with
    | .resident, _ => some ((s.pinAll t e).startTask id true frontFree g t k)
    | .draining, _ | _, false =>
      if c.shadow.life = .idle && c.filling.isNone then
        let w : Who := ⟨id, c.nextCtxid false s.pkgid⟩
        let s := s.modExpert t.die t.stage.toNat e fun x => if x.state = .absent then { x with state := .filling } else x
        some ((s.startTask id false false g t k).enqueue (.expertFillComplete w))
      else none
    | _, true =>
      let w : Who := ⟨id, c.nextCtxid frontFree s.pkgid⟩
      match s.startStream t g w e with
      | .ok s => some (s.startTask id true frontFree g t k)
      | .error .held => none
      | .error _ => some (s.endTask t true)

/-- The act TASK_PLACEMENT: nothing, where the core or the task is gone meanwhile. -/
def execTaskPlacement (s : State) : Host.Outcome State Fault Refusal :=
  match s.due with
  | ⟨.taskPlacement d n id, _⟩ :: rest =>
    let s := { s with due := rest }
    let c := s.getCore id
    let runs := allPlaces.any fun p => match c.ctxAt p with
      | some k => (match k.task with
        | some t => t.die == d && t.stage == n
        | none => false)
      | none => false
    if (s.die d).assign.find? id.toNat = some n && !runs && (c.front.life = .idle || (c.shadow.life = .idle && c.filling.isNone)) then
      match s.oldestReady d n.toNat id, s.stageAt d n.toNat with
      | some (slot, k), some g => .next ((s.placeOn id g ⟨d, n, BitVec.ofNat 8 slot⟩ k).getD s)
      | _, _ => .next s
    else .next s
  | _ => .next s

/-- The act CORE_ASSIGNMENT (R296). -/
def execCoreAssignment (s : State) : Host.Outcome State Fault Refusal :=
  match s.due with
  | ⟨.coreAssignment d, _⟩ :: rest =>
    let s := { s with due := rest }
    if (s.die d).stages = [] then .next (s.setDie d { s.die d with assign := [] })
    else .next (((s.assignCores d).offer d).assignLater d)
  | _ => .next s

/-! ## Experts -/

/-- The task of an owner's context and its expert. -/
def State.expertTask (s : State) (w : Who) : Option (TaskRef × Stage × Nat) :=
  match s.ctxOf w with
  | none => none
  | some k => match k.task with
    | none => none
    | some t => match s.taskOf t with
      | some (g, u) => u.expert.map fun e => (t, g, e)
      | none => none

/-- A filled task is ready: a swap is requested (R298, R212). -/
def State.readyTask (s : State) (w : Who) (t : TaskRef) : State :=
  ((s.modTask t fun k => { k with state := .running }).modWho w fun k => { k with life := if k.life = .notReady then .live else k.life }).settle w.core

/-- The placement fails its task, and its context is dropped. -/
def State.failPlaced (s : State) (w : Who) (t : TaskRef) (e : Nat) : State :=
  let s := s.modExpert t.die t.stage.toNat e fun x => if x.state = .filling then { x with state := .absent } else x
  let s := (s.failTask w t).modWho w fun k => { k with task := none, life := .draining }
  s.settle w.core

/-- The act EXPERT_FILL_COMPLETE: a DRAINING expert first drains, and is then refilled. -/
def execExpertFillComplete (s : State) : Host.Outcome State Fault Refusal :=
  match s.due with
  | ⟨.expertFillComplete w, _⟩ :: rest =>
    match s.expertTask w with
    | none => .next { s with due := rest }
    | some (t, g, e) =>
      let s' := { s with due := rest }
      match (g.experts.get e ⟨.absent, []⟩).state with
      | .draining => .next s
      | .resident => .next ((s'.pinAll t e).readyTask w t)
      | _ =>
        match (if g.stream then s'.startStream t g w e else (s'.fillExpert t g w e).map fun s => s.pinAll t e) with
        | .ok s => .next (s.readyTask w t)
        | .error .held => .next s
        | .error _ => .next (s'.failPlaced w t e)
  | _ => .next s

/-- The act STREAM_SLICE_ARRIVAL: a slice lands in the window, its lines are set full, and the next is due. A
fault on a slice ends the stream. -/
def execStreamSliceArrival (s : State) : Host.Outcome State Fault Refusal :=
  match s.due with
  | ⟨.streamSliceArrival w n, _⟩ :: rest =>
    let s' := { s with due := rest }
    if (s.getCore w.core).holding then .next s
    else match s.expertTask w with
    | none => .next s'
    | some (_, g, e) =>
      match runE (do
          let (src, _, ns, size) ← expertEntry g w e
          let bs ← eRead (g.eng w) (src + BitVec.ofNat 64 (n * size)) size
          return (bs, ns, size)) s' with
      | .ok ((bs, ns, size), s) =>
        let off := g.sbuf.toNat + (n - g.resident) * size
        let s := s.poke (localPa w.core off) bs
        let s := s.modCore w.core fun c => c.setLines true (off / 128) (size / 128)
        .next (if n + 1 < ns then s.enqueue (.streamSliceArrival w (n + 1)) else s)
      | .error .held => .next s
      | .error _ => .next s'
  | _ => .next s

/-! ## q1 (R299) -/

/-- The stage that word 0 of EVICT names, where the strand's tenant declared it. -/
def State.evictAt (s : State) (w : Who) (ws : List Word) : Option (BitVec 2 × BitVec 4 × Nat × Expert) :=
  let w0 := ws.headD 0
  let d := dieOf w.core
  let n : BitVec 4 := w0.extractLsb' 8 4
  let e := (w0.extractLsb' 0 8).toNat
  match s.stageAt d n.toNat with
  | some g => if g.tenant = s.tenantOf w.core then some (d, n, e, g.experts.get e ⟨.absent, []⟩) else none
  | none => none

/-- The act EVICT: the expert is marked DRAINING; the command stays, and its result is returned once the expert
is ABSENT. A stage that the tenant did not declare holds no expert to evict. -/
def execEvict (s : State) : Host.Outcome State Fault Refusal :=
  match s.due with
  | ⟨.evict w ws, _⟩ :: rest =>
    let done := ({ s with due := rest } : State).portResult w 1 0
    match s.evictAt w ws with
    | none => .next (done.settle w.core)
    | some (d, n, e, x) =>
      if x.state = .draining then .next s
      else if x.state = .absent && x.pins.all (· == 0) then .next (done.settle w.core)
      else
        let s := s.modExpert d n.toNat e fun x => { x with state := .draining }
        .next (if x.pins.all (· == 0) then s.enqueue (.expertDrained d n e) else s)
  | _ => .next s

/-- The first EVICT of an expert among the acts due, before which no other command of its port stands: its owner,
and the acts without it. -/
def takeEvict (d : BitVec 2) (n : BitVec 4) (e : Nat) (s : State) : List Due → List Due → Option (Who × List Due)
  | _, [] => none
  | before, x :: r =>
    match x.act with
    | .evict w ws =>
      let first := !before.any fun y => y.act.portOwner == some w
      match s.evictAt w ws with
      | some (d', n', e', _) => if first && d' == d && n' == n && e' == e then some (w, before ++ r) else takeEvict d n e s (before ++ [x]) r
      | none => takeEvict d n e s (before ++ [x]) r
    | _ => takeEvict d n e s (before ++ [x]) r

/-- Returns the result of every EVICT that waited for an expert. -/
def State.evicted (s : State) (d : BitVec 2) (n : BitVec 4) (e : Nat) : Nat → State
  | 0 => s
  | k + 1 => match takeEvict d n e s [] s.due with
    | some (w, due) => ((({ s with due := due } : State).portResult w 1 0).settle w.core).evicted d n e k
    | none => s

/-- The act EXPERT_DRAINED: the expert is ABSENT, and EVICT returns. -/
def execExpertDrained (s : State) : Host.Outcome State Fault Refusal :=
  match s.due with
  | ⟨.expertDrained d n e, _⟩ :: rest =>
    let s := { s with due := rest }
    match s.stageAt d n.toNat with
    | none => .next s
    | some g =>
      let x := g.experts.get e ⟨.absent, []⟩
      if x.state = .draining && x.pins.all (· == 0) then
        let s := s.modExpert d n.toNat e fun x => { x with state := .absent }
        .next (s.evicted d n e s.due.length)
      else .next s
  | _ => .next s

/-- The act TREL. -/
def execTrel (s : State) : Host.Outcome State Fault Refusal :=
  match s.due with
  | ⟨.trel w ws, _⟩ :: rest =>
    let s := { s with due := rest }
    let w0 := ws.headD 0
    let t : TaskRef := ⟨dieOf w.core, w0.extractLsb' 8 4, w0.extractLsb' 0 8⟩
    match s.taskOf t with
    | some (g, k) =>
      if k.gen = w0.extractLsb' 16 16 && 0 < k.extra && g.tenant = s.tenantOf w.core then
        .next (((s.modTask t fun k => ({ k with extra := k.extra - 1 }).recount).offer t.die).settle w.core)
      else .next (s.settle w.core)
    | none => .next (s.settle w.core)
  | _ => .next s

/-- STAT's four fields. -/
def State.statWord (s : State) (d : BitVec 2) (n : Nat) (g : Stage) : Word :=
  BitVec.ofNat 16 (g.tasks.countP (·.2.state == .running)) ++ g.fails
    ++ BitVec.ofNat 16 (coresOf (s.die d).assign n) ++ BitVec.ofNat 16 g.occupancy

/-- The act STAT. -/
def execStat (s : State) : Host.Outcome State Fault Refusal :=
  match s.due with
  | ⟨.stat w ws, _⟩ :: rest =>
    let s := { s with due := rest }
    let d := dieOf w.core
    let n := ((ws.headD 0).extractLsb' 0 4).toNat
    let v := match s.stageAt d n with
      | some g => if g.tenant = s.tenantOf w.core then s.statWord d n g else 0
      | none => 0
    .next ((s.portResult w 1 v).settle w.core)
  | _ => .next s

end Sys2Proof.Machine
end

