-- ==== Sys2Proof/Machine/System.lean ====
section
/-! DEFINITION. System instructions, OP 26 (R61 to R71, R111, R118, R119), the control registers, hint words
(R48 to R52) and words that are no instruction (R57). -/

namespace Sys2Proof.Machine

/-! ## The control registers (R62) -/

/-- The registers of R62. -/
inductive CReg where
  | status | tvec | epc | ecause | evalue | mseq | ydeadline | rxwatch | xphase | tracectl | dumpbase | rngseed
  | lstart (k : Bool) | lend (k : Bool) | lcount (k : Bool)
  | ctxid | coreid | clid | dieid | pkgid | tenant | cycle | instret
  | tapebase | tapelim | tapepos | dstat
  | dbase (k : BitVec 3) | dlen (k : BitVec 3) | dadj (k : BitVec 3)
  | lattol
  | rkstat (s : Nat) | actalert (s : Nat) | nfcount (s : Nat)
  deriving DecidableEq, Repr, Inhabited

/-- The register of a number; none for a number not listed. -/
def cregOf (n : BitVec 12) : Option CReg :=
  let low := n.toNat % 16
  let k : BitVec 3 := n.extractLsb' 0 3
  match n.toNat with
  | 0x000 => some .status
  | 0x001 => some .tvec
  | 0x002 => some .epc
  | 0x003 => some .ecause
  | 0x004 => some .evalue
  | 0x005 => some .mseq
  | 0x006 => some .ydeadline
  | 0x007 => some .rxwatch
  | 0x008 => some .xphase
  | 0x009 => some .tracectl
  | 0x00A => some .dumpbase
  | 0x00B => some .rngseed
  | 0x010 => some (.lstart false)
  | 0x011 => some (.lend false)
  | 0x012 => some (.lcount false)
  | 0x014 => some (.lstart true)
  | 0x015 => some (.lend true)
  | 0x016 => some (.lcount true)
  | 0x020 => some .ctxid
  | 0x021 => some .coreid
  | 0x022 => some .clid
  | 0x023 => some .dieid
  | 0x024 => some .pkgid
  | 0x025 => some .tenant
  | 0x026 => some .cycle
  | 0x027 => some .instret
  | 0x030 => some .tapebase
  | 0x031 => some .tapelim
  | 0x032 => some .tapepos
  | 0x033 => some .dstat
  | 0x100 => some .lattol
  | v =>
    if v / 8 = 8 then some (.dbase k)
    else if v / 8 = 9 then some (.dlen k)
    else if v / 8 = 10 then some (.dadj k)
    else if 0x200 ≤ v && v < 0x2C0 then
      let s := (v - 0x200) / 16
      if low = 0 then some (.rkstat s) else if low = 1 then some (.actalert s) else if low = 2 then some (.nfcount s) else none
    else none

/-- May a level reach the register (R62)? -/
def CReg.reachedAt (r : CReg) (pl : BitVec 2) : Bool :=
  match r with
  | .lattol => pl == 3
  | .rkstat _ | .actalert _ | .nfcount _ => pl != 0
  | _ => true

/-! ## Reads -/

def modeCode : DiffMode → BitVec 2
  | .fwd => 0
  | .tape => 1
  | .rev => 2

/-- DECL: bit k is 1 where DLENk is not 0 (R69). -/
def Ctx.decl (k : Ctx) : BitVec 8 :=
  (List.range 8).foldl (fun d i => if k.dlen.getD i 0 != 0 then d ||| (1#8 <<< i) else d) 0

/-- DSTAT (R69). -/
def Ctx.dstatWord (k : Ctx) : Word := 0#40 ++ k.esz ++ k.decl ++ 0#6 ++ modeCode k.mode
/-- TRACECTL (R70). -/
def Core.tracectlWord (c : Core) (k : Ctx) : Word :=
  0#52 ++ BitVec.ofBool c.traceWrap ++ c.traceHead ++ BitVec.ofBool c.freeze ++ BitVec.ofBool k.traceEn
/-- XPHASE (R68). -/
def Ctx.xphaseWord (k : Ctx) : Word := 0#36 ++ k.domain ++ 0#14 ++ k.phase

/-- Ranks of a stack that are FAILED, lowest first (R338). -/
def State.failedRanks (s : State) (stack : Nat) : List Nat :=
  (s.ranks.filter fun r => r.1 / 1024 == stack && r.2.state == .failed).map (·.1)

def State.rkstatWord (s : State) (n : Nat) : Word :=
  let k := s.stack n
  let f := s.failedRanks n
  k.swcnt ++ 0#2 ++ BitVec.ofNat 14 (f.headD 0) ++ BitVec.ofNat 16 f.length ++ 0#12
    ++ BitVec.ofBool k.swf ++ BitVec.ofBool k.swdone ++ BitVec.ofBool k.swp ++ BitVec.ofBool k.mode
def State.actalertWord (s : State) (n : Nat) : Word :=
  let k := s.stack n
  k.winus ++ k.win ++ k.budget ++ k.alerts

/-- What a register reads as, to the strand in hand. -/
def State.creg (s : State) (r : CReg) : Word :=
  let k := s.ctx
  match r with
  | .status => k.statusWord
  | .tvec => k.tvec
  | .epc => k.epc
  | .ecause => k.ecause.setWidth 64
  | .evalue => k.evalue
  | .mseq => k.mseq.setWidth 64
  | .ydeadline => k.ydeadline.setWidth 64
  | .rxwatch => k.rxwatch.setWidth 64
  | .xphase => k.xphaseWord
  | .tracectl => s.core.tracectlWord k
  | .dumpbase => k.dumpBase
  | .rngseed => s.core.rngSeed
  | .lstart l => (k.loopAt l).start
  | .lend l => (k.loopAt l).last
  | .lcount l => (k.loopAt l).count.setWidth 64
  | .ctxid => k.ctxid.setWidth 64
  | .coreid => s.core.id.setWidth 64
  | .clid => (clusterOf s.core.id).setWidth 64
  | .dieid => (dieOf s.core.id).setWidth 64
  | .pkgid => s.pkgid.setWidth 64
  | .tenant => s.tenant.setWidth 64
  | .cycle => s.cycle
  | .instret => k.instret
  | .tapebase => k.tapeBase
  | .tapelim => k.tapeLim
  | .tapepos => k.tapePos
  | .dstat => k.dstatWord
  | .dbase i => k.dbase.get i.toFin
  | .dlen i => (k.dlen.get i.toFin).setWidth 64
  | .dadj i => k.dadj.get i.toFin
  | .lattol => 0#29 ++ s.cur ++ s.tol
  | .rkstat n => s.rkstatWord n
  | .actalert n => s.actalertWord n
  | .nfcount n => (s.stack n).nfcnt.setWidth 64

/-! ## Writes (R6, R63) -/

/-- Bits that must be 0 (R68). -/
def CReg.mustBeZero : CReg → Word
  | .tvec | .epc | .dadj _ => 3
  | .tapebase | .tapelim | .tapepos => 15
  | _ => 0

/-- Does the value give an enumerated field a reserved value (R61, R64, R65, R192)? -/
def CReg.reservedIn (r : CReg) (v : Word) : Bool :=
  match r with
  | .status => v.extractLsb' 1 2 == 2 || v.extractLsb' 3 2 == 2 || decide (4 < (v.extractLsb' 5 3).toNat)
  | .ecause => decide (0x1A < (v.extractLsb' 0 8).toNat)
  | .mseq => decide (4 < (v.extractLsb' 8 3).toNat)
  | _ => false

/-- The bits of RWL fields. -/
def CReg.rwl : CReg → Word
  | .status => 0x1F
  | .tvec | .epc | .evalue | .instret | .tapebase | .tapelim | .tapepos | .dbase _ | .dadj _ => BitVec.allOnes 64
  | .ecause => 0xFF
  | .mseq => 0x7FF
  | .ydeadline | .rxwatch => 0xFFFFFFFF
  | .tracectl => 1
  | .dumpbase => 0xFFFFFFFFFFFFE000
  | .dstat => 0xFF0000
  | .dlen _ => 0xFFFFFFFFFF
  | .actalert _ | .nfcount _ => 0xFFFFFFFF
  | _ => 0

/-- Does the write meet cause 0x06: a USER write that changes an RWL field (R6), or MANAGER level on a compute
core (R61)? -/
def State.cregDenied (s : State) (r : CReg) (v : Word) : Bool :=
  (s.ctx.isUser && (v ^^^ s.creg r) &&& r.rwl != 0)
    || (r == .status && !s.core.service && (v.extractLsb' 1 2 == 3 || v.extractLsb' 3 2 == 3))

def State.modStack (s : State) (n : Nat) (f : Stack → Stack) : State := s.setStack n (f (s.stack n))

/-- LCOUNTk: a level whose count becomes 0 is no longer active, unless the SYSW is the last word of its body
(R71, R111). -/
def Ctx.setCount (k : Ctx) (l : Bool) (n : BitVec 32) : Ctx :=
  let v := k.loopAt l
  k.setLoop l { v with count := n, active := v.active && (n != 0 || v.last == k.iaddr) }

/-- The write itself, its fields by their access codes. -/
def State.putCreg (s : State) (r : CReg) (v : Word) : State :=
  match r with
  | .status => s.mapCtx fun k => { k with status := v.setWidth 9 }
  | .tvec => s.mapCtx fun k => { k with tvec := v }
  | .epc => s.mapCtx fun k => { k with epc := v }
  | .ecause => s.mapCtx fun k => { k with ecause := v.setWidth 8 }
  | .evalue => s.mapCtx fun k => { k with evalue := v }
  | .mseq => s.mapCtx fun k => { k with mseq := 0#1 ++ v.extractLsb' 0 11, sums := [] }
  | .ydeadline => s.mapCtx fun k => { k with ydeadline := v.setWidth 32 }
  | .rxwatch => s.mapCtx fun k => { k with rxwatch := v.setWidth 32 }
  | .tracectl => s.mapCtx fun k => { k with traceEn := v.getLsbD 0 }
  | .dumpbase => s.mapCtx fun k => { k with dumpBase := v &&& 0xFFFFFFFFFFFFE000 }
  | .rngseed => s.mapFocus fun c => { c with rngSeed := v }
  | .lstart l => s.mapCtx fun k => k.setLoop l { k.loopAt l with start := v }
  | .lend l => s.mapCtx fun k => k.setLoop l { k.loopAt l with last := v }
  | .lcount l => s.mapCtx fun k => k.setCount l (v.setWidth 32)
  | .instret => s.mapCtx fun k => { k with instret := v }
  | .tapebase => s.mapCtx fun k => { k with tapeBase := v }
  | .tapelim => s.mapCtx fun k => { k with tapeLim := v }
  | .tapepos => s.mapCtx fun k => { k with tapePos := v }
  | .dstat => s.mapCtx fun k => { k with esz := v.extractLsb' 16 8 }
  | .dbase i => s.mapCtx fun k => { k with dbase := k.dbase.set i.toNat v i.isLt }
  | .dlen i => s.mapCtx fun k => { k with dlen := k.dlen.set i.toNat (v.setWidth 40) i.isLt }
  | .dadj i => s.mapCtx fun k => { k with dadj := k.dadj.set i.toNat v i.isLt }
  | .lattol => s.withTol (v.setWidth 32)
  | .rkstat n => s.modStack n fun k => { k with swdone := k.swdone && !v.getLsbD 2, swf := k.swf && !v.getLsbD 3 }
  | .actalert n => s.modStack n fun k => { k with alerts := v.setWidth 32 }
  | .nfcount n => s.modStack n fun k => { k with nfcnt := v.setWidth 32 }
  | .xphase | .ctxid | .coreid | .clid | .dieid | .pkgid | .tenant | .cycle => s

/-- R63 steps 1 and 2. A number that is not listed decodes, and is found here: a misuse of the instruction's hints comes first
(log entry 94). -/
def reachCreg (w : Word) (n : BitVec 12) : M CReg := do
  let k ← ctx
  match cregOf n with
  | none => trap 0x01 w
  | some r =>
    guardTrap (r.reachedAt k.pl) 0x06 w
    return r

/-- Do two ranges share a byte? An empty range shares none. -/
def meets (a n b m : Nat) : Bool := decide (n ≠ 0) && decide (m ≠ 0) && decide (a < b + m) && decide (b < a + n)

/-- Base and length of the adjoint range of region i. -/
def Ctx.adjRange (k : Ctx) (i : Nat) : Nat × Nat :=
  ((k.dadj.getD i 0).toNat, (k.regionAt i).2 / k.esize i * 4)

/-- Does a range share a byte with the primal or adjoint range of a declared region other than `but`? -/
def Ctx.meetsDeclared (k : Ctx) (a n : Nat) (but : Option Nat) : Bool :=
  (List.range 8).any fun i =>
    some i != but && (meets a n (k.regionAt i).1 (k.regionAt i).2 || meets a n (k.adjRange i).1 (k.adjRange i).2)

/-- Is a store of the strand to a declared region or an adjoint cell still on its way to another package (R63, R309)? -/
def State.declaredPosted (s : State) : Bool :=
  s.fabric.reqs.any fun r => r.2.who == s.who && r.2.use == .posted && s.ctx.meetsDeclared r.2.va.toNat r.2.len none

/-- The registers whose writes wait for those stores (R63). -/
def CReg.waitsDeclared : CReg → Bool
  | .tapebase | .tapelim | .tapepos | .dbase _ | .dlen _ | .dadj _ => true
  | _ => false

/-- R63 steps 3 and 4, the loop registers' rule (R71), and the write. -/
def writeCreg (w : Word) (n : BitVec 12) (r : CReg) (v : Word) : M Unit := do
  guardTrap (!(r.reservedIn v) && v &&& r.mustBeZero == 0) 0x01 w
  let s ← get
  guardTrap (!s.cregDenied r v) 0x06 w
  let busy := match r with
    | .lstart l | .lend l => (s.ctx.loopAt l).active
    | _ => false
  guardTrap (!busy) 0x09 (n.setWidth 64)
  if r.waitsDeclared && s.declaredPosted then wait
  set (s.putCreg r v)

def execSysr (d : Opnd) (n : BitVec 12) (s : State) : Host.Outcome State Fault Refusal :=
  unit (do
    let w := wordOf (.sysr d n)
    let r ← reachCreg w n
    let s ← get
    dst w d (s.creg r)
    next) s

/-- A SYSW to INSTRET is not counted itself (R68). -/
def execSysw (o : Opnd) (n : BitVec 12) (s : State) : Host.Outcome State Fault Refusal :=
  unit (do
    let w := wordOf (.sysw o n)
    let r ← reachCreg w n
    let v ← src o
    writeCreg w n r v
    return { count := r != .instret }) s

/-- CONTROL_REGISTER_WRITE: the write of a register by its access codes, at the level of the strand in hand, as a
SYSW makes it. -/
def execControlRegisterWrite (n : BitVec 12) (v : Word) (s : State) : Host.Outcome State Fault Refusal :=
  let w := wordOf (.sysw (.x 0) n)
  match (do
      let r ← reachCreg w n
      writeCreg w n r v : M Unit) s with
  | .ok (_, s) => .next s
  | .error (.trap c e _ _) => .next (s.takeTrap c e)
  | .error (.wait f) => .next (f s)
  | .error (.fault r) => .fault r
  | .error (.refused r) => .refused r

/-! ## Calls, returns and the end of a strand -/

def execEcall (c : BitVec 12) (s : State) : Host.Outcome State Fault Refusal := unit (trap 0x08 (c.setWidth 64)) s
def execBrk (c : BitVec 12) (s : State) : Host.Outcome State Fault Refusal := unit (trap 0x07 (c.setWidth 64)) s

/-- ERET (R74); an EPC whose low bits are set is a misaligned control transfer (R68). -/
def execEret (s : State) : Host.Outcome State Fault Refusal :=
  unit (do
    let k ← ctx
    guardTrap k.trapBit 0x01 (wordOf .eret)
    guardTrap (k.epc.extractLsb' 0 2 == 0) 0x03 k.epc
    return { target := some k.epc, after := fun s => s.mapCtx Ctx.eret }) s

/-- YIELD: a cooperative swap where the shadow context is ready; that of a follower offers nothing (R228). -/
def execYield (s : State) : Host.Outcome State Fault Refusal :=
  unit (return { after := fun s => if s.core.requested && !s.ctx.follows then (s.swap s.core.id).settle s.core.id else s }) s

/-- HALT in a task fails it (R292, R295). -/
def State.haltTask (s : State) : State :=
  match s.ctx.task with
  | some t => (s.failTask s.who t).mapCtx fun k => { k with task := none }
  | none => s

/-- HALT (R119). -/
def execHalt (s : State) : Host.Outcome State Fault Refusal :=
  unit (do
    reportFabric
    return { after := fun s => s.haltTask.stopCtx }) s

/-! ## Hint words (R48 to R52) -/

/-- A hint word binds to the next word, however many stand in a row: each misuse is judged with the target, whose own fault
comes first (R49, R58). -/
def takeHint (w : BitVec 32) (s : State) : Host.Outcome State Fault Refusal := .next (bindHint w s)

def execHintImm (p : BitVec 24) (s : State) : Host.Outcome State Fault Refusal := takeHint (encode (.hintImm p)) s
def execHintSched (b : SchedBr) (r : SchedPri) (s : State) : Host.Outcome State Fault Refusal :=
  takeHint (encode (.hintSched b r)) s
def execHintMod (m : Option RMode) (sat p : Bool) (c : CachePol) (s : State) : Host.Outcome State Fault Refusal :=
  takeHint (encode (.hintMod m sat p c)) s

/-! ## Words that are no instruction (R57) -/

/-- Cause 0x02 for a reserved opcode, else 0x01; a hint word with a kind or payload that is misused binds first,
and is judged with its target (R49). -/
def execIllegalInstruction (w : BitVec 32) (reserved : Bool) (s : State) : Host.Outcome State Fault Refusal :=
  if w.extractLsb' 26 6 = 63 then takeHint w s
  else unit (trap (if reserved then 0x02 else 0x01) (w.setWidth 64)) s

end Sys2Proof.Machine
end

