-- ==== Sys2Proof/Machine/Diff.lean ====
section
/-! DEFINITION. The differentiable-memory family, OP 50 (R304 to R309, R315). -/

namespace Sys2Proof.Machine

/-- DMODE (R309). It waits for the strand's stores to declared regions that are still on their way; every other earlier
access has been performed (log entry 6). -/
def execDmode (d : Opnd) (m : DiffMode) (s : State) : Host.Outcome State Fault Refusal :=
  unit (do
    let k ← ctx
    let b := k.tapeBase.toNat
    let l := k.tapeLim.toNat
    let p := k.tapePos.toNat
    if m != .fwd then
      guardTrap (decide (b ≤ p) && decide (p ≤ l) && decide (0x10000 ≤ b) && !k.meetsDeclared b (l - b) none) 0x1A k.tapePos
    let s ← get
    if s.declaredPosted then wait
    modCtx fun k => { k with mode := m }
    dst (wordOf (.dmode d m)) d ((modeCode k.mode).setWidth 64)
    next) s

/-- Undeclares or declares a region: what DREGSET leaves. -/
def Ctx.setRegion (k : Ctx) (i : Fin 8) (base : Word) (len : BitVec 40) (adj : Word) (bf : Bool) : Ctx :=
  { k with
    dbase := k.dbase.set i.val base i.isLt
    dlen := k.dlen.set i.val len i.isLt
    dadj := k.dadj.set i.val adj i.isLt
    esz := if bf then k.esz ||| (1#8 <<< i.val) else k.esz &&& ~~~(1#8 <<< i.val) }

/-- The range conditions of DREGSET for n bytes from a (R307): it does not wrap and stays above 0xFFFF. -/
def rangeOk (a n : Nat) : Bool := decide (a + n ≤ 2 ^ 64) && decide (0x10000 ≤ a)

/-- DREGSET orders itself as a SYSW to these registers (R63, R307). -/
def settleDeclared : M Unit := do
  let s ← get
  if s.declaredPosted then wait

def execDregset (j a b : Opnd) (s : State) : Host.Outcome State Fault Refusal :=
  unit (do
    let word := wordOf (.dregset j a b)
    let k ← ctx
    guardTrap (!k.isUser) 0x06 word
    let adj ← src j
    let base ← src a
    let c ← src b
    let k ← ctx
    guardTrap (c.extractLsb' 4 4 == 0 && c.extractLsb' 48 16 == 0) 0x01 word
    guardTrap (k.mode == .fwd) 0x1A k.dstatWord
    let i : Fin 8 := (c.extractLsb' 0 3).toFin
    let bf := c.getLsbD 3
    let es := if bf then 2 else 4
    let len : BitVec 40 := c.extractLsb' 8 40
    let n := len.toNat
    let m := n / es * 4
    if n = 0 then
      settleDeclared
      modCtx fun k => k.setRegion i 0 0 0 false
    else
      guardTrap (base.toNat % es == 0 && n % es == 0) 0x03 base
      guardTrap (adj.toNat % 4 == 0) 0x03 adj
      guardTrap (rangeOk base.toNat n && rangeOk adj.toNat m && !meets base.toNat n adj.toNat m
        && !k.meetsDeclared base.toNat n (some i.val) && !k.meetsDeclared adj.toNat m (some i.val)) 0x1A base
      settleDeclared
      modCtx fun k => k.setRegion i base len adj bf
    next) s

/-- The cell of a primal address, with R305's and R241's checks (R315). -/
def cellOf (kind : AccKind) (a : Word) : M (Word × Phys) := do
  let k ← ctx
  match k.dreg a with
  | none => trap 0x1A a
  | some r =>
    guardTrap ((a.toNat - (k.regionAt r).1) % k.esize r == 0) 0x03 a
    let c := k.adj r a
    let p ← adjCell kind c
    return (c, p)

def execLdadj (d a : Opnd) (s : State) : Host.Outcome State Fault Refusal :=
  unit (do
    let x ← src a
    let (c, p) ← cellOf .load x
    let bs ← loadAt c p 4
    dst (wordOf (.ldadj d a)) d (BitVec.ofNat 64 (natOfBytes bs))
    traceResult d 0 2 c p
    next) s

def execStadj (r a : Opnd) (s : State) : Host.Outcome State Fault Refusal :=
  unit (do
    let x ← src a
    let (c, p) ← cellOf .store x
    let v ← src r
    storeAt c p (bytesOfNat 4 v.toNat)
    traceAccess 1 2 c p
    next) s

/-- A reduction: it never traps with cause 0x0A (R251). -/
def execAccadj (r a : Opnd) (o : Order) (s : State) : Host.Outcome State Fault Refusal :=
  unit (do
    let x ← src a
    let (c, p) ← cellOf .atomic x
    atomicRelease o p
    let v ← src r
    let _ ← bankAt c p .add .f32 (v.toNat % 2 ^ 32) 0 false (ordCode o)
    traceAccess 2 2 c p
    next) s

end Sys2Proof.Machine
end

