-- ==== Sys2Proof/Machine/Rings.lean ====
section
/-! DEFINITION. Rings, channels and lines, OP 29 (R155 to R161, R164), and the arrival of a channel word. -/

namespace Sys2Proof.Machine

/-! ## RSET (R160, R164) -/

/-- A configuration word's fields. -/
def ringCfgOk (v : Word) : Bool :=
  let ls := (v.extractLsb' 0 4).toNat
  let zu := (v.extractLsb' 4 7).toNat
  decide (1 ≤ ls) && decide (ls ≤ 8) && decide (1 ≤ zu) && decide (zu ≤ 64)
    && (v.getLsbD 11 || v.extractLsb' 12 4 == 0) && v.extractLsb' 16 48 == 0

def setRing (h : BitVec 3) (r : Option Ring) : M Unit :=
  modCtx fun k => { k with rings := k.rings.set h.toNat r h.isLt }

/-- RSET on a handle. Where the ring passes the end of local memory the rule names no EVALUE: it is the base (log entry
91). -/
def bindRing (word : Word) (h : BitVec 3) (base v : Word) : M Unit :=
  if v = 0 then setRing h none
  else do
    guardTrap (ringCfgOk v) 0x01 word
    guardTrap (base.toNat % 128 == 0) 0x03 base
    let r : Ring := ⟨base.setWidth 16, v.setWidth 16, 0, 0⟩
    guardTrap (decide (base.toNat + r.slots * r.size ≤ 0xC000)) 0x1A base
    let s ← get
    setRing h (some { r with cons := r.prodAt s.core })

def setChanM (c : BitVec 3) (v : Chan) : M Unit :=
  modCtx fun k => { k with chans := k.chans.set c.toNat v c.isLt }

/-- RSET on a channel. A bound end is given up first, under the rules of unbinding. Src(a)[63:16], which the rule does not
name, are ignored (log entry 91). -/
def bindChan (word : Word) (c : BitVec 3) (a v : Word) : M Unit := do
  let s ← get
  let peer : CoreId := a.extractLsb' 0 13
  guardTrap (v == 0 || v == 1 || v == 3) 0x01 word
  guardTrap (v == 0 || dieOf peer == dieOf s.core.id) 0x0B (chanSpec c)
  let ch := s.ctx.chans.get c.toFin
  guardTrap (ch.held.isEmpty) 0x0B (chanSpec c)
  if s.movingFrom s.who c != 0 && (match ch.bind with
    | some b => !b.recv
    | none => false) then wait
  setChanM c ⟨if v = 0 then none else some ⟨peer, a.extractLsb' 13 3, v == 3⟩, []⟩

def execRset (h a b : Opnd) (s : State) : Host.Outcome State Fault Refusal :=
  unit (do
    let w := wordOf (.rset h a b)
    let x ← src a
    let v ← src b
    match h with
    | .ring n => bindRing w n x v
    | .chan c => bindChan w c x v
    | _ => trap 0x01 w
    next) s

/-! ## RADVP, RADVC and RFILL (R161) -/

def execRadvp (h : BitVec 3) (b : Opnd) (s : State) : Host.Outcome State Fault Refusal :=
  unit (do
    let n ← src b
    let r ← ringOf h
    let s ← get
    guardTrap (!r.bound && decide (n.toNat ≤ r.slots - r.filled s.core)) 0x0B (handleSpec h)
    setRing h (some { r with prod := r.prod + n.setWidth 32 })
    next) s

def execRadvc (h : BitVec 3) (b : Opnd) (s : State) : Host.Outcome State Fault Refusal :=
  unit (do
    let n ← src b
    let r ← ringOf h
    let s ← get
    guardTrap (decide (n.toNat ≤ r.filled s.core)) 0x0B (handleSpec h)
    setRing h (some { r with cons := r.cons + n.setWidth 32 })
    next) s

/-- RFILL with W = 1: the tail, once n slots are free. -/
def ringTail (h : BitVec 3) (n : Nat) : M Word := do
  let r ← ringOf h
  let s ← get
  guardTrap (decide (n ≤ r.slots) && !r.bound) 0x0B (handleSpec h)
  if n ≤ r.slots - r.filled s.core then return r.tail s.core else wait

def execRfill (d : Opnd) (h : BitVec 3) (b : Opnd) (w : Bool) (s : State) : Host.Outcome State Fault Refusal :=
  unit (do
    let n ← src b
    let v ← if w then ringTail h n.toNat else ringHead h n.toNat
    dst (wordOf (.rfill d h b w)) d v
    next) s

/-! ## Lines (R158) -/

def lineOp (a b : Opnd) (full : Bool) : M Flow := do
  let x ← src a
  let n ← src b
  guardTrap (x.toNat % 128 == 0) 0x03 x
  guardTrap (n == 0 || decide (x.toNat + 128 * n.toNat ≤ 0xC000)) 0x1A x
  modCore fun c => c.setLines full (x.toNat / 128) n.toNat
  next

def execLfull (a b : Opnd) (s : State) : Host.Outcome State Fault Refusal := unit (lineOp a b true) s
def execLempty (a b : Opnd) (s : State) : Host.Outcome State Fault Refusal := unit (lineOp a b false) s

def execLtest (d a : Opnd) (s : State) : Host.Outcome State Fault Refusal :=
  unit (do
    let x ← src a
    guardTrap (decide (x.toNat < 0xC000)) 0x1A x
    let s ← get
    dst (wordOf (.ltest d a)) d (word (s.core.lineFull (x.toNat / 128)))
    next) s

/-! ## Channel words (R164) -/

/-- The act CHANNEL_WORD_ARRIVAL: the word enters the receiver end that names the sender; until both ends are
bound it stays on its way. -/
def execChannelWordArrival (s : State) : Host.Outcome State Fault Refusal :=
  match s.due with
  | ⟨.channelWordArrival me sp dst dp w, _⟩ :: rest =>
    match s.otherEnd me.core sp dst dp with
    | none => .next s
    | some p =>
      .next (({ s with due := rest } : State).modCore dst fun c =>
        match c.ctxAt p with
        | some k => c.setCtx p { k with chans := modAt k.chans dp.toFin fun ch => { ch with held := ch.held ++ [w] } }
        | none => c)
  | _ => .next s

end Sys2Proof.Machine
end

