-- ==== Sys2Proof/Machine/Image.lean ====
section
/-! DEFINITION. The 24 KiB context image (R150), as the spill engine and the hardware dump write it. -/

namespace Sys2Proof.Machine

def dword (v : Word) : List Byte := bytesOfNat 8 v.toNat
def dwords (vs : List Word) : List Byte := vs.flatMap dword
/-- A list of bytes cut or filled with zeros to n. -/
def padTo (n : Nat) (bs : List Byte) : List Byte := (bs ++ List.replicate n 0).take n

/-- Copies of a context that are outstanding. -/
def State.copiesOf (s : State) (w : Who) : Nat :=
  s.cmds.countP fun c => c.who == w && (match c.kind with
    | .copy .. | .copy2d .. | .gather .. | .scatter .. => true
    | _ => false)

/-- Result places that the commands already passed hold: a partly pushed command's own are not among them. -/
def Port.places (p : Port) : Nat :=
  match p.part with
  | w :: _ => p.reserved - cmdRes w
  | [] => p.reserved

/-- A handle's 16 bytes: its configuration word with the base in bits [31:16], P and C. -/
def ringBytes (c : Core) (r : Option Ring) : List Byte :=
  match r with
  | none => List.replicate 16 0
  | some r => dword (0#32 ++ r.base ++ r.cfg) ++ bytesOfNat 4 (r.prodAt c).toNat ++ bytesOfNat 4 r.cons.toNat

/-- A channel's binding: Src(a)[15:0] and, above them, Src(b)[1:0] of its RSET; where the latter lie, R150 does not say
(log entry 91). -/
def bindWord (b : Option ChanBind) : Word :=
  match b with
  | none => 0
  | some b => 0#46 ++ (if b.recv then 3#2 else 1#2) ++ b.port ++ b.peer

/-- The gang state's first doubleword (R229). -/
def Gang.word (g : Gang) : Word :=
  g.ownCtx ++ g.mask ++ 0#5 ++ BitVec.ofBool g.rjw ++ BitVec.ofBool g.det ++ BitVec.ofBool g.isIn ++ g.pos ++ g.leader

/-- The counts at 0x52E8 and 0x52F0. -/
def Ctx.portCounts (k : Ctx) : List Byte :=
  let ports := k.ports.toList
  let counts := ports.map fun p => BitVec.ofNat 8 (p.part.length + 16 * p.results.length)
  let chans := k.chans.toList.foldr (fun c v => c.held.length + 16 * v) 0
  counts ++ bytesOfNat 4 chans ++ ports.flatMap fun p => bytesOfNat 2 p.places

/-- Offsets 0x0000 to 0x51FF: the register files. -/
def Ctx.files (k : Ctx) : List Byte :=
  (List.range 32).flatMap (fun i => dword (k.readX (BitVec.ofNat 5 i)))
    ++ k.v.toList.flatMap (fun v => bytesOfNat 128 v.toNat)
    ++ (List.range 8).flatMap (fun i => bytesOfNat 16 (k.readP (BitVec.ofNat 3 i)).toNat)
    ++ k.tf.toList.flatMap (fun f => bytesOfNat 8 f.bits.toNat ++ dword f.errAddr)
    ++ k.t.toList.flatMap (fun t => t.toList.flatMap fun r => bytesOfNat 128 r.toNat)

/-- Offsets 0x5200 to 0x537F. -/
def State.imageQueues (s : State) (c : Core) (k : Ctx) : List Byte :=
  padTo 64 (dwords k.hist) ++ padTo 64 (dwords k.trapHist) ++ padTo 16 (dwords k.hold) ++ dwords k.ba.toList
    ++ k.loops.toList.flatMap (fun l => dword l.start ++ dword l.last ++ dword (l.count.setWidth 64))
    ++ dword (BitVec.ofNat 64 (k.pend.toNat + 2 ^ 32 * (s.copiesOf ⟨c.id, k.self⟩ % 32)))
    ++ k.portCounts ++ List.replicate 8 0
    ++ k.rings.toList.flatMap (ringBytes c)

/-- Offsets 0x5380 to 0x5FFF. -/
def Ctx.imageRest (k : Ctx) (c : Core) : List Byte :=
  dwords [k.pc, k.statusWord, k.tvec, k.epc, k.ecause.setWidth 64, k.evalue, k.mseq.setWidth 64, k.ydeadline.setWidth 64,
      k.rxwatch.setWidth 64, k.xphaseWord, c.tracectlWord k, k.dumpBase, k.ctxid.setWidth 64, k.instret, k.tapeBase,
      k.tapeLim, k.tapePos, k.dstatWord]
    ++ dwords k.dbase.toList ++ dwords (k.dlen.toList.map fun l => l.setWidth 64) ++ dwords k.dadj.toList
    ++ dwords (k.chans.toList.map fun c => bindWord c.bind)
    ++ padTo 64 (dwords [k.gang.word, k.gang.rejoin, k.gang.leadCtx.setWidth 64])
    ++ k.ports.toList.flatMap (fun p => padTo 64 (dwords p.part) ++ padTo 64 (dwords p.results))
    ++ k.chans.toList.flatMap (fun c => padTo 64 (dwords c.held))
    ++ List.replicate 1712 0

/-- The image of a context of a core. -/
def State.image (s : State) (c : Core) (k : Ctx) : List Byte := k.files ++ s.imageQueues c k ++ k.imageRest c

end Sys2Proof.Machine
end

