-- ==== Sys2Proof/Machine/Dump.lean ====
section
/-! DEFINITION. The hardware dump (R75, R215 to R218, R279). -/

namespace Sys2Proof.Machine

/-- The size of a dump area. -/
def dumpSize : Nat := 112 * 1024

/-- Who checks and writes the area: a KERNEL access of the context (R75). -/
def State.dumpAsker (s : State) (id : CoreId) : Asker := ⟨some id, clusterOf id, s.tenantOf id, false, false⟩

/-- The places of the area's pages, or none where one is not reachable. -/
def State.dumpPages (s : State) (id : CoreId) (base : Word) : Option (List ((Word × Nat) × Phys)) :=
  (spans base dumpSize).mapM fun p =>
    match s.xlate (s.dumpAsker id) .load false p.1, s.xlate (s.dumpAsker id) .store false p.1 with
    | .ok (a, _), .ok (b, _) =>
      if a = b && !a.own && (regionOf a.pa == .pool || regionOf a.pa == .stackMem) then some (p, a) else none
    | _, _ => none

/-- Why no dump is written (R216 step 6), or where it goes. -/
def State.dumpPlace (s : State) (id : CoreId) (base : Word) : Except (BitVec 2) (List ((Word × Nat) × Phys)) :=
  if base = 0 then .error 0
  else match s.dumpPages id base with
    | none => .error 1
    | some ps =>
      let pa := (ps.head?.map fun p => p.2.pa).getD 0
      if s.failing pa 8 then .error 2
      else if (s.byteAt (canon pa)).getLsbD 0 then .error 3
      else .ok ps

/-- Writes bytes over the pages of the area. -/
def State.dumpBytes (s : State) : List ((Word × Nat) × Phys) → List Byte → State
  | [], _ => s
  | ((_, n), p) :: r, bs => (s.poke (canon p.pa) (bs.take n)).dumpBytes r (bs.drop n)

/-! ## The records -/

/-- A registration's 16 bytes (R279). -/
def regBytes (h : BitVec 12) (g : Huddle) (r : HReg) : List Byte :=
  bytesOfNat 2 (h.toNat + 2 ^ 12 * r.mode.toNat + 2 ^ 14 * r.arr.toNat + 2 ^ 15 * r.wt.toNat) ++ [0, 0]
    ++ bytesOfNat 4 r.ap.toNat ++ bytesOfNat 4 g.phase.toNat ++ bytesOfNat 2 g.expect ++ bytesOfNat 2 g.arrived

/-- The registrations of a context, by rising huddle id. -/
def State.regsOf (s : State) (w : Who) : List (List Byte) :=
  s.dies.flatMap fun d => d.2.huddles.filterMap fun g =>
    (g.2.member w).map fun r => regBytes (BitVec.ofNat 2 d.1 ++ BitVec.ofNat 10 g.1) g.2 r

/-- The barrier record: XPHASE, and the domain huddle's PHASE, EXPECT and ARRIVED. -/
def State.barrierBytes (s : State) (k : Ctx) : List Byte :=
  let g := s.huddle k.domain
  padTo 64 (dword k.xphaseWord ++ bytesOfNat 4 g.phase.toNat ++ bytesOfNat 2 g.expect ++ bytesOfNat 2 g.arrived)

/-- The header, with STATE and TAG as given (R217). -/
def State.dumpHeader (s : State) (c : Core) (k : Ctx) (d : Death) (dseq : Word) (regs : Nat) (state : Word) (tag : BitVec 128) : List Byte :=
  let other := c.shadow.life != .idle
  let kept := min regs 228
  let cycle := if d.cause = 0x0C then d.members else 0
  let contents := other.toNat + 2 * (decide (228 < regs)).toNat + 4 * (decide (0 < cycle)).toNat
    + 8 * (decide (64 < cycle)).toNat + 2 ^ 8 * kept + 2 ^ 16 * (regs % 2 ^ 16)
  padTo 256 (dwords [state, d.time,
      BitVec.ofNat 64 (d.cause.toNat + 2 ^ 8 * k.ecause.toNat + 2 ^ 16 * k.trapBit.toNat), d.value, k.pc,
      k.ctxid ++ 0#18 ++ BitVec.ofBool c.frontSlot ++ c.id,
      0#38 ++ s.pkgid ++ 0#10 ++ s.tenantOf c.id, BitVec.ofNat 64 contents, BitVec.ofNat 64 cycle, dseq]
    ++ bytesHigh 16 tag ++ bytesOfNat 16 s.salt.toNat)

/-- The body in clear (R215). -/
def State.dumpBody (s : State) (c : Core) (k : Ctx) (d : Death) : List Byte :=
  let cycle := if d.cause = 0x0C then (d.list.take 64).flatMap fun id => bytesOfNat 2 id.toNat else []
  s.barrierBytes k ++ padTo 128 cycle ++ padTo 3648 (((s.regsOf ⟨c.id, k.self⟩).take 228).flatten)
    ++ s.image c k ++ (if c.shadow.life = .idle then List.replicate 24576 0 else s.image c c.shadow)
    ++ s.mem.readBytes (localPa c.id 0) 49152
    ++ c.trace.toList.flatMap (fun e => bytesOfNat 16 e.toNat) ++ List.replicate 4096 0

/-- The info string of R218: EWESYN DUMP, SALT, DSEQ. -/
def dumpInfo (salt : BitVec 128) (dseq : Word) : List Byte :=
  [0x45, 0x57, 0x45, 0x53, 0x59, 0x4E, 0x20, 0x44, 0x55, 0x4D, 0x50] ++ bytesOfNat 16 salt.toNat ++ bytesOfNat 8 dseq.toNat

/-- The key of a dump (R218). -/
def dumpKeyOf (tenant : BitVec 6) (salt : BitVec 128) (dseq : Word) : BitVec 256 :=
  hkdf (Config.dumpKey tenant) (dumpInfo salt dseq)

/-- Writes the dump: the body, then the header, STATE.FULL last. -/
def State.writeDump (s : State) (c : Core) (k : Ctx) (d : Death) (ps : List ((Word × Nat) × Phys)) : State :=
  let dseq := s.dseq + 1
  let s := { s with dseq := dseq }
  let regs := (s.regsOf ⟨c.id, k.self⟩).length
  let nonce : BitVec 96 := dseq ++ c.id.setWidth 32
  let sealed := gcmSeal (dumpKeyOf (s.tenantOf c.id) s.salt dseq) nonce
    (s.dumpHeader c k d dseq regs 0 0) (s.dumpBody c k d)
  s.dumpBytes ps (s.dumpHeader c k d dseq regs 0x101 sealed.2 ++ padTo (dumpSize - 256) sealed.1)

/-- The dump of a core whose front context died: R216 steps 3 to 7. It waits for the context's commands. -/
def State.endDeath (s : State) (id : CoreId) (d : Death) : State :=
  let c := s.getCore id
  let k := c.front
  let w : Who := ⟨id, k.self⟩
  let tenant := s.tenantOf id
  let out : State × Option Nat × BitVec 2 := match s.dumpPlace id k.dumpBase with
    | .error r => (s, none, r)
    | .ok ps => (s.writeDump c k d ps, ps.head?.map fun p => p.2.pa, 0)
  let s := out.1
  let s := s.modCore id fun c => { c with holding := false }
  let s : State := s.dropAll w
  let s : State := match k.task with
    | some t => s.failTask w t
    | none => s
  let s : State := { s with notices := s.notices ++ [Notice.mk d.cause id tenant out.2.1 out.2.2] }
  let s := s.modCore id fun c => { c with front := { c.front with life := .idle, task := none } }
  s.settle id

def execHardwareDump (s : State) : Host.Outcome State Fault Refusal :=
  match s.due with
  | ⟨.hardwareDump id, _⟩ :: rest =>
    let k := (s.getCore id).front
    match k.life with
    | .dead d => if s.outstanding ⟨id, k.self⟩ then .next s else .next (({ s with due := rest } : State).endDeath id d)
    | _ => .next { s with due := rest }
  | _ => .next s

end Sys2Proof.Machine
end

