-- ==== Sys2Proof/Machine/Huddle.lean ====
section
/-! DEFINITION. Huddle instructions, OP 47 (R275 to R278). Each makes its updates of the huddle; the completion test
follows at the end of the cycle, once all of its updates are made (R277). -/

namespace Sys2Proof.Machine

def huddleFault {α : Type} (h : BitVec 12) : M α := trap 0x0F (BitVec.ofNat 64 (huddleNo h))

/-- A huddle id: its high bits (R275). -/
def huddleBits (word : Word) (x : Word) : M (BitVec 12) := do
  guardTrap (x.extractLsb' 12 52 == 0) 0x01 word
  return x.setWidth 12

/-- A huddle of the context's tenant (R274, R275). -/
def huddleId (word : Word) (x : Word) : M (BitVec 12) := do
  let h ← huddleBits word x
  let s ← get
  guardTrap (s.ownsHuddle h s.tenant) 0x06 word
  return h

/-- The registration of the context, in one of the modes that the instruction takes. -/
def memberOf (h : BitVec 12) (ok : BitVec 2 → Bool) : M HReg := do
  let s ← get
  match (s.huddle h).member s.who with
  | some r => if ok r.mode then return r else huddleFault h
  | none => huddleFault h

def setHuddleM (h : BitVec 12) (f : Huddle → Huddle) : M Unit := modify fun s => s.setHuddle h (f (s.huddle h))

/-- What a wait on a huddle leaves behind (R276, R278). -/
def State.atBarrier (s : State) (i : Instr) (h : BitVec 12) (compute : Bool) : State :=
  s.mapCtx fun k => { k with progress := .barrier i h compute }

/-- HREG. -/
def execHreg (d a b : Opnd) (s : State) : Host.Outcome State Fault Refusal :=
  unit (do
    let w := wordOf (.hreg d a b)
    let x ← src a
    let m ← src b
    let h ← huddleId w x
    let s ← get
    let g := s.huddle h
    if m = 0 || 3 < m.toNat || (g.member s.who).isSome || 256 ≤ s.registrations s.who || 8192 ≤ s.dieRegistrations (huddleDie h) then
      huddleFault h
    setHuddleM h fun g => g.register s.who (m.setWidth 2)
    dst w d (g.phase.setWidth 64)
    next) s

/-- HDROP. -/
def execHdrop (a : Opnd) (s : State) : Host.Outcome State Fault Refusal :=
  unit (do
    let x ← src a
    let h ← huddleId (wordOf (.hdrop a)) x
    let _ ← memberOf h fun _ => true
    let s ← get
    setHuddleM h fun g => g.drop s.who
    next) s

/-- HARR: a member that has arrived in the current phase waits until it changes. -/
def execHarr (d a : Opnd) (s : State) : Host.Outcome State Fault Refusal :=
  unit (do
    let i : Instr := .harr d a
    let x ← src a
    let h ← huddleId (wordOf i) x
    let r ← memberOf h (· != 2)
    if r.held.isSome || r.arr then wait fun s => s.atBarrier i h false
    let s ← get
    let g := s.huddle h
    setHuddleM h fun g => g.arrive s.who
    dst (wordOf i) d (g.phase.setWidth 64)
    next) s

/-- HWAIT. -/
def execHwait (d a b : Opnd) (s : State) : Host.Outcome State Fault Refusal :=
  unit (do
    let i : Instr := .hwait d a b
    let x ← src a
    let h ← huddleId (wordOf i) x
    let r ← memberOf h (· != 1)
    let t ← src b
    let s ← get
    let g := s.huddle h
    if r.held.isSome || !reaches g.phase (t.setWidth 32) then
      wait fun s => (s.setHuddle h ((s.huddle h).modMember s.who fun r => { r with goal := t.setWidth 32 })).atBarrier i h false
    dst (wordOf i) d (g.phase.setWidth 64)
    next) s

/-- HSYNC on a huddle: one arrival, recorded in the registration, and the wait for the phase after it. What the
wait leaves behind passes through `mark`. -/
def syncOn (i : Instr) (h : BitVec 12) (compute : Bool) (mark : State → State) : M Unit := do
  let r ← memberOf h (· == 3)
  let s ← get
  let g := s.huddle h
  let stay (s : State) : State := (mark s).atBarrier i h compute
  if r.held.isSome then wait stay
  else if r.wt then
    if g.phase = r.ap then wait stay
    else setHuddleM h fun g => g.modMember s.who fun r => { r with wt := false }
  else if r.arr then wait stay
  else
    wait fun s =>
      let s := stay s
      s.setHuddle h (((s.huddle h).arrive s.who).modMember s.who fun r => { r with wt := true })

/-- HSYNC. -/
def execHsync (d a : Opnd) (s : State) : Host.Outcome State Fault Refusal :=
  unit (do
    let i : Instr := .hsync d a
    let x ← src a
    let h ← huddleId (wordOf i) x
    syncOn i h false id
    let s ← get
    dst (wordOf i) d ((s.huddle h).phase.setWidth 64)
    next) s

/-- HDARR: an arrival, where none was made in this phase, and the drop, in one update; it never waits. -/
def execHdarr (d a : Opnd) (s : State) : Host.Outcome State Fault Refusal :=
  unit (do
    let w := wordOf (.hdarr d a)
    let x ← src a
    let h ← huddleId w x
    let r ← memberOf h (· != 2)
    let s ← get
    let g := s.huddle h
    if !r.arr then setHuddleM h fun g => g.arrive s.who
    setHuddleM h fun g => g.drop s.who
    dst w d ((if r.arr then r.ap else g.phase).setWidth 64)
    next) s

end Sys2Proof.Machine
end

