-- ==== Sys2Proof/Machine/Superstep.lean ====
section
/-! DEFINITION. Supersteps, OP 48 (R280 to R285), the release of a huddle's members (R278) and the arrival of
an exchange payload (R284). -/

namespace Sys2Proof.Machine

/-! ## XTAB -/

/-- An exchange slot entry (R281), where its fields are in range. -/
def xslotOf (bs : List Byte) (i : Nat) : Option XSlot :=
  let lo := dwordAt bs (16 * i)
  let hi := dwordAt bs (16 * i + 8)
  let core := lo.extractLsb' 32 16
  let bytes := lo.extractLsb' 48 16
  let src := hi.extractLsb' 0 16
  if core.extractLsb' 4 12 == 0 && bytes.extractLsb' 0 6 == 0 && bytes != 0 && decide (bytes.toNat ≤ 4096)
      && src.extractLsb' 0 6 == 0 && decide (src.toNat + bytes.toNat ≤ 0xC000) && hi.extractLsb' 16 16 == 0
      && hi.extractLsb' 32 6 == 0 && hi.extractLsb' 61 3 == 0 then
    some ⟨lo.extractLsb' 0 32, core.extractLsb' 0 4, bytes, src, hi.extractLsb' 32 29⟩
  else none

/-- The first entry of 16 bytes, of n, that meets an uncorrectable error at a place. -/
def State.failingEntry (s : State) (pa n : Nat) : Option Nat := (List.range n).find? fun i => s.failing (pa + 16 * i) 16

/-- The entries of each page in turn (R282): its translation and permission, then its bytes, so that the lowest entry's
failure comes first, EVALUE its address. -/
def loadEntries : List (Word × Nat) → M (List Byte)
  | [] => return []
  | (a, n) :: r => do
    let ps ← checkAll .load false [a]
    let k ← ctx
    let parts := [(a, n)].zip ps
    parts.forM (spanDh k)
    let s ← get
    parts.forM fun x => match (if regionOf x.2.pa == .fabric then none else s.failingEntry x.2.pa (n / 16)) with
      | some i => trap 0x0A (a + BitVec.ofNat 64 (16 * i))
      | none => pure ()
    let bs ← loadSpans parts
    let rest ← loadEntries r
    return bs ++ rest

def execXtab (a b : Opnd) (s : State) : Host.Outcome State Fault Refusal :=
  unit (do
    let k ← ctx
    guardTrap (k.phase != 3) 0x0D (BitVec.allOnes 64)
    let x ← src a
    let n ← src b
    guardTrap (x.toNat % 16 == 0) 0x03 x
    guardTrap (decide (1 ≤ n.toNat) && decide (n.toNat ≤ 256)) 0x01 (wordOf (.xtab a b))
    let bs ← loadEntries (spans x (16 * n.toNat))
    let es := (List.range n.toNat).map (xslotOf bs)
    match es.findIdx? (·.isNone) with
    | some i => trap 0x0D (BitVec.ofNat 64 i)
    | none =>
      modCore fun c => { c with slots := es.filterMap id, slotTag := some k.ctxid }
      traceCommandVa x
      next) s

/-! ## XSEND -/

/-- The first byte past local memory of n bytes from a local address (R201 step 4). -/
def firstOutside (off : Nat) : Word := BitVec.ofNat 64 (max off 0xC000)

/-- The physical window address of a core's local byte (R201 step 5). -/
def windowVa (id : CoreId) (off : Nat) : Word := BitVec.ofNat 64 (localPa id off)

def execXsend (a : Opnd) (s : State) : Host.Outcome State Fault Refusal :=
  unit (do
    let i ← src a
    let s ← get
    let k := s.ctx
    guardTrap (k.phase == 3) 0x0D i
    match (if s.core.slotTag = some k.ctxid then s.core.slots[i.toNat]? else none) with
    | none => trap 0x0D (BitVec.allOnes 64)
    | some e =>
      let dst := e.dst.extractLsb' 16 13
      let off := (e.dst.extractLsb' 0 16).toNat
      guardTrap (e.core == coreNo s.core.id) 0x0D i
      guardTrap (decide (off + e.bytes.toNat ≤ 0xC000)) 0x1A (firstOutside off)
      guardTrap (s.tenantOf dst == s.tenant) 0x06 (windowVa dst off)
      let t := k.slotBase + e.cycle.toNat
      guardTrap (decide (s.cycle.toNat ≤ t) || k.progress == .slot t) 0x0D i
      if s.cycle.toNat < t then wait fun s => s.mapCtx fun k => { k with progress := .slot t }
      else
        guardTrap (!s.failing (localPa s.core.id e.src.toNat) e.bytes.toNat) 0x0A (e.src.setWidth 64)
        let data := s.view (localPa s.core.id e.src.toNat) e.bytes.toNat
        modify fun s => s.enqueue (.xsendArrival s.who dst (e.dst.extractLsb' 0 16) data)
        traceCommand (windowVa dst off) 2
        next) s

/-- An exchange payload lands, once arrivals are not held (R216). -/
def execXsendArrival (s : State) : Host.Outcome State Fault Refusal :=
  match s.due with
  | ⟨.xsendArrival w dst off data, c⟩ :: rest =>
    let s := { s with due := rest }
    if (s.getCore dst).holding then .next (s.enqueue (.xsendArrival w dst off data) c)
    else .next (s.arrival w.core dst off.toNat data).1
  | _ => .next s

/-! ## SSTEP (R283) -/

/-- XPHASE after a release: 0 in every bit where PHASE becomes 0. -/
def Ctx.enterPhase (k : Ctx) (p : BitVec 2) : Ctx :=
  if p = 0 then { k with phase := 0, domain := 0 } else { k with phase := p }

/-- Has every XSEND of the strand been written at its destination? -/
def State.sendsLanded (s : State) (w : Who) : Bool :=
  !s.due.any fun d => match d.act with
    | .xsendArrival w' _ _ _ => w' == w
    | _ => false

def execSstep (d a : Opnd) (e : Bool) (s : State) : Host.Outcome State Fault Refusal :=
  unit (do
    let i : Instr := .sstep d a e
    let x ← src a
    let h ← huddleBits (wordOf i) x
    let s ← get
    let k := s.ctx
    if k.phase = 0 then
      if !e then modCtx fun k => { k with phase := 1, domain := h }
      dst (wordOf i) d (if e then 0 else 1)
      next
    else
      if h != k.domain then huddleFault h
      let _ ← memberOf h (· == 3)
      let compute := match k.progress with
        | .barrier _ _ c => c
        | _ => k.phase == 1
      if k.phase = 3 && !s.sendsLanded s.who then wait
      else
        syncOn i h compute fun s => s.mapCtx fun k => { k with phase := 2 }
        let p : BitVec 2 := if e then 0 else if compute then 3 else 1
        modCtx fun k => { k.enterPhase p with slotBase := if p = 3 then s.cycle.toNat else k.slotBase }
        dst (wordOf i) d (p.setWidth 64)
        return { after := fun s => s.settle s.core.id }) s

/-! ## The release (R278) -/

/-- The meaning of the instruction that waits on a huddle. -/
def rerunBarrier (i : Instr) (s : State) : Host.Outcome State Fault Refusal :=
  match i with
  | .harr d a => execHarr d a s
  | .hwait d a b => execHwait d a b s
  | .hsync d a => execHsync d a s
  | .sstep d a e => execSstep d a e s
  | _ => .next s

/-- Retires the waiting instruction of every member that waits in its front slot; a gang's followers go with
their leader. -/
def releaseMembers (h : BitVec 12) : List Who → State → Host.Outcome State Fault Refusal
  | [], s => .next s
  | w :: r, s =>
    let k := (s.getCore w.core).front
    if s.waitsAt h w && !k.follows && decide ((s.getCore w.core).busy ≤ s.cycle.toNat) then
      match k.progress with
      | .barrier i _ _ =>
        match rerunBarrier i (s.focus w.core) with
        | .next s => releaseMembers h r s
        | o => o
      | _ => releaseMembers h r s
    else releaseMembers h r s

/-- The act HUDDLE_RELEASE. -/
def execHuddleRelease (s : State) : Host.Outcome State Fault Refusal :=
  match s.due with
  | ⟨.huddleRelease die n, _⟩ :: rest =>
    let s := { s with due := rest }
    let h : BitVec 12 := die ++ n
    let g := s.huddle h
    let now (r : HReg) : Bool := match r.held with
      | some t => decide (t ≤ s.cycle.toNat)
      | none => false
    let ws := (g.regs.filter now).map (·.who)
    releaseMembers h ws (s.setHuddle h { g with regs := g.regs.map fun r => if now r then { r with held := none } else r })
  | _ => .next s

end Sys2Proof.Machine
end

