-- ==== Sys2Proof/Machine/Events.lean ====
section
/-! DEFINITION. Events, OP 27 (R197 to R206), and what arrives and expires on a core: messages, launches, probes
and verdicts, the swap countdown, spills and fills (R202, R207 to R214). -/

namespace Sys2Proof.Machine

/-! ## SEND and SENDM (R200, R201) -/

/-- The outgoing buffer takes a message or a launch; while it holds 8, the instruction waits. -/
def post (m : OutMsg) (act : CoreId → Act) : M Unit := do
  let s ← get
  if 8 ≤ s.core.outbox.length then wait
  modify fun s => (s.mapFocus fun c => { c with outbox := c.outbox ++ [m] }).enqueue (act s.core.id)

/-- The checks of a descriptor (R201 steps 2 to 6): n bytes go to DADDR of CORE; `source` is SENDM's. -/
def messageChecks (word d : Word) (lenOk : Bool) (align n : Nat) (source : Option Word) : M Unit := do
  let off := (d.extractLsb' 0 16).toNat
  let dest : CoreId := d.extractLsb' 20 13
  guardTrap (lenOk && d.extractLsb' 40 24 == 0) 0x01 word
  guardTrap (off % align == 0) 0x03 (BitVec.ofNat 64 off)
  match source with
  | some a => guardTrap (a.toNat % 64 == 0) 0x03 a
  | none => pure ()
  guardTrap (decide (off + n ≤ 0xC000)) 0x1A (firstOutside off)
  match source with
  | some a => guardTrap (decide (a.toNat + n ≤ 0xC000)) 0x1A (firstOutside a.toNat)
  | none => pure ()
  let s ← get
  guardTrap (s.tenantOf dest == s.tenant) 0x06 (windowVa dest off)
  guardTrap (s.ctx.phase != 1) 0x0E (dest.setWidth 64)

/-- The message itself, and its trace entry (R377). -/
def sendMessage (d : Word) (full : Bool) (data : List Byte) : M Unit := do
  let dest : CoreId := d.extractLsb' 20 13
  post (.msg dest (d.extractLsb' 0 16) (d.extractLsb' 16 4) full data) fun me => .messageArrival me dest
  traceCommand (windowVa dest (d.extractLsb' 0 16).toNat) 2

def execSend (a b : Opnd) (s : State) : Host.Outcome State Fault Refusal :=
  unit (do
    let d ← src a
    messageChecks (wordOf (.send a b)) d (d.extractLsb' 33 7 == 0) 8 8 none
    let v ← src b
    sendMessage d false (bytesOfNat 8 v.toNat)
    next) s

def execSendm (a b : Opnd) (f : Bool) (s : State) : Host.Outcome State Fault Refusal :=
  unit (do
    let d ← src a
    let v ← src b
    let len := (d.extractLsb' 33 7).toNat
    messageChecks (wordOf (.sendm a b f)) d (decide (1 ≤ len) && decide (len ≤ 64)) 64 (64 * len) (some v)
    let s ← get
    guardTrap (!s.failing (localPa s.core.id v.toNat) (64 * len)) 0x0A v
    sendMessage d f (s.view (localPa s.core.id v.toNat) (64 * len))
    next) s

/-! ## LAUNCH (R206) -/

def execLaunch (a : Opnd) (s : State) : Host.Outcome State Fault Refusal :=
  unit (do
    let x ← src a
    let ws ← readLaunchRec (wordOf (.launch a)) x
    let r := launchRecOf ws
    let s ← get
    guardTrap (s.tenantOf r.target == s.tenant) 0x06 (windowVa r.target 0)
    guardTrap (s.ctx.phase != 1) 0x0E (r.target.setWidth 64)
    post (.launch r) fun me => .launchArrival me r.target
    traceCommandVa x
    next) s

/-! ## Counters (R203, R204) -/

def execWait (d : Opnd) (k : BitVec 4) (b : Opnd) (s : State) : Host.Outcome State Fault Refusal :=
  unit (do
    let t ← src b
    let s ← get
    let c := s.core.counter k
    if reaches c.val (t.setWidth 32) then
      dst (wordOf (.wait d k b)) d (c.val.setWidth 64)
      next
    else waitReceive (.counter k (t.setWidth 32))) s

/-- The counters of a mask that reach a threshold. -/
def Core.reached (c : Core) (m : BitVec 16) (t : BitVec 32) : BitVec 16 :=
  (List.range 16).foldl (fun r j =>
    if m.getLsbD j && reaches (c.counter (BitVec.ofNat 4 j)).val t then r ||| (1#16 <<< j) else r) 0

def execWaitany (d a b : Opnd) (s : State) : Host.Outcome State Fault Refusal :=
  unit (do
    let w := wordOf (.waitany d a b)
    let m ← src a
    let t ← src b
    guardTrap (m.extractLsb' 16 48 == 0 && m.extractLsb' 0 16 != 0) 0x01 w
    let s ← get
    let r := s.core.reached (m.setWidth 16) (t.setWidth 32)
    if r != 0 then
      dst w d (r.setWidth 64)
      next
    else waitReceive (.any (m.setWidth 16) (t.setWidth 32))) s

def execCtrset (k : BitVec 4) (a b : Opnd) (s : State) : Host.Outcome State Fault Refusal :=
  unit (do
    let v ← src a
    let t ← src b
    guardTrap (t.extractLsb' 14 50 == 0) 0x01 (wordOf (.ctrset k a b))
    modCore fun c => c.setCounter k ⟨v.setWidth 32, t.setWidth 14⟩
    next) s

def execCtradd (k : BitVec 4) (a : Opnd) (s : State) : Host.Outcome State Fault Refusal :=
  unit (do
    let v ← src a
    modCore fun c => c.raise k (v.setWidth 32)
    next) s

/-! ## Arrivals (R202, R207) -/

/-- Takes the first entry of a list that meets a condition: it, and the list without it. -/
def takeFirst {α : Type} (p : α → Bool) : List α → Option (α × List α)
  | [] => none
  | x :: r => if p x then some (x, r) else (takeFirst p r).map fun y => (y.1, x :: y.2)

/-- A message lands: its payload, then its lines, then its counter; or nothing of it, in compute (R285). -/
def State.landMessage (s : State) (from' dst : CoreId) (off : BitVec 16) (ctr : BitVec 4) (full : Bool) (data : List Byte) : State :=
  match s.arrival from' dst off.toNat data with
  | (s, false) => s
  | (s, true) =>
    s.modCore dst fun c =>
      (if full then c.setLines true (off.toNat / 128) ((off.toNat + data.length - 1) / 128 - off.toNat / 128 + 1) else c).raise ctr

/-- The act MESSAGE_ARRIVAL: the oldest message from one core to another; it waits in its sender's buffer while
arrivals are held (R216). -/
def execMessageArrival (s : State) : Host.Outcome State Fault Refusal :=
  match s.due with
  | ⟨.messageArrival me dst, _⟩ :: rest =>
    if (s.getCore dst).holding then .next s
    else
      let s := { s with due := rest }
      let mine (m : OutMsg) : Bool := match m with
        | .msg d .. => d == dst
        | .launch _ => false
      match takeFirst mine (s.getCore me).outbox with
      | some (.msg _ off ctr full data, box) =>
        .next ((s.modCore me fun c => { c with outbox := box }).landMessage me dst off ctr full data)
      | _ => .next s
  | _ => .next s

/-- The act LAUNCH_ARRIVAL: the launch waits in its sender's buffer while the queue is full. -/
def execLaunchArrival (s : State) : Host.Outcome State Fault Refusal :=
  match s.due with
  | ⟨.launchArrival me dst, _⟩ :: rest =>
    let s' := { s with due := rest }
    let mine (m : OutMsg) : Bool := match m with
      | .launch r => r.target == dst
      | .msg .. => false
    match takeFirst mine (s.getCore me).outbox with
    | some (.launch r, box) =>
      match (s'.modCore me fun c => { c with outbox := box }).acceptLaunch r with
      | some s => .next s
      | none => .next s
    | _ => .next s'
  | _ => .next s

/-- The act LAUNCH_QUEUE_START: the oldest queued launch takes the slot that is idle. -/
def execLaunchQueueStart (s : State) : Host.Outcome State Fault Refusal :=
  match s.due with
  | ⟨.launchQueueStart id, _⟩ :: rest =>
    let s := { s with due := rest }
    match (s.getCore id).launchQ with
    | [] => .next s
    | r :: q =>
      match s.placeLaunch r with
      | some s => .next ((s.modCore id fun c => { c with launchQ := q }).settle id)
      | none => .next s
  | _ => .next s

/-! ## Cyclic receives (R209, R210) -/

/-- Has what the context waits for come? -/
def Core.met (c : Core) (r : Recv) : Bool :=
  match r with
  | .counter k t => reaches (c.counter k).val t
  | .any m t => c.reached m t != 0
  | .ring h n => match c.front.rings.get h.toFin with
    | some r => decide (n ≤ r.filled c)
    | none => true
  | .chan q n => decide (n ≤ (c.front.chans.get q.toFin).held.length)

/-- The core that every counter of a mask names, where all are tagged with one. -/
def Core.anyEdge (c : Core) (m : BitVec 16) : Option CoreId :=
  match ((List.range 16).filter fun j => m.getLsbD j).map fun j => (c.counter (BitVec.ofNat 4 j)).edge with
  | some e :: r => if r.all (· == some e) then some e else none
  | _ => none

/-- The wait-for edge of a receive. -/
def Core.edgeOf (c : Core) (r : Recv) : Option CoreId :=
  match r with
  | .counter k _ => (c.counter k).edge
  | .any m _ => c.anyEdge m
  | .ring h _ => match c.front.rings.get h.toFin with
    | some r => if r.bound then (c.counter r.ctr).edge else none
    | none => none
  | .chan q _ => ((c.front.chans.get q.toFin).bind).map (·.peer)

/-- The receive in which the front context of a core waits. -/
def Core.receiving (c : Core) : Option Recv :=
  match c.front.progress with
  | .receive r => if c.front.issues && !c.met r then some r else none
  | _ => none

/-- A probe leaves a core along its edge; the core notes the receive it left in. -/
def State.sendProbe (s : State) (id to' origin : CoreId) (n : Nat) (low : CoreId) (seen : List CoreId) : State :=
  (s.modCore id fun c => { c with probed := some (c.front.ctxid, c.front.pc) }).enqueue (.probe to' origin n low seen)

/-- The act RXWATCH_EXPIRY: a probe, where the receive has an edge, and the watchdog armed again. -/
def execRxwatchExpiry (s : State) : Host.Outcome State Fault Refusal :=
  match s.due with
  | ⟨.rxwatchExpiry id, t⟩ :: rest =>
    let s := { s with due := rest }
    let c := s.getCore id
    if c.watchdog = t && t.isSome then
      match c.receiving with
      | none => .next (s.modCore id fun c => { c with watchdog := none })
      | some r =>
        let s := match c.edgeOf r with
          | some e => s.sendProbe id e id 1 id [id]
          | none => s
        let t := s.cycle.toNat + c.front.rxwatch.toNat
        if c.front.rxwatch = 0 then .next (s.modCore id fun c => { c with watchdog := none })
        else .next ((s.modCore id fun c => { c with watchdog := some t }).enqueue (.rxwatchExpiry id) (some t))
    else .next s
  | _ => .next s

/-- The act PROBE: forwarded, discarded, or home at its origin. -/
def execProbe (s : State) : Host.Outcome State Fault Refusal :=
  match s.due with
  | ⟨.probe id origin n low seen, _⟩ :: rest =>
    let s := { s with due := rest }
    let c := s.getCore id
    if id = origin then .next (s.enqueue (.verdict low n seen))
    else if seen.contains id || 8192 ≤ n then .next s
    else match c.receiving with
      | none => .next s
      | some r => match c.edgeOf r with
        | none => .next s
        | some e =>
          let low := if id.toNat < low.toNat then id else low
          let seen := if seen.length < 64 then seen ++ [id] else seen
          .next (s.sendProbe id e origin (n + 1) low seen)
  | _ => .next s

/-- The act VERDICT: cause 0x0C on the receive that still waits with the CTXID and PC it had. -/
def execVerdict (s : State) : Host.Outcome State Fault Refusal :=
  match s.due with
  | ⟨.verdict id n seen, _⟩ :: rest =>
    let s := { s with due := rest }
    let c := s.getCore id
    if c.receiving.isSome && c.probed = some (c.front.ctxid, c.front.pc) then
      .next (s.verdictTrap id n seen)
    else .next s
  | _ => .next s

/-! ## Pre-emption, spills and fills (R212 to R214) -/

/-- The act SWAP_COUNTDOWN_EXPIRY: a forced swap is due, where one is still requested (R213). -/
def execSwapCountdownExpiry (s : State) : Host.Outcome State Fault Refusal :=
  match s.due with
  | ⟨.swapCountdownExpiry id, t⟩ :: rest =>
    let s := { s with due := rest }
    let c := s.getCore id
    if c.countdown = t && t.isSome then .next (s.modCore id fun c => { c with countdown := none, swapDue := if c.requested then .since s.cycle.toNat else .no })
    else .next s
  | _ => .next s

/-- May the spill engine take the shadow context (R214, R228)? -/
def Core.spillable (c : Core) : Bool :=
  (match c.shadow.life with
    | .live | .notReady | .draining => true
    | .idle | .dead _ => false)
  && !(c.shadow.gang.gang) && c.spilling.isNone && c.filling.isNone

/-- The act SPILL: it begins where a place is free, and is refused elsewhere. The context that leaves requests no swap any
longer (R212). -/
def execSpill (s : State) : Host.Outcome State Fault Refusal :=
  match s.due with
  | ⟨.spill id, _⟩ :: rest =>
    let s := { s with due := rest }
    let c := s.getCore id
    match (if c.spillable then (List.range 4).find? fun i => (c.save.getD i none).isNone else none) with
    | none => .next s
    | some i => .next ((s.modCore id fun c => { c with spilling := some (BitVec.ofNat 2 i), countdown := none, swapDue := .no }).enqueue (.spillComplete id))
  | _ => .next s

/-- The image of a spilled context: the partial sums are released (R192). -/
def Ctx.spilled (k : Ctx) : Ctx := { k with mseq := k.mseq &&& 0x7FF, sums := [] }

/-- The act SPILL_COMPLETE: the image is in the save area, and the shadow slot is empty. -/
def execSpillComplete (s : State) : Host.Outcome State Fault Refusal :=
  match s.due with
  | ⟨.spillComplete id, _⟩ :: rest =>
    let s := { s with due := rest }
    match (s.getCore id).spilling with
    | none => .next s
    | some i =>
      .next ((s.modCore id fun c =>
        { c with spilling := none, save := c.save.set i.toNat (some c.shadow.spilled) i.isLt,
                 shadow := { c.shadow with life := .idle, task := none } }).settle id)
  | _ => .next s

/-- The act FILL: it waits while the shadow slot is not empty. -/
def execFill (s : State) : Host.Outcome State Fault Refusal :=
  match s.due with
  | ⟨.fill id i, _⟩ :: rest =>
    let c := s.getCore id
    if c.shadow.life != .idle || c.filling.isSome then .next s
    else
      let s := { s with due := rest }
      if (c.save.get i.toFin).isSome then
        .next ((s.modCore id fun c => { c with filling := some i }).enqueue (.fillComplete id))
      else .next s
  | _ => .next s

/-- The act FILL_COMPLETE: the context is ready in the shadow slot, and a swap is requested. -/
def execFillComplete (s : State) : Host.Outcome State Fault Refusal :=
  match s.due with
  | ⟨.fillComplete id, _⟩ :: rest =>
    let s := { s with due := rest }
    let c := s.getCore id
    match c.filling with
    | none => .next s
    | some i =>
      match c.save.get i.toFin with
      | none => .next (s.modCore id fun c => { c with filling := none })
      | some k => .next ((s.modCore id fun c =>
          { c with filling := none, save := c.save.set i.toNat none i.isLt, shadow := k }).settle id)
  | _ => .next s

end Sys2Proof.Machine
end

