-- ==== Sys2Proof/Machine/Ranks.lean ====
section
/-! DEFINITION. Rank groups (R331), step contexts (R330, R333, R336), the windows of ranks (R328) and of fabric
collectives (R357), and the run of a step word. -/

namespace Sys2Proof.Machine

/-! ## Groups (R331, R356) -/

/-- The ids of a group, the coordinates in rising order, the last dimension the fastest. -/
def groupIds (base : Int) : List (Nat × Int) → List Int
  | [] => [base]
  | (n, t) :: r => (List.range n).flatMap fun (c : Nat) => groupIds (base + (c : Int) * t) r

/-- The coordinates of an id in a group. -/
def coordsOf (id base : Int) : List (Nat × Int) → Option (List Nat)
  | [] => if id = base then some [] else none
  | (n, t) :: r => (List.range n).findSome? fun (c : Nat) => (coordsOf id (base + (c : Int) * t) r).map (c :: ·)

/-- The id at some coordinates. -/
def idAt (base : Int) : List (Nat × Int) → List Nat → Int
  | (_, t) :: r, c :: cs => idAt (base + c * t) r cs
  | _, _ => base

/-- Does the group name only ids below a limit, and no id twice? -/
def Group.ok (g : Group) (limit : Nat) : Bool :=
  decide ((g.dims.map Prod.fst).prod ≤ limit) &&
  (let ids := groupIds g.base g.dims
   ids.all (fun i => decide (0 ≤ i) && decide (i < limit)) && decide ids.Nodup)

def Group.members (g : Group) : List Nat := (groupIds g.base g.dims).map Int.toNat

/-- peer(d, k) of a member; k is signed. -/
def Group.peer (g : Group) (me : Nat) (d : BitVec 2) (k : Int) : Option Nat :=
  match coordsOf me g.base g.dims with
  | none => none
  | some cs =>
    let n : Int := ((g.dims.getD d.toNat (1, 0)).1 : Nat)
    let c : Int := (cs.getD d.toNat 0 : Nat)
    some (idAt g.base g.dims (cs.set d.toNat ((c + k) % n).toNat)).toNat

/-- A dimension's field: a size of `bits` bits, zeros, and a signed stride in [31:16]. -/
def dimOf (v : Word) (hi : Bool) (bits : Nat) : Nat × Int :=
  let w : BitVec 32 := if hi then v.extractLsb' 32 32 else v.extractLsb' 0 32
  (w.toNat % 2 ^ bits, (w.extractLsb' 16 16).toInt)

/-- The four dimensions of a descriptor (R343, R356). -/
def dimsOf (v w : Word) (bits : Nat) : List (Nat × Int) := [dimOf v false bits, dimOf v true bits, dimOf w false bits, dimOf w true bits]

/-- Sizes from 1 to a greatest one, zeros between size and stride. -/
def dimsOk (v w : Word) (bits limit : Nat) : Bool :=
  (dimsOf v w bits).all (fun d => decide (1 ≤ d.1) && decide (d.1 ≤ limit))
    && [v, w].all fun x => x.toNat % 2 ^ 16 / 2 ^ bits == 0 && x.toNat / 2 ^ 32 % 2 ^ 16 / 2 ^ bits == 0

/-! ## Step contexts -/

def State.stepCtx (s : State) : StepUnit → Option StepCtx
  | .rank id => some (s.rank id.toNat)
  | .coll n => (s.fabric.colls.find? n.toNat).map (·.cx)

def State.modColl (s : State) (n : Nat) (f : CollCtx → CollCtx) : State :=
  match s.fabric.colls.find? n with
  | some c => { s with fabric := { s.fabric with colls := s.fabric.colls.set n (f c) } }
  | none => s

def State.modStep (s : State) (u : StepUnit) (f : StepCtx → StepCtx) : State :=
  match u with
  | .rank id => s.setRank id.toNat (f (s.rank id.toNat))
  | .coll n => s.modColl n.toNat fun c => { c with cx := f c.cx }

/-- RUNNING or IN STEP. -/
def StepState.isLive : StepState → Bool
  | .running | .inStep => true
  | _ => false

/-- The member that a context is: its rank id, or its package. -/
def State.memberId (s : State) : StepUnit → Nat
  | .rank id => id.toNat
  | .coll _ => s.pkgid.toNat

/-- The status of a context, in the layout of R345. -/
def StepCtx.statusWord (k : StepCtx) : Word :=
  let st : BitVec 3 := match k.state with
    | .idle => 0
    | .running => 1
    | .inStep => 2
    | .halted => 4
    | .failed => 5
  0#16 ++ k.steps ++ 0#14 ++ BitVec.ofNat 10 k.spc ++ k.reason ++ BitVec.ofBool k.wt ++ st

/-- A step fails: its staging is discarded, nothing is published, and SPC stays (R336). -/
def State.failStep (s : State) (u : StepUnit) (reason : BitVec 4) : State :=
  s.modStep u fun k => { k with state := .failed, reason := reason, wt := false, since := none, staged := [], taken := none, given := 0, advance := false }

/-- A wait of R333 or R334 begins or goes on; its time-out is due (R333). -/
def State.stepWait (s : State) (u : StepUnit) : State :=
  match s.stepCtx u with
  | none => s
  | some k =>
    if k.since.isSome then s
    else (s.modStep u fun k => { k with wt := true, since := some s.cycle.toNat }).enqueue (.peerTimeout u)
      (some (s.cycle.toNat + cyclesOf k.tmo))

/-- Control goes to an index of the step store: past its end, or at NW, the context fails with reason 5 (R330,
R359). -/
def State.stepTo (s : State) (u : StepUnit) (i : Nat) : State :=
  let stop := match u with
    | .rank _ => 1024
    | .coll n => match s.fabric.colls.find? n.toNat with
      | some c => c.nw
      | none => 1024
  if i < stop then s.modStep u fun k => { k with spc := i }
  else (s.modStep u fun k => { k with spc := min stop 1023 }).failStep u 5

/-! ## Windows -/

/-- WSIZE. -/
def State.wsize (s : State) (u : StepUnit) : Nat :=
  match u with
  | .rank id => (s.rank id.toNat).wrows * 1024
  | .coll n => match s.fabric.colls.find? n.toNat with
    | some c => 128 * c.wlines
    | none => 0

/-- check(x, n) of R333. -/
def State.stepAddrOk (s : State) (u : StepUnit) (x n : Nat) : Bool := x % 4 == 0 && decide (x + n ≤ s.wsize u)

/-- The canonical address of a window byte. -/
def State.windowPa (s : State) (u : StepUnit) (x : Nat) : Nat :=
  match u with
  | .rank id => rankToStacks id.toNat ((s.rank id.toNat).wrow * 1024 + x)
  | .coll n => match s.fabric.colls.find? n.toNat with
    | some c => localPa c.who.core (c.wbase.toNat + x)
    | none => 0

/-- The stretches of n bytes within one row each. -/
def rowSpans (x n : Nat) : List (Nat × Nat) :=
  (List.range ((x % 1024 + n + 1023) / 1024)).map fun i =>
    let a := if i = 0 then x else (x / 1024 + i) * 1024
    (a, min ((a / 1024 + 1) * 1024) (x + n) - a)

/-- pre(x, n) of R333: the bytes stand as they did when the step began, since accesses from outside are held. -/
def State.stepRead (s : State) (u : StepUnit) (x n : Nat) : List Byte :=
  (rowSpans x n).flatMap fun p => s.bytes (s.windowPa u p.1) p.2

/-- Do the step's reads meet an uncorrectable error (reason 2)? -/
def State.stepFailing (s : State) (u : StepUnit) (x n : Nat) : Bool := (rowSpans x n).any fun p => s.failing (s.windowPa u p.1) p.2

def State.stepWrite (s : State) (u : StepUnit) (x : Nat) (bs : List Byte) : State :=
  (rowSpans x bs.length).foldl (fun s p => s.poke (s.windowPa u p.1) ((bs.drop (p.1 - x)).take p.2)) s

/-! ## Fragments (R333) -/

def inboxBytes (q : List (Nat × List Byte)) : Nat := (q.map fun f => f.2.length).sum

/-- Takes the first fragment that meets a condition out of a buffer. -/
def takeFragment (f : Nat × List Byte → Bool) : List (Nat × List Byte) → Option (List Byte × List (Nat × List Byte))
  | [] => none
  | x :: r => if f x then some (x.2, r) else (takeFragment f r).map fun p => (p.1, x :: p.2)

/-- What take finds: a fragment, another length, or nothing yet. -/
inductive Taken where
  | got (bs : List Byte) (s : State)
  | wrongLength
  | nothing

/-- The acknowledgement of a fragment that its packets did not show whole (R351, log entry 26). -/
def State.ackTaken (s : State) (k : StepCtx) (key : Option Nat) (n : Nat) : State :=
  match key with
  | some i =>
    if n % 512 = 0 ∧ n < 4096 ∧ i / 1024 < 4096 then
      s.send (s.packet 3 (BitVec.ofNat 10 i) 1 (BitVec.ofNat 12 (i / 1024)) 0 false 0 k.tenant [])
    else s
  | none => s

/-- take(peer, n) of R333. A fragment of a collective has come whole when it has its length; a shorter one has
when a packet of fewer than 512 bytes, or a later fragment, ends it. -/
def State.takeFrom (s : State) (u : StepUnit) (k : StepCtx) (p n : Nat) : Taken :=
  let mine (f : Nat × List Byte) : Bool := match u with
    | .rank _ => f.1 == p
    | .coll _ => f.1 % 1024 == p
  match takeFragment mine k.inbox with
  | none => .nothing
  | some (bs, rest) =>
    if bs.length = n then
      let s := s.modStep u fun k => { k with inbox := rest }
      .got bs (match u with
        | .rank _ => s
        | .coll _ => s.ackTaken k ((k.inbox.find? mine).map Prod.fst) n)
    else
      let partly := match u with
        | .rank _ => false
        | .coll _ => decide (bs.length < n) && bs.length % 512 == 0 && !rest.any mine
      if partly then .nothing else .wrongLength

/-! ## Running a step word -/

/-- How the work of a step word ends. -/
inductive StepEnd where
  | done (s : State)
  | goto (s : State) (i : Nat)
  | fail (reason : BitVec 4)
  | wait (s : State)

/-- The outcome of a control word (R334). -/
def State.endControl (s : State) (u : StepUnit) (e : StepEnd) : State :=
  let clear (s : State) : State := s.modStep u fun k => { k with wt := false, since := none }
  match e with
  | .done s' => match s'.stepCtx u with
    | some k => (clear s').stepTo u (k.spc + 1)
    | none => s'
  | .goto s' i => (clear s').stepTo u i
  | .fail r => s.failStep u r
  | .wait s' => s'.stepWait u

/-- Was a fragment of this context refused (R359)? -/
def State.fragmentRefused (s : State) (u : StepUnit) : Bool :=
  match u with
  | .rank _ => false
  | .coll n => match s.fabric.colls.find? n.toNat with
    | some c => c.refused
    | none => false

/-- Runs a control word of the context in hand; a context whose fragment was refused fails there with reason 7
(R359). -/
def controlWord (work : StepUnit → StepCtx → State → StepEnd) (s : State) : Host.Outcome State Fault Refusal :=
  match s.unit with
  | none => .next s
  | some u => match s.stepCtx u with
    | none => .next s
    | some k =>
      if k.state != .running then .next s
      else if s.fragmentRefused u then .next (s.failStep u 7)
      else .next (s.endControl u (work u k s))

/-- Runs a collective step of the context in hand: refused during a switch to NORMAL mode (reason 6), over the
activation budget (4), after a refused fragment (7), or where a fabric collective has no such step (5); else the
context is IN STEP until its boundary (R330, R333, R336, R337, R357, R359). -/
def collectiveStep (inFabric : Bool) (work : StepUnit → StepCtx → State → StepEnd) (s : State) : Host.Outcome State Fault Refusal :=
  match s.unit with
  | none => .next s
  | some u => match s.stepCtx u with
    | none => .next s
    | some k =>
      let refusal : Option (BitVec 4) := match u with
        | .rank id => if (s.stack (id.toNat / 1024)).swp || !(s.stack (id.toNat / 1024)).mode then some 6 else if k.overBudget then some 4 else none
        | .coll _ => if s.fragmentRefused u then some 7 else if inFabric then none else some 5
      if k.state = .running && refusal.isSome then
        .next ((s.modStep u fun k => { k with overBudget := k.overBudget && refusal != some 4 }).failStep u (refusal.getD 0))
      else if !k.state.isLive || k.advance then .next s
      else
        let s := s.modStep u fun k => { k with state := .inStep }
        match work u k s with
        | .done s' | .goto s' _ =>
          .next ((s'.modStep u fun k => { k with wt := false, since := none, taken := none, given := 0, advance := true }).enqueue (.stepBoundary u))
        | .fail r => .next (s.failStep u r)
        | .wait s' => .next (s'.stepWait u)

end Sys2Proof.Machine
end

