-- ==== Sys2Proof/Machine/VecOps.lean ====
section
/-! DEFINITION. Lanes, masks and lane-wise work of the vector unit (R120 to R124). -/

namespace Sys2Proof.Machine

/-- Lane i of width w (R120). -/
def laneOf (v : BitVec 1024) (w i : Nat) : Nat := (v.extractLsb' (w * i) w).toNat

/-- A vector whose lanes, from lane 0 on, are those of the list. -/
def vecOf (w : Nat) (xs : List Nat) : BitVec 1024 :=
  BitVec.ofNat 1024 (xs.foldr (fun x acc => x % 2 ^ w + 2 ^ w * acc) 0)

/-- The lanes of a vector of a type. -/
def lanesOf (t : ElemType) (v : BitVec 1024) : List Nat := (List.range (elemLanes t)).map (laneOf v (elemWidth t))

/-- The signed value of a lane: the integer types are signed (R120). -/
def laneInt (w x : Nat) : Int := signedOf (w / 8) x
/-- An integer wrapped to a lane. -/
def wrapLane (w : Nat) (x : Int) : Nat := (x % (2 ^ w : Nat)).toNat
def laneMin (w : Nat) : Int := -(2 ^ (w - 1) : Nat)
def laneMax (w : Nat) : Int := (2 ^ (w - 1) : Nat) - 1
/-- An integer cut to the lane's range. -/
def clampLane (w : Nat) (x : Int) : Nat := wrapLane w (max (laneMin w) (min (laneMax w) x))

/-- Is lane i active under a mask register (R121)? -/
def Ctx.isActive (k : Ctx) (m : BitVec 3) (i : Nat) : Bool := (k.readP m).getLsbD i
/-- The active lanes of a type, ascending. -/
def Ctx.activeLanes (k : Ctx) (m : BitVec 3) (t : ElemType) : List Nat := (List.range (elemLanes t)).filter (k.isActive m)

/-- Sets lane i of a vector. -/
def setLane (t : ElemType) (v : BitVec 1024) (i x : Nat) : BitVec 1024 := vecOf (elemWidth t) ((lanesOf t v).set i x)

/-- Ascending lanes: an active one takes what f gives, another keeps its old value (R121, R123). -/
def mapLanes (k : Ctx) (m : BitVec 3) (t : ElemType) (old : BitVec 1024) (f : Nat → M Nat) : M (BitVec 1024) := do
  let xs ← (List.range (elemLanes t)).mapM fun i =>
    if k.isActive m i then f i else pure (laneOf old (elemWidth t) i)
  return vecOf (elemWidth t) xs

/-- A governed lane-wise instruction: vd's active lanes take what f gives. -/
def laneWise (d : BitVec 5) (m : BitVec 3) (t : ElemType) (f : Ctx → Nat → M Nat) : M Flow := do
  let k ← ctx
  let r ← mapLanes k m t (k.readV d) (f k)
  modCtx fun k => k.writeV d r
  next

/-- A lane's exact result, rounded under the mode and the saturation of R82 (R123). -/
def roundLane (k : Ctx) (f : Fmt) (x : Num) : M Nat := do
  let (r, _) ← roundM f k.roundMode k.saturates x
  return r

/-- A lane-wise instruction of two sources: its floating and its integer form. -/
def laneBin (d a b : BitVec 5) (m : BitVec 3) (t : ElemType) (fp : Ctx → Fmt → Nat → Nat → M Nat) (int : Nat → Nat → Nat) : M Flow :=
  laneWise d m t fun k i =>
    let x := laneOf (k.readV a) (elemWidth t) i
    let y := laneOf (k.readV b) (elemWidth t) i
    match elemFmt t with
    | some f => fp k f x y
    | none => pure (int x y)

end Sys2Proof.Machine
end

