-- ==== Sys2Proof/Machine/RankSteps.lean ====
section
/-! DEFINITION. Step words (R332 to R336): what each does to a rank context and to a context of the fabric
collective engine (R357), and a step's boundary. -/

namespace Sys2Proof.Machine

/-! ## The operations of RRS and RRED (R333) -/

def RankType.bytes' : RankType → Nat
  | .bf16 => 2
  | _ => 4

/-- Op on one element: received, then local. -/
def rankOp (t : RankType) (f : RankOp) (x y : Nat) : Nat :=
  match t with
  | .i32 =>
    let a : BitVec 32 := BitVec.ofNat 32 x
    let b : BitVec 32 := BitVec.ofNat 32 y
    (match f with
      | .add => a + b
      | .min => if b.slt a then b else a
      | .max => if a.slt b then b else a).toNat
  | t =>
    let g : Fmt := if t = .bf16 then .bf16 else .fp32
    match f with
    | .add => (round g .nearest false 0 (addN .nearest (Fmt.value g x) (Fmt.value g y)).1).1
    | .min => Fmt.pick g false x y
    | .max => Fmt.pick g true x y

/-- Op element by element. -/
def rankOps (t : RankType) (f : RankOp) (recv loc : List Byte) : List Byte :=
  let w := RankType.bytes' t
  (List.range (loc.length / w)).flatMap fun i =>
    bytesOfNat w (rankOp t f (natOfBytes ((recv.drop (w * i)).take w)) (natOfBytes ((loc.drop (w * i)).take w)))

/-! ## Delivering (R333, R357) -/

/-- What a delivery comes to. -/
inductive Delivery where
  | sent (s : State)
  | full
  | refused
  deriving DecidableEq, Repr

/-- A fragment for a rank. -/
def State.deliverRank (s : State) (me to' : Nat) (bs : List Byte) : Delivery :=
  let r := s.rank to'
  if r.state.isLive && decide (inboxBytes r.inbox + bs.length ≤ 4096) then .sent (s.setRank to' { r with inbox := r.inbox ++ [(me, bs)] })
  else .full

/-- The index of a member in its group, as a packet gives it (R352). -/
def Group.index (g : Group) (id : Nat) : Nat := g.members.findIdx (· == id)

/-- A fragment for a package: packets of at most 512 bytes under one tag (R357, R378); one for the own package goes
into the context's own buffer. -/
def State.deliverPackage (s : State) (n : BitVec 4) (c : CollCtx) (op : BitVec 8) (to' : Nat) (bs : List Byte) : Delivery :=
  let pkg : BitVec 10 := BitVec.ofNat 10 to'
  if pkg = s.pkgid then
    if inboxBytes c.cx.inbox + bs.length ≤ 4096 then .sent (s.modColl n.toNat fun c => { c with cx := { c.cx with inbox := c.cx.inbox ++ [(to' + 1024 * 4096, bs)] } })
    else .full
  else if !s.reachable pkg then .refused
  else if s.held then .full
  else match s.freeTag with
    | none => .full
    | some tag =>
      let dw1 : Word := op ++ 0#30 ++ BitVec.ofNat 10 (c.cx.group.index s.pkgid.toNat) ++ c.collid
      let packetOf (s : State) (o : Nat × Nat) : Packet :=
        s.packet 9 pkg 2 (BitVec.ofNat 12 tag) 0 false dw1 c.cx.tenant ((bs.drop o.1).take o.2)
      match chunksOf bs.length with
      | [] => .sent s
      | o :: r =>
        let s := s.request tag ⟨c.who, 0, 0, 0, .fragment n c.cmd c.cx.steps⟩ (packetOf s o)
        .sent (r.foldl (fun s o => s.send (packetOf s o)) s)

def State.deliver (s : State) (u : StepUnit) (op : BitVec 8) (to' : Nat) (bs : List Byte) : Delivery :=
  match u with
  | .rank id => s.deliverRank id.toNat to' bs
  | .coll n => match s.fabric.colls.find? n.toNat with
    | some c => s.deliverPackage n c op to' bs
    | none => .full

/-- The step ends with the delivery of its fragment, waits for it, or is refused (R359). -/
def State.deliverEnd (s : State) (u : StepUnit) (op : BitVec 8) (to' : Nat) (bs : List Byte) : StepEnd :=
  match s.deliver u op to' bs with
  | .sent s => .done s
  | .full => .wait s
  | .refused => .fail 7

/-- n bytes of a length field: 4 x L. -/
def stepLen (l : BitVec 10) : Nat := 4 * (l.toNat + 1)
def stepReg (k : StepCtx) (a : BitVec 3) : Nat := (k.a.get a.toFin).toNat

/-- check(a, n), the member peer(d, k), and what follows. -/
def withPeer (a n : Nat) (d : BitVec 2) (k : Int) (f : Nat → StepUnit → StepCtx → State → StepEnd) (u : StepUnit) (c : StepCtx) (s : State) : StepEnd :=
  if !s.stepAddrOk u a n then .fail 3
  else match c.group.peer (s.memberId u) d k with
    | none => .fail 5
    | some p => f p u c s

/-- take: the fragment already taken, or the next one. A deliver that follows waits anew (R333). -/
def taking (p n : Nat) (f : List Byte → State → StepEnd) (u : StepUnit) (c : StepCtx) (s : State) : StepEnd :=
  match c.taken with
  | some bs => f bs s
  | none => match s.takeFrom u c p n with
    | .got bs s' => f bs (s'.modStep u fun k => { k with taken := some bs, wt := false, since := none })
    | .wrongLength => .fail 5
    | .nothing => .wait s

/-- pre(a, n), or reason 2. -/
def reading (a n : Nat) (f : List Byte → StepEnd) (u : StepUnit) (s : State) : StepEnd :=
  if s.stepFailing u a n then .fail 2 else f (s.stepRead u a n)

/-- stage(x, v). -/
def stageEnd (u : StepUnit) (x : Nat) (v : List Byte) (s : State) : StepEnd :=
  .done (s.modStep u fun k => { k with staged := k.staged ++ [(x, v)] })

/-! ## Collective steps (R333) -/

def execSSend (a : BitVec 3) (d : BitVec 2) (k : BitVec 6) (l : BitVec 10) (s : State) : Host.Outcome State Fault Refusal :=
  collectiveStep true (fun u c s =>
    let x := stepReg c a
    withPeer x (stepLen l) d k.toInt (fun p u _ s =>
      reading x (stepLen l) (fun v => s.deliverEnd u 1 p v) u s) u c s) s

def execSRecv (a : BitVec 3) (d : BitVec 2) (k : BitVec 6) (l : BitVec 10) (s : State) : Host.Outcome State Fault Refusal :=
  collectiveStep true (fun u c s =>
    let x := stepReg c a
    withPeer x (stepLen l) d k.toInt (fun p u c s =>
      taking p (stepLen l) (fun f s => stageEnd u x f s) u c s) u c s) s

/-- Takes from peer(D, -K), delivers to peer(D, K). -/
def execSRrs (a : BitVec 3) (d : BitVec 2) (k : BitVec 6) (t : RankType) (f : RankOp) (l : BitVec 10) (s : State) : Host.Outcome State Fault Refusal :=
  collectiveStep true (fun u c s =>
    let x := stepReg c a
    withPeer x (stepLen l) d (-k.toInt) (fun q u c s =>
      taking q (stepLen l) (fun g s =>
        withPeer x (stepLen l) d k.toInt (fun p u _ s =>
          reading x (stepLen l) (fun v => s.deliverEnd u 3 p (rankOps t f g v)) u s) u c s) u c s) u c s) s

def execSRred (a : BitVec 3) (d : BitVec 2) (k : BitVec 6) (t : RankType) (f : RankOp) (l : BitVec 10) (s : State) : Host.Outcome State Fault Refusal :=
  collectiveStep true (fun u c s =>
    let x := stepReg c a
    withPeer x (stepLen l) d k.toInt (fun p u c s =>
      taking p (stepLen l) (fun g s =>
        reading x (stepLen l) (fun v => stageEnd u x (rankOps t f g v) s) u s) u c s) u c s) s

def execSCopy (a b : BitVec 3) (l : BitVec 10) (s : State) : Host.Outcome State Fault Refusal :=
  collectiveStep true (fun u c s =>
    let x := stepReg c a
    let y := stepReg c b
    if !s.stepAddrOk u x (stepLen l) || !s.stepAddrOk u y (stepLen l) then .fail 3
    else reading y (stepLen l) (fun v => stageEnd u x v s) u s) s

/-- Delivers to the members of a list from a place on: each delivery that must wait is a wait of its own. -/
def mcastFrom (u : StepUnit) (v : List Byte) : List Nat → Nat → State → StepEnd
  | [], _, s => .done s
  | p :: r, n, s =>
    match s.deliver u 15 p v with
    | .sent s' => mcastFrom u v r (n + 1) (s'.modStep u fun k => { k with given := n + 1, wt := false, since := none })
    | .full => .wait s
    | .refused => .fail 7

/-- The other members of the group in this stack and column. -/
def columnPeers (g : Group) (me : Nat) : List Nat := g.members.filter fun p => p / 16 == me / 16 && p != me

def execSMcast (a : BitVec 3) (l : BitVec 10) (s : State) : Host.Outcome State Fault Refusal :=
  collectiveStep false (fun u c s =>
    let x := stepReg c a
    if !s.stepAddrOk u x (stepLen l) then .fail 3
    else reading x (stepLen l) (fun v => mcastFrom u v ((columnPeers c.group (s.memberId u)).drop c.given) c.given s) u s) s

/-! ## Row steps (R335) -/

/-- A row as 8,192 bits, bit i at byte i div 8, bit i mod 8. -/
abbrev Row := BitVec 8192

def rowOfBytes (bs : List Byte) : Row := BitVec.ofNat 8192 (natOfBytes bs)
def rowBytes (r : Row) : List Byte := bytesOfNat 1024 r.toNat

/-- Are these addresses multiples of 1,024, with n rows inside the window? -/
def State.rowsOk (s : State) (u : StepUnit) (xs : List Nat) (n : Nat) : Bool :=
  xs.all fun x => x % 1024 == 0 && s.stepAddrOk u x (1024 * n)

def State.readRows (s : State) (u : StepUnit) (x n : Nat) : List Row :=
  (List.range n).map fun i => rowOfBytes (s.stepRead u (x + 1024 * i) 1024)

def bopRow (g : BopFn) (x y z : Row) : Row :=
  match g with
  | .and => x &&& y
  | .or => x ||| y
  | .maj => (x &&& y) ||| (x &&& z) ||| (y &&& z)
  | .not => ~~~x
  | .xor => x ^^^ y
  | .copy => x

/-- How many sources a function reads (R332). -/
def BopFn.sources : BopFn → Nat
  | .not | .copy => 1
  | .maj => 3
  | _ => 2

/-- Stages rows from an address; more than 64 rows fail with reason 5. -/
def stageRows (u : StepUnit) (x : Nat) (rows : List Row) (s : State) : StepEnd :=
  if 64 < rows.length then .fail 5 else stageEnd u x (rows.flatMap rowBytes) s

def execSBop (g : BopFn) (d x y z : BitVec 3) (r : BitVec 6) (s : State) : Host.Outcome State Fault Refusal :=
  collectiveStep false (fun u c s =>
    let n := r.toNat + 1
    let srcs := ([x, y, z].take (BopFn.sources g)).map (stepReg c)
    if !s.rowsOk u (stepReg c d :: srcs) n then .fail 3
    else if srcs.any fun a => s.stepFailing u a (1024 * n) then .fail 2
    else
      let rd (i : Nat) : List Row := if i < srcs.length then s.readRows u (srcs.getD i 0) n else []
      let (p, q, w) := (rd 0, rd 1, rd 2)
      stageRows u (stepReg c d) ((List.range n).map fun i => bopRow g (p.getD i 0) (q.getD i 0) (w.getD i 0)) s) s

/-- Lane i of w rows in the vertical layout, bit j from row j. -/
def laneAcross (rows : List Row) (i : Nat) : Nat :=
  (List.range rows.length).foldl (fun v j => if (rows.getD j 0).getLsbD i then v + 2 ^ j else v) 0

/-- Row j of lanes in the vertical layout. -/
def rowOfLanes (j : Nat) (lanes : List Nat) : Row :=
  BitVec.ofNat 8192 ((lanes.reverse.map fun v => v / 2 ^ j % 2).foldl (fun acc b => 2 * acc + b) 0)

/-- BSADD, BSSUB, BSMUL: each of the 8,192 lanes modulo 2^w. -/
def bitSerial (f : Nat → Nat → Nat) (d x y : BitVec 3) (w : BitVec 5) (u : StepUnit) (c : StepCtx) (s : State) : StepEnd :=
  let n := w.toNat + 1
  let (a, b) := (stepReg c x, stepReg c y)
  if !s.rowsOk u [stepReg c d, a, b] n then .fail 3
  else if s.stepFailing u a (1024 * n) || s.stepFailing u b (1024 * n) then .fail 2
  else
    let p := s.readRows u a n
    let q := s.readRows u b n
    let lanes := (List.range 8192).map fun i => f (laneAcross p i) (laneAcross q i) % 2 ^ n
    stageRows u (stepReg c d) ((List.range n).map fun j => rowOfLanes j lanes) s

def execSBsadd (d x y : BitVec 3) (w : BitVec 5) (s : State) : Host.Outcome State Fault Refusal :=
  collectiveStep false (bitSerial (fun a b => a + b) d x y w) s
def execSBssub (d x y : BitVec 3) (w : BitVec 5) (s : State) : Host.Outcome State Fault Refusal :=
  collectiveStep false (bitSerial (fun a b => a + 2 ^ (w.toNat + 1) - b) d x y w) s
def execSBsmul (d x y : BitVec 3) (w : BitVec 5) (s : State) : Host.Outcome State Fault Refusal :=
  collectiveStep false (bitSerial (fun a b => a * b) d x y w) s

/-! ## Control words (R334) -/

/-- S.HALT: fragments still held are discarded (R330). -/
def execSHalt (s : State) : Host.Outcome State Fault Refusal :=
  controlWord (fun u k s => .goto (s.modStep u fun k => { k with state := .halted, inbox := [] }) k.spc) s

/-- Does a value reach another, modulo 2^16? -/
def reaches16 (v t : BitVec 16) : Bool := decide ((v - t).toNat < 2 ^ 15)

/-- STEPS of a peer: its context's for a rank, what its control packets report for a package. -/
def State.peerSteps (s : State) (u : StepUnit) (k : StepCtx) (p : Nat) : BitVec 16 :=
  match u with
  | .rank _ => (s.rank p).steps
  | .coll n => if p = s.pkgid.toNat then k.steps else match s.fabric.colls.find? n.toNat with
    | some c => c.peers.get p 0
    | none => 0

def execSWaitPeer (d : BitVec 2) (k : BitVec 6) (s : State) : Host.Outcome State Fault Refusal :=
  controlWord (fun u c s =>
    match c.group.peer (s.memberId u) d k.toInt with
    | none => .fail 5
    | some p => if reaches16 (s.peerSteps u c p) c.steps then .done s else .wait s) s

def State.sequencer (s : State) (col : Nat) : Sequencer := s.seqs.get col ⟨[], []⟩
def State.setSequencer (s : State) (col : Nat) (q : Sequencer) : State := { s with seqs := s.seqs.set col q }

/-- The column sequencer of a rank: rank id [13:4]. -/
def seqOf (id : Nat) : Nat := id / 16

def execSWaitCounter (n : BitVec 4) (t : BitVec 16) (s : State) : Host.Outcome State Fault Refusal :=
  controlWord (fun u _ s =>
    match u with
    | .coll _ => .fail 5
    | .rank id => if reaches16 ((s.sequencer (seqOf id.toNat)).counters.get n.toNat 0) t then .done s else .wait s) s

/-- The loop level of v. -/
def StepCtx.level (k : StepCtx) (v : Bool) : StepLoop := if v then k.loops[1] else k.loops[0]
def StepCtx.setLevel (k : StepCtx) (v : Bool) (l : StepLoop) : StepCtx :=
  { k with loops := if v then #v[k.loops[0], l] else #v[l, k.loops[1]] }

def execSLoop (v : Bool) (e : BitVec 10) (c : BitVec 16) (s : State) : Host.Outcome State Fault Refusal :=
  controlWord (fun u k s =>
    if (k.level v).active then .fail 5
    else if c = 0 then .goto s (k.spc + e.toNat + 1)
    else .done (s.modStep u fun k => k.setLevel v ⟨true, c.toNat, k.spc + 1, k.spc + e.toNat⟩)) s

def execSEndl (v : Bool) (s : State) : Host.Outcome State Fault Refusal :=
  controlWord (fun u k s =>
    let l := k.level v
    if !l.active || l.last != k.spc then .fail 5
    else if 1 < l.count then .goto (s.modStep u fun k => k.setLevel v { l with count := l.count - 1 }) l.first
    else .done (s.modStep u fun k => k.setLevel v { l with active := false, count := 0 })) s

def StepCtx.setA (k : StepCtx) (a : BitVec 3) (v : BitVec 26) : StepCtx := { k with a := k.a.set a.toNat v a.isLt }

/-- a := imm x 4. -/
def execSSeta (a : BitVec 3) (i : BitVec 24) (s : State) : Host.Outcome State Fault Refusal :=
  controlWord (fun u _ s => .done (s.modStep u fun k => k.setA a (i ++ 0#2))) s

/-- a := (a + SignExt(imm) x 4) mod 2^26. -/
def execSAdda (a : BitVec 3) (i : BitVec 24) (s : State) : Host.Outcome State Fault Refusal :=
  controlWord (fun u _ s => .done (s.modStep u fun k => k.setA a (k.a.get a.toFin + (i ++ 0#2)))) s

/-- S.SIGNAL: an arrival at a core of the program's tenant; it waits while a dump of that core is made (R216). -/
def execSSignal (c : BitVec 13) (n : BitVec 4) (s : State) : Host.Outcome State Fault Refusal :=
  controlWord (fun _ k s =>
    if s.tenantOf c != k.tenant then .fail 5
    else if (s.getCore c).holding then .goto s k.spc
    else .done (s.raiseAt c n)) s

/-! ## The boundary, the time-out, invalid words -/

/-- Publishes what a rank's step has staged (R336). -/
def State.publishRank (s : State) (u : StepUnit) (k : StepCtx) : State := k.staged.foldl (fun s p => s.stepWrite u p.1 p.2) s

/-- Is the step at SPC one that receives, whose lines F sets full (R357)? -/
def CollCtx.receives (c : CollCtx) : Bool :=
  match decodeStep (c.store.getD c.cx.spc 0) with
  | some (.sRecv ..) | some (.sRred ..) => true
  | _ => false

/-- A step of a collective that writes the window: the bytes, the lines it has filled, and the counter (R357). -/
def State.publishColl (s : State) (n : BitVec 4) (c : CollCtx) : State :=
  if c.cx.staged = [] then s
  else
    let bytes := (c.cx.staged.map fun p => p.2.length).sum
    let s := s.publishRank (.coll n) c.cx
    let s := if c.full && c.receives then s.modCore c.who.core fun k => c.cx.staged.foldl (fun k p =>
        let a := c.wbase.toNat + p.1
        let z := a + p.2.length
        k.setLines true (a / 128) ((z + 127) / 128 - a / 128)) k else s
    let s := s.raiseAt c.who.core (BitVec.ofNat 4 ((c.ctr0 + c.raised % c.cnum) % 16))
    s.modColl n.toNat fun c => { c with raised := c.raised + 1, written := c.written + bytes }

/-- Tells every other member the STEPS of this context (R357). What such a packet carries beside COLLID and the
sender's index the spec does not say: STEPS as two bytes (log entry 22). -/
def State.reportSteps (s : State) (c : CollCtx) : State :=
  let steps := c.cx.steps + 1
  c.cx.group.members.foldl (fun s p =>
    if p = s.pkgid.toNat || !s.reachable (BitVec.ofNat 10 p) then s
    else s.send (s.packet 10 (BitVec.ofNat 10 p) 2 0 0 false
      (0#38 ++ BitVec.ofNat 10 (c.cx.group.index s.pkgid.toNat) ++ c.collid) c.cx.tenant (bytesOfNat 2 steps.toNat))) s

/-- STEP_BOUNDARY: the step's writes are published at once, and STEPS increases by 1 (R336). -/
def State.boundary (s : State) (u : StepUnit) (k : StepCtx) : State :=
  let s := match u with
    | .rank _ => s.publishRank u k
    | .coll n => match s.fabric.colls.find? n.toNat with
      | some c => (s.publishColl n c).reportSteps c
      | none => s
  (s.modStep u fun k => { k with state := .running, staged := [], advance := false, steps := k.steps + 1 }).stepTo u (k.spc + 1)

def execStepBoundary (s : State) : Host.Outcome State Fault Refusal :=
  match s.due with
  | ⟨.stepBoundary u, _⟩ :: rest =>
    let s' := { s with due := rest }
    match s.stepCtx u with
    | none => .next s'
    | some k =>
      if k.state = .inStep && k.advance then
        match u with
        | .coll n =>
          -- a window of a core whose dump is being made takes no arrival (R216)
          match s.fabric.colls.find? n.toNat with
          | some c => if k.staged != [] && (s.getCore c.who.core).holding then .next s else .next (s'.boundary u k)
          | none => .next s'
        | .rank _ => .next (s'.boundary u k)
      else .next s'
  | _ => .next s

/-- A wait longer than TMO fails the step with reason 1 (R333); one that began later has its own time-out. -/
def execPeerTimeout (s : State) : Host.Outcome State Fault Refusal :=
  match s.due with
  | ⟨.peerTimeout u, _⟩ :: rest =>
    let s' := { s with due := rest }
    match s.stepCtx u with
    | none => .next s'
    | some k => match k.since with
      | some t => if k.state.isLive && decide (t + cyclesOf k.tmo ≤ s.cycle.toNat) then .next (s'.failStep u 1) else .next s'
      | none => .next s'
  | _ => .next s

/-- INVALID_STEP: a reserved op or an invalid field fails with reason 5 (R332, R336). -/
def execInvalidStep (s : State) : Host.Outcome State Fault Refusal :=
  match s.due with
  | ⟨.invalidStep u _, _⟩ :: rest =>
    let s' := { s with due := rest }
    match s.stepCtx u with
    | some k => if k.state.isLive then .next (s'.failStep u 5) else .next s'
    | none => .next s'
  | _ => .next s

end Sys2Proof.Machine
end

