-- ==== Sys2Proof/Machine/VecXform.lean ====
section
/-! DEFINITION. Vector transforms and special functions, OPs 33 and 34 (R130 to R135). -/

namespace Sys2Proof.Machine

/-! ## VCVT (R86, R130) -/

/-- One value converted; what R86 gives as exact draws nothing (R84). To its own type a value stays as it is, but for a
signalling NaN, which every result quietens (R79, R80). -/
def convertLane (k : Ctx) (g t : ElemType) (x : Nat) : M Nat :=
  match elemFmt g, elemFmt t with
  | some f, some h =>
    if g = t then pure (Fmt.quieten f x)
    else if Fmt.widens f h then pure (Fmt.widen f h x)
    else roundLane k h (Fmt.value f x)
  | some f, none => do
    let r ← drawFor k.roundMode
    return wrapLane (elemWidth t) (roundInt (laneMin (elemWidth t)) (laneMax (elemWidth t)) k.roundMode r (Fmt.value f x))
  | none, some h => roundLane k h (Num.ofInt (laneInt (elemWidth g) x))
  | none, none =>
    let v := laneInt (elemWidth g) x
    pure (if k.saturates then clampLane (elemWidth t) v else wrapLane (elemWidth t) v)

/-- The lane of va that lane i takes, if it is written (R130). -/
def vcvtSource (g t : ElemType) (part i : Nat) : Option Nat :=
  let ns := elemLanes g
  let nd := elemLanes t
  if ns = nd then some i
  else if nd < ns then some (part * nd + i)
  else if part * ns ≤ i ∧ i < (part + 1) * ns then some (i - part * ns)
  else none

def execVcvt (d a : BitVec 5) (p : BitVec 2) (g : ElemType) (m : BitVec 3) (t : ElemType) (s : State) : Host.Outcome State Fault Refusal :=
  unit (laneWise d m t fun k i =>
    match vcvtSource g t p.toNat i with
    | some j => convertLane k g t (laneOf (k.readV a) (elemWidth g) j)
    | none => pure (laneOf (k.readV d) (elemWidth t) i)) s

/-! ## Reductions (R131, R132) -/

/-- One level of the tree: neighbours, in ascending order. -/
def pairUp {α : Type} (f : α → α → M α) : List α → M (List α)
  | x :: y :: r => do
    let z ← f x y
    let zs ← pairUp f r
    return z :: zs
  | xs => return xs

/-- The tree, level by level, to one value. -/
def treeUp {α : Type} (f : α → α → M α) : Nat → List α → M (List α)
  | 0, xs => return xs
  | n + 1, xs => do
    let ys ← pairUp f xs
    treeUp f n ys

/-- The lanes of va, an inactive one replaced by I. -/
def treeLeaves (k : Ctx) (a : BitVec 5) (m : BitVec 3) (t : ElemType) (e : Nat) : List Nat :=
  (List.range (elemLanes t)).map fun i => if k.isActive m i then laneOf (k.readV a) (elemWidth t) i else e

/-- The result goes to lane 0, and every other lane becomes 0. -/
def reduceTo (d : BitVec 5) (t : ElemType) (r : Nat) : M Flow := do
  modCtx fun k => k.writeV d (vecOf (elemWidth t) [r])
  next

def execVrsum (d a : BitVec 5) (m : BitVec 3) (t : ElemType) (s : State) : Host.Outcome State Fault Refusal :=
  unit (do
    let k ← ctx
    let w := elemWidth t
    match elemFmt t with
    | some f =>
      let r ← treeUp (fun x y => roundLane k f (addN k.roundMode (Fmt.value f x) (Fmt.value f y)).1) 7
        (treeLeaves k a m t (Fmt.signWeight f))
      reduceTo d t (r.headD 0)
    | none =>
      let v := ((treeLeaves k a m t 0).map (laneInt w)).foldl (· + ·) 0
      reduceTo d t (if k.saturates then clampLane w v else wrapLane w v)) s

/-- VRMAX and VRMIN: the tree of the greater or the lesser, from I. -/
def reducePick (d a : BitVec 5) (m : BitVec 3) (t : ElemType) (greater : Bool) : M Flow := do
  let k ← ctx
  let w := elemWidth t
  match elemFmt t with
  | some f =>
    let e := Fmt.withSign f greater (if Fmt.hasInf f then Fmt.infMag f else Fmt.maxMag f)
    let r ← treeUp (fun x y => pure (Fmt.pick f greater x y)) 7 (treeLeaves k a m t e)
    reduceTo d t (r.headD 0)
  | none =>
    let e := wrapLane w (if greater then laneMin w else laneMax w)
    let less (x y : Nat) : Bool := decide (laneInt w x < laneInt w y)
    let r ← treeUp (fun x y => pure (if greater then (if less x y then y else x) else (if less y x then y else x))) 7
      (treeLeaves k a m t e)
    reduceTo d t (r.headD 0)

def execVrmax (d a : BitVec 5) (m : BitVec 3) (t : ElemType) (s : State) : Host.Outcome State Fault Refusal :=
  unit (reducePick d a m t true) s
def execVrmin (d a : BitVec 5) (m : BitVec 3) (t : ElemType) (s : State) : Host.Outcome State Fault Refusal :=
  unit (reducePick d a m t false) s

/-- The prefix sum over the lanes from i on; an inactive lane keeps its old value and adds nothing. -/
def scanFrom (k : Ctx) (d a : BitVec 5) (m : BitVec 3) (t : ElemType) : List Nat → Nat → M (List Nat)
  | [], _ => return []
  | i :: r, acc => do
    let w := elemWidth t
    if k.isActive m i then
      let x := laneOf (k.readV a) w i
      let acc ← match elemFmt t with
        | some f => roundLane k f (addN k.roundMode (Fmt.value f acc) (Fmt.value f x)).1
        | none => pure ((acc + x) % 2 ^ w)
      let xs ← scanFrom k d a m t r acc
      return acc :: xs
    else
      let xs ← scanFrom k d a m t r acc
      return laneOf (k.readV d) w i :: xs

def execVscan (d a : BitVec 5) (m : BitVec 3) (t : ElemType) (s : State) : Host.Outcome State Fault Refusal :=
  unit (do
    let k ← ctx
    let e := match elemFmt t with
      | some f => Fmt.signWeight f
      | none => 0
    let xs ← scanFrom k d a m t (List.range (elemLanes t)) e
    modCtx fun k => k.writeV d (vecOf (elemWidth t) xs)
    next) s

/-! ## Movement (R133) -/

def execVperm (d a b : BitVec 5) (m : BitVec 3) (t : ElemType) (s : State) : Host.Outcome State Fault Refusal :=
  unit (laneWise d m t fun k i =>
    pure (laneOf (k.readV a) (elemWidth t) (laneOf (k.readV b) (elemWidth t) i % elemLanes t))) s

def execVbcast (d x : BitVec 5) (m : BitVec 3) (t : ElemType) (s : State) : Host.Outcome State Fault Refusal :=
  unit (do
    let v ← src (.x x)
    laneWise d m t fun _ _ => pure (v.toNat % 2 ^ elemWidth t)) s

/-- A lane as an x register takes it: sign-extended for the integer types, zero-extended for the others. -/
def extendLane (t : ElemType) (x : Nat) : Word :=
  if t.isInt then BitVec.ofInt 64 (laneInt (elemWidth t) x) else BitVec.ofNat 64 x

/-- Lane g x 32 + l, below n in every well-formed word. -/
def execVext (x a l : BitVec 5) (g : BitVec 3) (t : ElemType) (s : State) : Host.Outcome State Fault Refusal :=
  unit (do
    let k ← ctx
    guardTrap (decide (g.toNat * 32 + l.toNat < elemLanes t)) 0x01 (wordOf (.vext x a l g t))
    writeReg x (extendLane t (laneOf (k.readV a) (elemWidth t) (g.toNat * 32 + l.toNat)))
    next) s

/-- Every lane is written: the number of ones below it. -/
def execViota (d : BitVec 5) (p : BitVec 3) (t : ElemType) (s : State) : Host.Outcome State Fault Refusal :=
  unit (do
    modCtx fun k => k.writeV d (vecOf (elemWidth t) ((List.range (elemLanes t)).map (onesOf (k.readP p))))
    next) s

/-! ## VTOPK (R134) -/

/-- The order of values in a ranking: a NaN below every number, -0 equal to +0. -/
def rankKey (t : ElemType) (x : Nat) : Int :=
  match elemFmt t with
  | some f => if Fmt.isNan f x then -(2 ^ 40 : Nat) else Fmt.order f x
  | none => laneInt (elemWidth t) x

/-- The first candidate of the greatest key: ties go to the one that stands first. -/
def bestOf : List (Nat × Int) → Option (Nat × Int)
  | [] => none
  | c :: r => match bestOf r with
    | some b => if c.2 < b.2 then some b else some c
    | none => some c

/-- The lane numbers of the n best candidates, the best first. -/
def rankTop : Nat → List (Nat × Int) → List Nat
  | 0, _ => []
  | n + 1, cs => match bestOf cs with
    | some b => b.1 :: rankTop n (cs.filter fun c => c.1 != b.1)
    | none => []

def execVtopk (d a : BitVec 5) (n m : BitVec 3) (t : ElemType) (s : State) : Host.Outcome State Fault Refusal :=
  unit (do
    let k ← ctx
    let w := elemWidth t
    let cs := (k.activeLanes m t).map fun i => (i, rankKey t (laneOf (k.readV a) w i))
    let top := rankTop (n.toNat + 1) cs
    modCtx fun k => k.writeV d (vecOf w (top ++ List.replicate (elemLanes t - top.length) (2 ^ w - 1)))
    next) s

/-! ## Special functions (R135) -/

/-- The correctly rounded value of an exact function. -/
def special (d a : BitVec 5) (m : BitVec 3) (t : ElemType) (f : Num → Num) : M Flow :=
  laneBin d a a m t (fun k g x _ => roundLane k g (f (Fmt.value g x))) (fun x _ => x)

def execVexp2 (d a : BitVec 5) (m : BitVec 3) (t : ElemType) (s : State) : Host.Outcome State Fault Refusal :=
  unit (special d a m t exp2N) s
def execVrcp (d a : BitVec 5) (m : BitVec 3) (t : ElemType) (s : State) : Host.Outcome State Fault Refusal :=
  unit (special d a m t rcpN) s
def execVrsq (d a : BitVec 5) (m : BitVec 3) (t : ElemType) (s : State) : Host.Outcome State Fault Refusal :=
  unit (special d a m t rsqN) s
def execVlog2 (d a : BitVec 5) (m : BitVec 3) (t : ElemType) (s : State) : Host.Outcome State Fault Refusal :=
  unit (special d a m t log2N) s

end Sys2Proof.Machine
end

