-- ==== Sys2Proof/Machine/Router.lean ====
section
/-! DEFINITION. The routing core, q2 (R300 to R303, R372). A command makes one access at a time, in the order of
R301; what its accesses gave so far stands in the state, so that a release by management stops it between two. -/

namespace Sys2Proof.Machine

/-! ## One access -/

/-- Why a command of the routing core does not go on: it has made an access, it needs the fabric, the access is
held, or a fault ends it. -/
inductive RStop where
  | made (v : RemoteVal) (s : State)
  | issue (va : Word) (pa : Nat) (op : RemoteOp)
  | held
  | ended (c : BitVec 8) (va : Word)

/-- A command's work over the results of the accesses it has made. -/
abbrev R := StateT (List RemoteVal) (Except RStop)

/-- USER level, the tables of the cluster that pushed RCFG, its tenant, no local memory (R303). -/
def RouteCfg.eng (c : RouteCfg) (w : Who) : Eng := ⟨w, none, false, ⟨none, c.cluster, c.tenant, true, false⟩, .fwd, []⟩

/-- An access: its result if it has been made; else it is made now, and the command stops after it. -/
def rMake (m : E (List Byte)) (s : State) : R RemoteVal := fun got =>
  match got with
  | v :: rest => .ok (v, rest)
  | [] => match m (s, []) with
    | .ok (bs, (s', _)) => .error (.made (.data bs) s')
    | .error (.fault c) => .error (.made (.fail c) s)
    | .error (.issue va pa op) => .error (.issue va pa op)
    | .error .held => .error .held

/-- An access whose fault ends the command. -/
def rNeed (va : Word) (m : E (List Byte)) (s : State) : R (List Byte) := do
  match ← rMake m s with
  | .data bs => return bs
  | .fail c => fun _ => .error (.ended c va)

/-- One atomic of 8 bytes: the old value, or all ones where ABADD refused (R250, R251). -/
def eAtomic (e : Eng) (va : Word) (fn : BankFn) (b d : Nat) : E (List Byte) := do
  if va.toNat % 8 != 0 then eFault 0x03
  let p ← eXlate e .atomic va
  let s ← eState
  if regionOf p.pa == .fabric then
    match ← eFabric e.asker.tenant va p.pa (.bank fn (.int 8) [b] d true) with
    | .data bs => return bs
    | .fail c => eFault c
  else
    let c := s.getCore (windowCore p.pa)
    if regionOf p.pa == .window && c.computing then eFault 0x0E
    else if (regionOf p.pa == .window && c.holding) || s.inStep p.pa 8 then eStop .held
    else if s.failing p.pa 8 then eFault 0x0A
    else
      let a := canon p.pa
      let old := natOfBytes (s.bytes a 8)
      let (new, carried) := bankOp fn (.int 8) old b d
      if carried then eMod fun s => s.poke a (bytesOfNat 8 new)
      return if carried then bytesOfNat 8 old else List.replicate 8 0xFF

/-! ## The configuration's fields (R300) -/

def RouteCfg.word (c : RouteCfg) (i : Nat) : Word := c.words.getD i 0
def RouteCfg.experts (c : RouteCfg) : Nat := ((c.word 0).extractLsb' 0 8).toNat + 1
def RouteCfg.k (c : RouteCfg) : Nat := ((c.word 0).extractLsb' 8 4).toNat
def RouteCfg.c (c : RouteCfg) : Nat := ((c.word 0).extractLsb' 12 4).toNat
def RouteCfg.stage (c : RouteCfg) : Nat := ((c.word 0).extractLsb' 16 4).toNat
def RouteCfg.spawns (c : RouteCfg) : Bool := (c.word 0).getLsbD 20
def RouteCfg.self (c : RouteCfg) : BitVec 8 := (c.word 0).extractLsb' 24 8
def RouteCfg.counter (c : RouteCfg) (e : Nat) : Word := c.word 1 + BitVec.ofNat 64 (8 * e)
def RouteCfg.cap (c : RouteCfg) : Nat := ((c.word 2).extractLsb' 0 16).toNat
def RouteCfg.list (c : RouteCfg) (dest : Nat) : Word := c.word 3 + BitVec.ofNat 64 (dest * ((c.word 4).extractLsb' 0 32).toNat)
def RouteCfg.dests (c : RouteCfg) : Nat := ((c.word 4).extractLsb' 32 16).toNat
def RouteCfg.home (c : RouteCfg) (e : Nat) : Word := c.word 5 + BitVec.ofNat 64 e

/-! ## ROUTE (R301, R302) -/

/-- The logits from expert e on. -/
def readLogits (cfg : RouteCfg) (w : Who) (s : State) (a : Word) : List Nat → R (List Nat)
  | [] => return []
  | e :: r => do
    let va := a + BitVec.ofNat 64 (2 * e)
    let bs ← rNeed va (eRead (cfg.eng w) va 2) s
    let xs ← readLogits cfg w s a r
    return natOfBytes bs :: xs

/-- Claims in rank order until `need` have succeeded: the expert, its rank and its slot. -/
def claims (cfg : RouteCfg) (w : Who) (s : State) : Nat → Nat → List Nat → R (List (Nat × Nat × Nat))
  | _, 0, _ => return []
  | _, _, [] => return []
  | rank, need + 1, e :: r => do
    let va := cfg.counter e
    let bs ← rNeed va (eAtomic (cfg.eng w) va .badd 1 cfg.cap) s
    let old := natOfBytes bs
    if old = 2 ^ 64 - 1 then claims cfg w s (rank + 1) (need + 1) r
    else
      let xs ← claims cfg w s (rank + 1) need r
      return (e, rank, old) :: xs

/-- One task of the expert stage (R302): it waits while the queue has no room; a stage that is not the
configuration's tenant's takes none. -/
def spawnTile (cfg : RouteCfg) (die : BitVec 2) (e tile rows : Nat) : E (List Byte) := do
  let s ← eState
  match s.stageAt die cfg.stage with
  | none => return []
  | some g =>
    if g.tenant != cfg.tenant then return []
    else if g.freeSlot.isNone || 4096 ≤ s.inFlight die then eStop .held
    else
      eMod fun s => ((s.spawn die cfg.stage (some e) 0 (BitVec.ofNat 64 e) (BitVec.ofNat 64 (tile % 2 ^ 16 + 2 ^ 16 * rows)) [] 0).1).offer die
      return []

/-- The routing record (R301). -/
def routeRecord (token : BitVec 32) (e rank slot logit : Nat) : List Byte :=
  bytesOfNat 4 token.toNat ++ [BitVec.ofNat 8 e, BitVec.ofNat 8 rank] ++ bytesOfNat 2 slot ++ bytesOfNat 2 logit ++ List.replicate 6 0

/-- HOMEMAP, the list's count, the record, and the spawn, for each granted claim. -/
def records (cfg : RouteCfg) (w : Who) (die : BitVec 2) (s : State) (token : BitVec 32) (logits : List Nat) : List (Nat × Nat × Nat) → R Unit
  | [] => pure ()
  | (e, rank, slot) :: r => do
    let hb ← rNeed (cfg.home e) (eRead (cfg.eng w) (cfg.home e) 1) s
    let dest := natOfBytes hb
    if cfg.dests ≤ dest then fun _ => .error (.ended 0x1A (cfg.home e))
    let l := cfg.list dest
    let pos ← rNeed l (eAtomic (cfg.eng w) l .add 1 0) s
    let at' := l + 16 + BitVec.ofNat 64 (16 * natOfBytes pos)
    let _ ← rNeed at' (do
      eWrite (cfg.eng w) at' (routeRecord token e rank slot (logits.getD e 0))
      return []) s
    if cfg.spawns && slot % 16 = 15 && dest == cfg.self.toNat then
      let _ ← rMake (spawnTile cfg die e (slot / 16) 16) s
    records cfg w die s token logits r

def routeWork (cfg : RouteCfg) (w : Who) (die : BitVec 2) (s : State) (ws : List Word) : R Unit := do
  let logits ← readLogits cfg w s (ws.getD 1 0) (List.range cfg.experts)
  let ranked := rankTop cfg.c ((List.range cfg.experts).map fun e => (e, rankKey .bf16 (logits.getD e 0)))
  let got ← claims cfg w s 0 cfg.k ranked
  records cfg w die s ((ws.getD 0 0).extractLsb' 0 32) logits got

/-- The tiles that FLUSH spawns (R302): an access that fails spawns none for its expert. -/
def flushWork (cfg : RouteCfg) (w : Who) (die : BitVec 2) (s : State) : List Nat → R Unit
  | [] => pure ()
  | e :: r => do
    match ← rMake (eRead (cfg.eng w) (cfg.home e) 1) s with
    | .data hb =>
      if natOfBytes hb = cfg.self.toNat then
        match ← rMake (eRead (cfg.eng w) (cfg.counter e) 8) s with
        | .data nb =>
          let n := natOfBytes nb
          if n % 16 != 0 then
            let _ ← rMake (spawnTile cfg die e (n / 16) (n % 16)) s
        | .fail _ => pure ()
    | .fail _ => pure ()
    flushWork cfg w die s r

/-! ## Running a command -/

def State.modRouting (s : State) (d : BitVec 2) (f : Routing → Routing) : State :=
  s.setDie d { s.die d with routing := f (s.die d).routing }

/-- Issues a fabric request for the routing core of a die; where no tag is free, or requests are held (R363), it
tries again. -/
def State.issueRoute (s : State) (d : BitVec 2) (w : Who) (tenant : BitVec 6) (va : Word) (pa : Nat) (op : RemoteOp) : State :=
  if s.held then s
  else match s.freeTag with
    | none => s
    | some tag => (s.request tag ⟨w, va, op.len, 0, .route d⟩ (s.accessPacket tenant 0 tag pa op)).modRouting d fun r => { r with tag := some tag }

/-- Takes a command one access further; `rest` is the state without its act, in which it ends. -/
def runRoute (s rest : State) (w : Who) (cfg : RouteCfg) (work : R Unit) (done : State → State) (ended : BitVec 8 → Word → State → State) : State :=
  let d := dieOf w.core
  let r := (s.die d).routing
  if r.tag.isSome then s
  else match work r.got with
    | .ok _ => (done (rest.modRouting d fun r => { r with got := [] })).settle w.core
    | .error (.ended c va) => (ended c va (rest.modRouting d fun r => { r with got := [] })).settle w.core
    | .error (.made v s') => s'.modRouting d fun r => { r with got := r.got ++ [v] }
    | .error (.issue va pa op) => s.issueRoute d w cfg.tenant va pa op
    | .error .held => s

/-- A ROUTE ended by a fault: counted, saturating, and recorded where no record stands (R303). -/
def Routing.fault (r : Routing) (c : BitVec 8) (va : Word) : Routing :=
  { r with
    faulted := if r.faulted = BitVec.allOnes 16 then r.faulted else r.faulted + 1
    record := if r.record = 0 then 0#3 ++ c ++ va.setWidth 53 else r.record }

/-- Counts a ROUTE stopped by a release: nothing is recorded (R303). -/
def Routing.stopped (r : Routing) : Routing :=
  { r with faulted := if r.faulted = BitVec.allOnes 16 then r.faulted else r.faulted + 1, got := [], tag := none }

def execRoute (s : State) : Host.Outcome State Fault Refusal :=
  match s.due with
  | ⟨.route w ws, _⟩ :: rest =>
    let d := dieOf w.core
    let s' := { s with due := rest }
    match (s.die d).routing.cfg with
    | none => .next (s'.settle w.core)
    | some cfg => .next (runRoute s s' w cfg (routeWork cfg w d s ws)
        (fun t => t.modRouting d fun r => { r with done := r.done + 1 })
        (fun c va t => t.modRouting d fun r => r.fault c va))
  | _ => .next s

/-- The result of FLUSH and RREL, and the counts begin anew. -/
def State.routeResult (s : State) (w : Who) : State :=
  let d := dieOf w.core
  let r := (s.die d).routing
  (s.modRouting d fun r => { r with done := 0, faulted := 0 }).portResult w 2 (0#16 ++ r.faulted ++ r.done)

def execFlush (s : State) : Host.Outcome State Fault Refusal :=
  match s.due with
  | ⟨.flush w _, _⟩ :: rest =>
    let d := dieOf w.core
    let s' := { s with due := rest }
    match (s.die d).routing.cfg with
    | none => .next ((s'.routeResult w).settle w.core)
    | some cfg => .next (runRoute s s' w cfg (if cfg.spawns then flushWork cfg w d s (List.range cfg.experts) else pure ())
        (fun t => t.routeResult w) (fun _ _ t => t.routeResult w))
  | _ => .next s

/-- Every earlier ROUTE is done when it runs: commands run in their order. -/
def execRrel (s : State) : Host.Outcome State Fault Refusal :=
  match s.due with
  | ⟨.rrel w _, _⟩ :: rest =>
    let s : State := { s with due := rest }
    .next (((s.modRouting (dieOf w.core) fun r => { r with cfg := none }).routeResult w).settle w.core)
  | _ => .next s

def execRfault (s : State) : Host.Outcome State Fault Refusal :=
  match s.due with
  | ⟨.rfault w _, _⟩ :: rest =>
    let d := dieOf w.core
    let v := (s.die d).routing.record
    let s : State := { s with due := rest }
    .next (((s.modRouting d fun r => { r with record := 0 }).portResult w 2 v).settle w.core)
  | _ => .next s

/-- The configuration begins: no fault is recorded for it, and another tenant's counts are gone. -/
def execRcfg (s : State) : Host.Outcome State Fault Refusal :=
  match s.due with
  | ⟨.rcfg w ws, _⟩ :: rest =>
    let s : State := { s with due := rest }
    let tenant := s.tenantOf w.core
    .next ((s.modRouting (dieOf w.core) fun r =>
      let same := match r.cfg with
        | some c => c.tenant == tenant
        | none => false
      { r with
        cfg := some ⟨ws, tenant, clusterOf w.core⟩
        record := 0
        done := if same then r.done else 0
        faulted := if same then r.faulted else 0 }).settle w.core)
  | _ => .next s

/-! ## Release by management (R303) -/

/-- Is the act a command on q2 of a die? -/
def Act.onQ2 (a : Act) (d : BitVec 2) : Bool :=
  match a with
  | .rcfg w _ | .route w _ | .flush w _ | .rrel w _ | .rfault w _ => dieOf w.core == d
  | _ => false

def Act.isRcfg : Act → Bool
  | .rcfg .. => true
  | _ => false
def Act.isRoute : Act → Bool
  | .route .. => true
  | _ => false

/-- The acts due once the ROUTEs from index n on, and the RCFG they belong to, are discarded. -/
def discardRoutes (d : BitVec 2) (n : Nat) (due : List Due) : List Due :=
  (due.zipIdx.filter fun x => !(decide (n ≤ x.2) && x.1.act.onQ2 d && (x.1.act.isRcfg || x.1.act.isRoute))).map Prod.fst

def execRoutingRelease (s : State) : Host.Outcome State Fault Refusal :=
  match s.due with
  | ⟨.routingRelease d v, _⟩ :: rest =>
    let s : State := { s with due := rest }
    if !v.getLsbD 0 then .next s
    else
      let last := (rest.zipIdx.filter fun x => x.1.act.onQ2 d && x.1.act.isRcfg).getLast?
      let r := (s.die d).routing
      match last with
      | some (_, n) => .next (({ s with due := discardRoutes d n rest } : State).modRouting d fun r => { r with admitted := none })
      | none =>
        let begun := (r.got != [] || r.tag.isSome) && ((rest.find? fun x => x.act.onQ2 d).map fun x => x.act.isRoute).getD false
        let s := s.modRouting d fun r => if begun then r.stopped else r
        .next (({ s with due := discardRoutes d 0 rest } : State).modRouting d fun r => { r with cfg := none, admitted := none, got := [], tag := none })
  | _ => .next s

end Sys2Proof.Machine
end

