-- ==== Sys2Proof/Machine/Packets.lean ====
section
/-! DEFINITION. What arrives from the fabric (R350 to R353, R355, R357, R362, R371, R378): the checks of a packet, the
requests that this package serves, and the responses to its own. -/

namespace Sys2Proof.Machine

/-! ## The checks (R362) -/

/-- Does a received packet pass: admitted ends, tag, KGEN, KEYID, and a SEQ above every one accepted? A packet that is no
contribution comes encrypted by its sender; one that is, from its sender or from a reduction switch (R355, R362). -/
def State.packetOk (s : State) (p : Packet) : Bool :=
  s.fabric.member && s.isMember (0#2 ++ p.src) && (p.via == 0#2 ++ p.src || (p.red && s.isMember p.via))
    && tagOk (s.pairKey p.via s.myId) p
    && p.kgen == s.fabric.kgen && p.keyid == s.myId && decide (s.fabric.seen.get p.pairOf 0 < p.seq)

/-- A count that saturates. -/
def satUp (x : BitVec 32) : BitVec 32 := if x = BitVec.allOnes 32 then x else x + 1

/-- A response to a request; the member that encrypted the request decrypts it. -/
def State.respond (s : State) (p : Packet) (type : Nat) (status : BitVec 8) (data : List Byte) : State :=
  s.send (s.packetFor p.via type p.src 1 p.tag 0 false (dw1Of 0 0 0 status 0) p.tenant data)

/-- A packet dropped is logged (R353, R362). -/
def State.logDrop (s : State) (p : Packet) : State :=
  { s with fabric := { s.fabric with dropLog := s.fabric.dropLog ++ [p] } }

/-- A packet is dropped for a failed check: counted, logged, and answered by a failure response when one can be formed under
the pair key. -/
def State.dropPacket (s : State) (p : Packet) (answer : Bool) : State :=
  let s : State := { s with fabric := { s.fabric with drops := satUp s.fabric.drops } }
  let s := s.logDrop p
  if answer && s.fabric.member && s.isMember (0#2 ++ p.src) then s.respond p 11 0x15 [] else s

/-- A packet is accepted. -/
def State.acceptSeq (s : State) (p : Packet) : State :=
  { s with traffic := s.cycle.toNat, fabric := { s.fabric with seen := s.fabric.seen.set p.pairOf p.seq } }

/-- Runs a received request of a type: dropped where a check fails, or where its TYPE is another, a reserved one among them
(R353; log entry 90); else the work, which is held where it answers none. -/
def serving (type : Nat) (p : Packet) (s : State) (rest : List Due) (work : State → Option State) : State :=
  let s' := { s with due := rest }
  if p.type ≠ type then s'.logDrop p
  else if !s.packetOk p then s'.dropPacket p true
  else match work (s'.acceptSeq p) with
    | some t => t
    | none => s

/-! ## Requests served (R350, R351, R355) -/

/-- The outcome of an access, as its response. -/
def State.answer (s : State) (p : Packet) (type : Nat) (v : RemoteVal) : State :=
  match v with
  | .data bs => s.respond p type 0 bs
  | .fail c => s.respond p 11 c []

/-- Performs an access at this package; none where it is held (R336). -/
def State.performAt (s : State) (p : Packet) (type : Nat) (op : RemoteOp) (count : BitVec 32 := 1) : Option State :=
  if s.inStep p.target op.len then none
  else
    let (v, s') := s.serve p.tenant p.offset op count
    some (s'.answer p type v)

/-- The spec gives a read request no field for its length: it stands in the payload (log entry 25). -/
def execReadRequest (s : State) : Host.Outcome State Fault Refusal :=
  match s.due with
  | ⟨.readRequest p, _⟩ :: rest => .next (serving 0 p s rest fun s => s.performAt p 1 (.read (min 512 (natOfBytes p.data))))
  | _ => .next s

def execWrite (s : State) : Host.Outcome State Fault Refusal :=
  match s.due with
  | ⟨.write p, _⟩ :: rest => .next (serving 2 p s rest fun s => s.performAt p 3 (.write p.data))
  | _ => .next s

/-- The element type that ETYPE names. -/
def bankTypeOf (e : BitVec 3) : BankType :=
  match e.toNat with
  | 1 => .int 4
  | 2 => .f32
  | 3 => .bf16
  | _ => .int 8

/-- The elements that a payload holds (log entry 25). -/
def payloadElems (t : BankType) (bs : List Byte) : List Nat :=
  (List.range (bs.length / t.bytes)).map fun i => natOfBytes ((bs.drop (i * t.bytes)).take t.bytes)

/-- The access of a packet at the bank ALU: one element and its second operand, where the function takes one, or as many
elements as the payload holds. -/
def bankAccess (fn : BankFn) (t : BankType) (bs : List Byte) (returns : Bool) : RemoteOp :=
  let xs := payloadElems t bs
  if fn.takesTwo then .bank fn t (xs.take 1) (xs.getD 1 0) returns else .bank fn t xs 0 returns

def execAtomic (s : State) : Host.Outcome State Fault Refusal :=
  match s.due with
  | ⟨.atomic p, _⟩ :: rest => .next (serving 4 p s rest fun s =>
      match BankFn.ofCode p.opc with
      | none => some (s.respond p 11 0x15 [])
      | some fn => s.performAt p 5 (bankAccess fn (bankTypeOf p.etype) p.data true))
  | _ => .next s

/-- A reduction switch merges contributions to one element: it sends one value, and after it, in 4 bytes, how many it merged
(log entry 25). Any other packet of one contributor counts once (R355). -/
def mergedCount (p : Packet) : BitVec 32 :=
  if p.via = 0#2 ++ p.src then 1 else BitVec.ofNat 32 (natOfBytes (p.data.drop (bankTypeOf p.etype).bytes))

/-- The values that a reduction adds: one where a switch merged them. -/
def mergedData (p : Packet) : List Byte := if p.via = 0#2 ++ p.src then p.data else p.data.take (bankTypeOf p.etype).bytes

def execReduction (s : State) : Host.Outcome State Fault Refusal :=
  match s.due with
  | ⟨.reduction p, _⟩ :: rest => .next (serving 6 p s rest fun s =>
      match BankFn.ofCode p.opc with
      | none => some (s.respond p 11 0x15 [])
      | some fn => s.performAt p 3 (bankAccess fn (bankTypeOf p.etype) (mergedData p) false) (mergedCount p))
  | _ => .next s

/-! ## Messages and launches (R354, R371, R378) -/

/-- Why a target refuses a message (R201 steps 4 and 5): the first cause that applies. -/
def State.messageCause (s : State) (tenant : BitVec 6) (core : CoreId) (off n : Nat) : Option (BitVec 8) :=
  if 0xC000 < off + n then some 0x1A else if s.tenantOf core != tenant then some 0x06 else none

/-- The last byte of a message has come: its lines, then its counter (R202). -/
def Core.messageDone (c : Core) (off n : Nat) (ctr : BitVec 4) (full : Bool) : Core :=
  (if full then c.setLines true (off / 128) ((off + n - 1) / 128 - off / 128 + 1) else c).raise ctr

/-- The message that a packet begins. -/
def freshMsg (p : Packet) : PartMsg := ⟨p.src, p.tag, p.core, p.ctr, p.full, p.mlen, p.daddr, 0, [], false, false⟩

/-- Does a packet go on with a message: the same sender, TAG and fields, and the address that follows (R371)? -/
def PartMsg.goesOn (m : PartMsg) (p : Packet) : Bool :=
  m.src == p.src && m.tag == p.tag && m.core == p.core && m.ctr == p.ctr && m.full == p.full && m.mlen == p.mlen
    && (m.first + m.got) % 65536 == p.daddr

/-- The message that a packet belongs to: the one under way, or a new one. What is left of another message under the same
TAG, one of whose packets never came, is done with. -/
def State.messageOf (s : State) (p : Packet) : PartMsg := (s.fabric.parts.find? fun m => m.goesOn p).getD (freshMsg p)

/-- Keeps how far a message is. -/
def State.keepMsg (s : State) (m : PartMsg) : State :=
  { s with fabric := { s.fabric with
      parts := (s.fabric.parts.filter fun n => !(n.src == m.src && n.tag == m.tag)) ++ if m.got < m.mlen then [m] else [] } }

/-- A message is discarded, once (R285): none of its bytes stays written. -/
def State.discardMsg (s : State) (m : PartMsg) : State :=
  (m.old.foldl (fun s b => s.poke b.1 b.2) s).modCore m.core fun c => { c with discards := c.discards + 1 }

/-- One packet of a message: its payload; with the last byte the lines, the counter and the acknowledgement (R371). -/
def State.messagePart (s : State) (p : Packet) : State :=
  let m := s.messageOf p
  let cause := s.messageCause p.tenant m.core m.first m.mlen
  let lost := m.lost || (cause.isNone && (s.getCore m.core).computing)
  let pa := localPa m.core p.daddr
  let writes := cause.isNone && !lost
  let n : PartMsg := { m with
    got := m.got + p.data.length
    lost := lost
    old := if writes then m.old ++ [(pa, s.mem.readBytes pa p.data.length)] else [] }
  let s := if lost && !m.lost then s.discardMsg m else if writes then s.poke pa p.data else s
  let s := s.keepMsg n
  if n.got < n.mlen || n.broken then s
  else match cause with
    | some c => s.respond p 11 c []
    | none => (if lost then s else s.modCore n.core fun c => c.messageDone n.first n.mlen n.ctr n.full).respond p 3 0 []

/-- A packet of a message is dropped: its bytes never come, and the message never ends (R362, R371). -/
def State.breakMsg (s : State) (p : Packet) : State :=
  let m := s.messageOf p
  s.keepMsg { m with got := m.got + p.data.length, broken := true }

def execMessage (s : State) : Host.Outcome State Fault Refusal :=
  match s.due with
  | ⟨.message p, _⟩ :: rest =>
    let t := serving 7 p s rest fun s => if (s.getCore p.core).holding then none else some (s.messagePart p)
    .next (if p.type = 7 && !s.packetOk p then t.breakMsg p else t)
  | _ => .next s

def execLaunchPacket (s : State) : Host.Outcome State Fault Refusal :=
  match s.due with
  | ⟨.launchPacket p, _⟩ :: rest => .next (serving 8 p s rest fun s =>
      let r := launchRecOf ((List.range 4).map fun i => dwordAt p.data (8 * i))
      if s.tenantOf r.target != p.tenant then some (s.respond p 11 0x06 [])
      else (s.acceptLaunch r).map fun t => t.respond p 3 0 [])
  | _ => .next s

/-! ## Collectives (R356, R357) -/

/-- The first context that meets a condition. -/
def State.collWhere (s : State) (f : CollCtx → Bool) : Option (Nat × CollCtx) :=
  List.find? (fun (c : Nat × CollCtx) => f c.2) s.fabric.colls

/-- The running context of a COLLID and a tenant. -/
def State.collOf (s : State) (collid : BitVec 16) (tenant : BitVec 6) : Option (Nat × CollCtx) :=
  s.collWhere fun c => c.collid == collid && c.cx.tenant == tenant && c.cx.state.isLive

/-- Puts a packet's bytes behind those of its fragment. -/
def joinFragment (q : List (Nat × List Byte)) (key : Nat) (bs : List Byte) : List (Nat × List Byte) :=
  if q.any (·.1 == key) then q.map fun f => if f.1 = key then (f.1, f.2 ++ bs) else f else q ++ [(key, bs)]

/-- A fragment's bytes enter the inbound buffer of a context; a report of STEPS is kept. -/
def State.enterColl (s : State) (n : Nat) (p : Packet) : State :=
  s.modColl n fun c =>
    if p.type = 10 then { c with peers := c.peers.set p.src.toNat (BitVec.ofNat 16 (natOfBytes p.data)) }
    else { c with cx := { c.cx with inbox := joinFragment c.cx.inbox (p.src.toNat + 1024 * p.tag.toNat) p.data } }

/-- A fragment is whole, as far as its packets show, after one of fewer than 512 bytes, or with 4 KiB. One that
they do not show whole is acknowledged as it is taken (log entry 26). -/
def fragmentWhole (bs : List Byte) (n : Nat) : Bool := decide (bs.length < 512) || decide (4096 ≤ n)

/-- COLLECTIVE_FRAGMENT: into its context, or the inbound area of 64 KiB; held while there is no room. -/
def State.fragmentIn (s : State) (p : Packet) : Option State :=
  let key := p.src.toNat + 1024 * p.tag.toNat
  let ack (n : Nat) (s : State) : State := if fragmentWhole p.data n then s.respond p 3 0 [] else s
  match s.collOf p.collid p.tenant with
  | some (n, c) =>
    if 4096 < inboxBytes c.cx.inbox + p.data.length then none
    else
      let had := ((c.cx.inbox.find? (·.1 == key)).map fun f => f.2.length).getD 0
      some (ack (had + p.data.length) (s.enterColl n p))
  | none =>
    let held := (s.fabric.inbound.map fun q => q.data.length).sum
    if 65536 < held + p.data.length then none
    else
      let had := ((s.fabric.inbound.filter fun q => q.src == p.src && q.tag == p.tag && q.type == 9).map fun q => q.data.length).sum
      some (ack (had + p.data.length) { s with fabric := { s.fabric with inbound := s.fabric.inbound ++ [p] } })

def execCollectiveFragment (s : State) : Host.Outcome State Fault Refusal :=
  match s.due with
  | ⟨.collectiveFragment p, _⟩ :: rest => .next (serving 9 p s rest fun s => s.fragmentIn p)
  | _ => .next s

/-- COLLECTIVE_CONTROL: STEPS of a member; a report that comes before its context waits with the fragments. -/
def execCollectiveControl (s : State) : Host.Outcome State Fault Refusal :=
  match s.due with
  | ⟨.collectiveControl p, _⟩ :: rest => .next (serving 10 p s rest fun s =>
      match s.collOf p.collid p.tenant with
      | some (n, _) => some (s.enterColl n p)
      | none => some { s with fabric := { s.fabric with inbound := s.fabric.inbound ++ [p] } })
  | _ => .next s

/-! ## Responses (R351) -/

/-- What waits on a request takes its outcome. A response that comes when its unit waits for it no longer, since the
work was stopped meanwhile, is taken by nothing. -/
def State.settleRequest (s : State) (tag : Nat) (r : Request) (v : RemoteVal) : State :=
  match r.use with
  | .precise => s.modWho r.who fun k => { k with progress := match k.progress with
      | .remote got (some t) => if t = tag then .remote (got ++ [v]) none else .remote got (some t)
      | p => p }
  | .posted => match v with
    | .fail c => s.modWho r.who fun k => k.fail c r.va
    | .data _ => s
  | .command id => match s.cmd? id with
    | none => s
    | some c =>
      if c.tag ≠ some tag then s
      else ({ s with cmds := s.cmds.map fun (d : Cmd) => if d.id = id then { d with got := d.got ++ [v], tag := none } else d }).enqueue c.act
  | .route d => s.modRouting d fun q => if q.tag = some tag then { q with got := q.got ++ [v], tag := none } else q
  | .rsend q n => s.alight r.who q n (match v with
      | .data _ => 0
      | .fail c => errorRecord c 0)
  | .fragment n cmd steps => match v with
    | .data _ => s
    | .fail 0x16 => s
    | .fail _ => match s.fabric.colls.find? n.toNat with
      | none => s
      | some c =>
        if c.cmd ≠ cmd then s
        else if c.cx.state = .inStep && c.cx.steps == steps then s.failStep (.coll n) 7
        else s.modColl n.toNat fun c => { c with refused := true }

/-- A request has its outcome. -/
def State.complete (s : State) (tag : Nat) (v : RemoteVal) : State :=
  match s.fabric.reqs.find? tag with
  | none => s
  | some r =>
    let s := { s with fabric := { s.fabric with reqs := s.fabric.reqs.erase tag } }
    (s.settleRequest tag r v).settle r.who.core

/-- A received response: one that fails the issuer's own check fails its access with cause 0x15. -/
def State.response (s : State) (rest : List Due) (type : Nat) (p : Packet) (v : RemoteVal) : State :=
  let s' := { s with due := rest }
  if p.type ≠ type then s'.logDrop p
  else if s.packetOk p then (s'.acceptSeq p).complete p.tag.toNat v
  else (s'.dropPacket p false).complete p.tag.toNat (.fail 0x15)

def execReadResponse (s : State) : Host.Outcome State Fault Refusal :=
  match s.due with
  | ⟨.readResponse p, _⟩ :: rest => .next (s.response rest 1 p (.data p.data))
  | _ => .next s

def execWriteAcknowledgement (s : State) : Host.Outcome State Fault Refusal :=
  match s.due with
  | ⟨.writeAcknowledgement p, _⟩ :: rest => .next (s.response rest 3 p (.data []))
  | _ => .next s

def execAtomicResponse (s : State) : Host.Outcome State Fault Refusal :=
  match s.due with
  | ⟨.atomicResponse p, _⟩ :: rest => .next (s.response rest 5 p (.data p.data))
  | _ => .next s

def execFailureResponse (s : State) : Host.Outcome State Fault Refusal :=
  match s.due with
  | ⟨.failureResponse p, _⟩ :: rest => .next (s.response rest 11 p (.fail p.status))
  | _ => .next s

/-- FABRIC_TIMEOUT: no response within FTMO (R351); a later request under the same TAG has its own. -/
def execFabricTimeout (s : State) : Host.Outcome State Fault Refusal :=
  match s.due with
  | ⟨.fabricTimeout tag, _⟩ :: rest =>
    let s' := { s with due := rest }
    match s.fabric.reqs.find? tag with
    | some r =>
      if r.due ≤ s.cycle.toNat then
        .next (({ s' with fabric := { s'.fabric with timeouts := satUp s'.fabric.timeouts } } : State).complete tag (.fail 0x16))
      else .next s'
    | none => .next s'
  | _ => .next s

end Sys2Proof.Machine
end

