-- ==== Sys2Proof/Machine/Optim.lean ====
section
/-! DEFINITION. What the stack-engine commands share (R344), and the optimiser unit: UPDT (R339 to R341). Each act of
the unit commits one row. -/

namespace Sys2Proof.Machine

/-! ## Shared by the commands (R344) -/

def CmdKind.isStack : CmdKind → Bool
  | .updt _ | .fmt _ | .rkload .. | .rkrun .. | .smode _ => true
  | _ => false

def CmdKind.isColl : CmdKind → Bool
  | .coll => true
  | _ => false

/-- The token register is free (R169), and the core has fewer than 8 such commands outstanding. -/
def commandTurn (t : BitVec 5) (counts : CmdKind → Bool) : M Unit := do
  let s ← get
  if s.ctx.pend.getLsbD t.toNat then wait
  else if 8 ≤ s.cmds.countP (fun c => c.who.core == s.core.id && counts c.kind) then wait
  else pure ()

/-- Steps 3 and 4: an aligned descriptor of n bytes, as doublewords; a PRIMAL command reads it as in FWD mode (R316). -/
def readDescriptor (a : Word) (n : Nat) : M (List Word) := do
  guardTrap (a.toNat % 8 == 0) 0x03 a
  let k ← ctx
  let bs ← memLoad a n k.modPrimal
  return (List.range (n / 8)).map fun i => dwordAt bs (8 * i)

/-- Ranges of virtual addresses as a footprint. -/
def footOf (rs : List (Word × Nat)) : List Foot := rs.map fun r => .va r.1 r.2

/-- A row of an engine command is complete: the next row is due, or the token lands. -/
def State.rowDone (s : State) (c : Cmd) (rows n : Nat) (act : Act) : State :=
  if c.step + 1 < rows then
    ({ s with cmds := s.cmds.map fun (d : Cmd) => if d.id = c.id then { d with step := c.step + 1, moved := c.moved + n, got := [] } else d }).enqueue act
  else s.finish c (BitVec.ofNat 64 (c.moved + n))

/-- One row of a command that works row by row; `work` answers the bytes that the row counts for. -/
def State.carryRow (s : State) (rest : List Due) (id : Nat) (act : Act) (rows : Cmd → Nat) (work : Cmd → E Nat) : State :=
  let s' := { s with due := rest }
  match s.cmd? id with
  | none => s'
  | some c =>
    if c.tag.isSome then s'
    else if !s.cmdTurn c then s
    else match work c (s', c.got) with
      | .ok (n, (s1, _)) => s1.rowDone c (rows c) n act
      | .error (.fault cause) => s'.finish c (errorRecord cause c.moved)
      | .error (.issue va pa op) => s'.issueFor c act va pa op
      | .error .held => s

/-! ## The descriptor of UPDT (R340) -/

def updtParams (d : List Word) : Word := d.getD 0 0
def updtCount (d : List Word) : Nat := (d.getD 1 0).toNat % 2 ^ 32
def updtGrad (d : List Word) : Word := d.getD 2 0
def updtF32 (d : List Word) : Bool := (d.getD 3 0).getLsbD 0
/-- An FP32 field of doublewords 4 to 7. -/
def updtField (d : List Word) (i : Nat) (hi : Bool) : Nat :=
  let v := d.getD i 0
  (if hi then v.extractLsb' 32 32 else v.extractLsb' 0 32).toNat

/-- Bytes of a gradient. -/
def updtSize (d : List Word) : Nat := if updtF32 d then 4 else 2

def updtOk (d : List Word) : Bool :=
  (updtParams d).toNat % 1024 == 0 && updtCount d != 0 && (d.getD 1 0).extractLsb' 32 32 == 0
    && (updtGrad d).toNat % updtSize d == 0 && (d.getD 3 0).extractLsb' 1 63 == 0

/-- Its records and its gradients (R344). -/
def updtFoot (d : List Word) : List (Word × Nat) := [(updtParams d, 16 * updtCount d), (updtGrad d, updtSize d * updtCount d)]

def execUpdt (t : BitVec 5) (a : Opnd) (s : State) : Host.Outcome State Fault Refusal :=
  unit (do
    let x ← src a
    let d ← readDescriptor x 64
    guardTrap (updtOk d) 0x1A x
    revCheck (updtFoot d)
    commandTurn t CmdKind.isStack
    traceCommandVa x
    modify fun s => s.issue t (.updt d) (footOf (updtFoot d)) .updtComplete
    next) s

/-! ## One record (R340) -/

/-- RN: RoundNE32 of an exact result. -/
def rn (x : Num × Bool) : Nat := (roundNE32 x.1).1
def f32 (x : Nat) : Num := Fmt.value .fp32 x
def rnMul (a b : Nat) : Nat := rn (mulN (f32 a) (f32 b))
def rnAdd (a b : Nat) : Nat := rn (addN .nearest (f32 a) (f32 b))
def rnSub (a b : Nat) : Nat := rn (addN .nearest (f32 a) (f32 b).negate)
def rnDiv (a b : Nat) : Nat := rn (divN (f32 a) (f32 b))
def rnSqrt (a : Nat) : Nat := rn (sqrtN (f32 a))

/-- A parameter record (R339). -/
structure ParamRec where
  w    : Nat
  m    : Nat
  v    : Nat
  wb   : Nat
  skip : Nat
  deriving DecidableEq, Repr, Inhabited

def ParamRec.ofBytes (bs : List Byte) : ParamRec :=
  ⟨natOfBytes (bs.take 4), natOfBytes ((bs.drop 4).take 4), natOfBytes ((bs.drop 8).take 4), natOfBytes ((bs.drop 12).take 2),
    natOfBytes ((bs.drop 14).take 2)⟩

def ParamRec.toBytes (r : ParamRec) : List Byte :=
  bytesOfNat 4 r.w ++ bytesOfNat 4 r.m ++ bytesOfNat 4 r.v ++ bytesOfNat 2 r.wb ++ bytesOfNat 2 r.skip

/-- The update of one record by the gradient G, widened exactly to FP32; and whether it was skipped. -/
def ParamRec.update (r : ParamRec) (d : List Word) (grad : Nat) : ParamRec × Bool :=
  let one : Nat := 0x3F800000
  let lr := updtField d 4 false
  let wd := updtField d 4 true
  let b1 := updtField d 5 false
  let b2 := updtField d 5 true
  let eps := updtField d 6 false
  let gs := updtField d 6 true
  let bc1 := updtField d 7 false
  let bc2 := updtField d 7 true
  let c1 := rnSub one b1
  let c2 := rnSub one b2
  let g := rnMul gs grad
  if Fmt.isNan .fp32 g || Fmt.isInf .fp32 g then ({ r with skip := min (r.skip + 1) 0xFFFF }, true)
  else
    let m := rnAdd (rnMul b1 r.m) (rnMul c1 g)
    let v := rnAdd (rnMul b2 r.v) (rnMul c2 (rnMul g g))
    let q := rnAdd (rnSqrt (rnMul v bc2)) eps
    let u := rnDiv (rnMul m bc1) q
    let u := rnAdd u (rnMul wd r.w)
    let w := rnSub r.w (rnMul lr u)
    ({ r with w := w, m := m, v := v, wb := (round .bf16 .nearest false 0 (f32 w)).1 }, false)

/-! ## One row (R341) -/

/-- Is every byte in the regions that R340 names? Where it is not, cause 0x1A is recorded (log entry 23). -/
def eWithin (e : Eng) (k : AccKind) (va : Word) (n : Nat) (ok : Region → Bool) : E Unit := do
  for (a, _) in spans va n do
    let p ← eXlate e k a
    if !ok (regionOf p.pa) then eFault 0x1A

/-- The gradients of n records from record i on, in FP32. -/
def readGradients (e : Eng) (d : List Word) (i n : Nat) : E (List Nat) := do
  let z := updtSize d
  let a := updtGrad d + BitVec.ofNat 64 (z * i)
  eWithin e .load a (z * n) fun r => r == .pool || r == .stackMem
  let bs ← eRead e a (z * n)
  return (List.range n).map fun j =>
    let x := natOfBytes ((bs.drop (z * j)).take z)
    if updtF32 d then x else Fmt.widen .bf16 .fp32 x

/-- Row i: read, computed and committed as one write; the rows before it stand. -/
def updtRow (e : Eng) (d : List Word) (i : Nat) : E Nat := do
  let a := updtParams d + BitVec.ofNat 64 (1024 * i)
  eWithin e .load a 1024 (· == .stackMem)
  let p ← eXlate e .load a
  let old ← eRead e a 1024
  let n := min 64 (updtCount d - 64 * i)
  let gs ← readGradients e d (64 * i) n
  let recs := (List.range 64).map fun j =>
    let r := ParamRec.ofBytes ((old.drop (16 * j)).take 16)
    if j < n then r.update d (gs.getD j 0) else (r, false)
  eWrite e a (recs.flatMap fun r => r.1.toBytes)
  let skipped := recs.countP (·.2)
  match rankOf p.pa with
  | some (id, _) => eMod fun s => s.modStack (id / 1024) fun k => { k with nfcnt := k.nfcnt + BitVec.ofNat 32 skipped }
  | none => pure ()
  return if n < 64 then 16 * n else 1024

/-- UPDT_COMPLETE: the next row, and after the last one the token. -/
def execUpdtComplete (s : State) : Host.Outcome State Fault Refusal :=
  match s.due with
  | ⟨.updtComplete id, _⟩ :: rest =>
    let d (c : Cmd) : List Word := match c.kind with
      | .updt d => d
      | _ => []
    .next (s.carryRow rest id (.updtComplete id) (fun c => (updtCount (d c) + 63) / 64) fun c => do
      let s ← eState
      updtRow (s.engOf c) (d c) c.step)
  | _ => .next s

end Sys2Proof.Machine
end

