-- ==== Sys2Proof/Machine/StackEng.lean ====
section
/-! DEFINITION. The stack-engine family, OP 51, but for UPDT and FMT (R329, R343 to R345), the completions of its
commands, the q0 commands (R346) and activation alerts (R337). -/

namespace Sys2Proof.Machine

/-! ## RKLOAD (R343, R344) -/

def loadStack (w : Word) : Nat := (w.extractLsb' 6 4).toNat
def loadFirst (w : Word) : Nat := (w.extractLsb' 10 10).toNat
def loadCount (w : Word) : Nat := (w.extractLsb' 20 11).toNat
def loadAll (w : Word) : Bool := w.getLsbD 31
/-- The columns that a load word names. -/
def loadColumns (w : Word) : List Nat := if loadAll w then List.range 64 else [(w.extractLsb' 0 6).toNat]

def loadWordOk (w : Word) : Bool :=
  w.extractLsb' 32 32 == 0 && decide (loadStack w ≤ 11) && decide (1 ≤ loadCount w) && decide (loadCount w ≤ 1024)
    && decide (loadFirst w + loadCount w ≤ 1024)

/-- Step 7 for a stack: it is in RANK mode, with no switch in progress. -/
def stackReady (n : Nat) : M Unit := do
  let s ← get
  guardTrap ((s.stack n).mode && !(s.stack n).swp) 0x1A (s.rkstatWord n)

/-- The lowest live rank among some. -/
def State.lowestLive (s : State) (ok : Nat → Bool) : Option Nat :=
  (List.find? (fun (r : Nat × StepCtx) => ok r.1 && r.2.state.isLive) s.ranks).map Prod.fst

def execRkload (t : BitVec 5) (a b : Opnd) (s : State) : Host.Outcome State Fault Refusal :=
  unit (do
    let word := wordOf (.rkload t a b)
    let x ← src a
    let w ← src b
    guardTrap (x.toNat % 4 == 0) 0x03 x
    guardTrap (loadWordOk w) 0x1A word
    let s ← get
    guardTrap ((loadColumns w).all (s.columnOwned s.tenant)) 0x06 word
    stackReady (loadStack w)
    match s.lowestLive fun r => r / 1024 == loadStack w && (loadColumns w).contains (r / 16 % 64) with
    | some r => trap 0x1A (BitVec.ofNat 64 r)
    | none => pure ()
    revCheck [(x, 4 * loadCount w)]
    commandTurn t CmdKind.isStack
    traceCommandVa x
    modify fun s => s.issue t (.rkload x w) (footOf [(x, 4 * loadCount w)]) .rkloadComplete
    next) s

/-- Words into the step stores. -/
def State.loadSteps (s : State) (w : Word) (bs : List Byte) : State :=
  (loadColumns w).foldl (fun s c =>
    let n := loadStack w * 64 + c
    let q := s.sequencer n
    s.setSequencer n { q with store := (List.range (loadCount w)).foldl (fun t i =>
      t.set (loadFirst w + i) (BitVec.ofNat 32 (natOfBytes ((bs.drop (4 * i)).take 4)))) q.store }) s

def execRkloadComplete (s : State) : Host.Outcome State Fault Refusal :=
  match s.due with
  | ⟨.rkloadComplete id, _⟩ :: rest =>
    .next (({ s with due := rest } : State).carryOut id (.rkloadComplete id) fun c =>
      match c.kind with
      | .rkload x w => do
        let s ← eState
        let bs ← eRead (s.engOf c) x (4 * loadCount w)
        eMod fun s => s.loadSteps w bs
        return BitVec.ofNat 64 (4 * loadCount w)
      | _ => return 0)
  | _ => .next s

/-! ## RKRUN (R343, R344) -/

def runGroup (d : List Word) : Group := ⟨((d.getD 0 0).extractLsb' 0 14).toNat, dimsOf (d.getD 1 0) (d.getD 2 0) 7⟩
def runEntry (d : List Word) : Nat := ((d.getD 0 0).extractLsb' 16 10).toNat
def runWrow (d : List Word) : Nat := ((d.getD 3 0).extractLsb' 0 16).toNat
def runWrows (d : List Word) : Nat := ((d.getD 3 0).extractLsb' 16 16).toNat
/-- A time-out in µs, 0 meaning 100. -/
def usOf (v : BitVec 16) : Nat := if v = 0 then 100 else v.toNat
def runTmo (d : List Word) : Nat := usOf ((d.getD 4 0).extractLsb' 0 16)

/-- Step 5: ranges, reserved bits, and the rules of R331. -/
def runOk (d : List Word) : Bool :=
  (d.getD 0 0).extractLsb' 14 2 == 0 && (d.getD 0 0).extractLsb' 26 38 == 0
    && dimsOk (d.getD 1 0) (d.getD 2 0) 7 64
    && (d.getD 3 0).extractLsb' 32 32 == 0 && decide (runWrow d + runWrows d ≤ 65472)
    && (d.getD 4 0).extractLsb' 16 48 == 0 && (d.getD 5 0).extractLsb' 18 46 == 0 && d.getD 6 0 == 0 && d.getD 7 0 == 0
    && (runGroup d).ok 12288

/-- The windows of every member (R344). -/
def runFoot (d : List Word) (ms : List Nat) : List Foot :=
  ms.map fun m => .pa (4 * 2 ^ 48 + m * 2 ^ 26 + 1024 * runWrow d) (1024 * runWrows d)

/-- A rank context as RKRUN starts it (R330). -/
def StepCtx.started (k : StepCtx) (g : Group) (entry wrow wrows tmo : Nat) (run : Option Nat) (tenant : BitVec 6) : StepCtx :=
  { StepCtx.reset with state := .running, spc := entry, group := g, wrow := wrow, wrows := wrows, tmo := tmo, run := run, tenant := tenant, overBudget := k.overBudget }

/-- The lowest of some numbers. -/
def lowest (xs : List Nat) : Option Nat := xs.foldl (fun b x => match b with
  | none => some x
  | some y => some (min x y)) none

def execRkrun (t : BitVec 5) (a : Opnd) (s : State) : Host.Outcome State Fault Refusal :=
  unit (do
    let word := wordOf (.rkrun t a)
    let x ← src a
    let d ← readDescriptor x 64
    guardTrap (runOk d) 0x1A x
    let g := runGroup d
    let ms := g.members
    let s ← get
    guardTrap (ms.all fun m => s.columnOwned s.tenant (m / 16 % 64)) 0x06 word
    for n in (List.range 12).filter (fun n => ms.any fun m => m / 1024 == n) do stackReady n
    match lowest (ms.filter fun m => (s.rank m).state.isLive) with
    | some m => trap 0x1A (BitVec.ofNat 64 m)
    | none => pure ()
    match lowest (ms.filter fun m => (s.rank m).state == .failed) with
    | some m => trap 0x17 (BitVec.ofNat 64 m)
    | none => pure ()
    commandTurn t CmdKind.isStack
    traceCommandVa x
    modify fun s =>
      let id := s.nextCmd
      let s := s.issue t (.rkrun d ms) (runFoot d ms) .rankProgramComplete
      ms.foldl (fun s m => s.setRank m ((s.rank m).started g (runEntry d) (runWrow d) (runWrows d) (runTmo d) (some id) s.tenant)) s
    next) s

/-- RANK_PROGRAM_COMPLETE: no member of the run is live: the completion counter is raised and the token lands
(R343, R344). -/
def execRankProgramComplete (s : State) : Host.Outcome State Fault Refusal :=
  match s.due with
  | ⟨.rankProgramComplete id, _⟩ :: rest =>
    let s' := { s with due := rest }
    match s.cmd? id with
    | none => .next s'
    | some c => match c.kind with
      | .rkrun d ms =>
        let mine := ms.filter fun m => (s.rank m).run == some id
        let e := d.getD 5 0
        let core : CoreId := e.extractLsb' 0 13
        let en := e.getLsbD 17
        if mine.any (fun m => (s.rank m).state.isLive) || (en && (s.getCore core).holding) then .next s
        else
          let s' := if en then s'.raiseAt core (e.extractLsb' 13 4) else s'
          .next (s'.finish c (match lowest (mine.filter fun m => (s.rank m).state == .failed) with
            | some m => errorRecord 0x17 m
            | none => BitVec.ofNat 64 ms.length))
      | _ => .next s'
  | _ => .next s

/-! ## RKSTAT (R345) -/

def execRkstat (d a : Opnd) (clear : Bool) (s : State) : Host.Outcome State Fault Refusal :=
  unit (do
    let x ← src a
    let id := (x.extractLsb' 0 14).toNat
    guardTrap (x.extractLsb' 14 50 == 0 && decide (id < 12288)) 0x1A x
    let s ← get
    guardTrap (s.columnOwned s.tenant (id / 16 % 64)) 0x06 x
    dst (wordOf (.rkstat d a clear)) d (s.rank id).statusWord
    modify fun s =>
      if clear && (s.rank id).state == .failed then s.setRank id { s.rank id with state := .idle } else s
    next) s

/-! ## SMODE (R329, R344) -/

def smodeStack (w : Word) : Nat := (w.extractLsb' 0 4).toNat
def smodeTarget (w : Word) : Bool := w.getLsbD 4

/-- Step 6 at KERNEL level: the tenant, and no other, owns a band. -/
def State.ownsEveryBand (s : State) (tenant : BitVec 6) : Bool :=
  (List.range 64).any (s.columnOwned tenant)
    && (List.range 64).all fun c => !(s.sown.get c 0).getLsbD 7 || s.columnOwned tenant c

def execSmode (t : BitVec 5) (a : Opnd) (s : State) : Host.Outcome State Fault Refusal :=
  unit (do
    let word := wordOf (.smode t a)
    let s ← get
    guardTrap (!s.ctx.isUser) 0x06 word
    let w ← src a
    let s ← get
    guardTrap (decide (smodeStack w ≤ 11) && w.extractLsb' 5 11 == 0 && w.extractLsb' 32 32 == 0) 0x1A word
    guardTrap (s.ctx.isManager || s.ownsEveryBand s.tenant) 0x06 word
    let n := smodeStack w
    guardTrap (!(s.stack n).swp) 0x1A (s.rkstatWord n)
    commandTurn t CmdKind.isStack
    traceCommand 0 0
    if (s.stack n).mode == smodeTarget w then modCtx fun k => k.writeX t 0
    else modify fun s =>
      let id := s.nextCmd
      let st : BitVec 4 := BitVec.ofNat 4 n
      let s := s.issue t (.smode w) [] fun _ => .modeSwitchComplete st
      let s := s.modStack n fun k => { k with swp := true, smode := some id }
      if smodeTarget w then s
      else s.enqueue (.switchDeadline st) (some (s.cycle.toNat + cyclesOf (usOf (w.extractLsb' 16 16))))
    next) s

/-- A switch has ended: its acts are due no longer, and the token lands. -/
def State.endSwitch (s : State) (st : BitVec 4) (v : Word) : State :=
  let c? := (s.stack st.toNat).smode.bind s.cmd?
  let s := { s with due := s.due.filter fun d => d.act != Act.modeSwitchComplete st && d.act != Act.switchDeadline st }
  let s := s.modStack st.toNat fun k => { k with swp := false, smode := none }
  match c? with
  | some c => s.finish c v
  | none => s

/-- MODE_SWITCH_COMPLETE: a switch to NORMAL mode waits for the steps in progress; a switch to RANK mode leaves the
contents of the staging rows unspecified (R328, R329). -/
def execModeSwitchComplete (s : State) : Host.Outcome State Fault Refusal :=
  match s.due with
  | ⟨.modeSwitchComplete st, _⟩ :: rest =>
    let n := st.toNat
    if !(s.stack n).swp then .next { s with due := rest }
    else if (s.stack n).mode && s.ranks.any (fun r => r.1 / 1024 == n && r.2.state == .inStep) then .next s
    else
      let s' := s.modStack n fun k => { k with
        mode := !k.mode, swdone := true, swcnt := k.swcnt + 1, scr := if k.mode then k.scr else some s.tick }
      let s' := if (s.stack n).mode then s' else s'.drawn
      .next (({ s' with due := rest } : State).endSwitch st 0)
  | _ => .next s

/-- SWITCH_DEADLINE: the switch fails, and the stack stays in RANK mode (R329). -/
def execSwitchDeadline (s : State) : Host.Outcome State Fault Refusal :=
  match s.due with
  | ⟨.switchDeadline st, _⟩ :: rest =>
    let s' := { s with due := rest }
    if (s.stack st.toNat).swp then .next ((s'.modStack st.toNat fun k => { k with swf := true }).endSwitch st (errorRecord 0x1A 0))
    else .next s'
  | _ => .next s

/-! ## q0 (R346) -/

def execActcfg (s : State) : Host.Outcome State Fault Refusal :=
  match s.due with
  | ⟨.actcfg w ws, _⟩ :: rest =>
    let v := ws.headD 0
    let s := ({ s with due := rest } : State).modStack (v.extractLsb' 0 4).toNat fun k => { k with
      budget := v.extractLsb' 8 8, winus := v.extractLsb' 16 16 }
    .next (s.settle w.core)
  | _ => .next s

/-- Every earlier store of the strand stands in memory at its step, so SCADD follows it; one to the fabric is waited
for. -/
def execScadd (s : State) : Host.Outcome State Fault Refusal :=
  match s.due with
  | ⟨.scadd w ws, _⟩ :: rest =>
    if s.fabric.reqs.any fun r => r.2.who == w && r.2.use == .posted then .next s
    else
      let v := ws.headD 0
      let n := (v.extractLsb' 0 10).toNat
      let c := (v.extractLsb' 10 4).toNat
      let q := s.sequencer n
      let s := ({ s with due := rest } : State).setSequencer n { q with counters := q.counters.set c (q.counters.get c 0 + v.extractLsb' 16 16) }
      .next (s.settle w.core)
  | _ => .next s

/-! ## Activation alerts (R337) -/

/-- The next window of a stack is due: windows of WINUS follow one another from cycle 0 on (log entry 87). -/
def State.nextWindow (s : State) (st : BitVec 4) : State :=
  if s.due.any fun d => d.act == .alertWindowStart st then s
  else
    let w := cyclesOf (s.stack st.toNat).winus.toNat
    s.enqueue (.alertWindowStart st) (some ((s.cycle.toNat / w + 1) * w))

/-- ACTIVATION_ALERT: once the bank's rank is at a boundary, the alert is counted; over the budget the rank's next
collective step fails. -/
def execActivationAlert (s : State) : Host.Outcome State Fault Refusal :=
  match s.due with
  | ⟨.activationAlert id, _⟩ :: rest =>
    let r := s.rank id.toNat
    if r.state = .inStep then .next s
    else
      let n := id.toNat / 1024
      let s := ({ s with due := rest } : State).modStack n fun k => { k with alerts := k.alerts + 1, win := if k.win = 255 then 255 else k.win + 1 }
      let s := s.nextWindow (BitVec.ofNat 4 n)
      let k := s.stack n
      .next (if k.budget != 0 && decide (k.budget.toNat < k.win.toNat) then s.setRank id.toNat { r with overBudget := true } else s)
  | _ => .next s

/-- ALERT_WINDOW_START: WIN returns to 0, and the next window starts WINUS later. -/
def execAlertWindowStart (s : State) : Host.Outcome State Fault Refusal :=
  match s.due with
  | ⟨.alertWindowStart st, _⟩ :: rest =>
    let s := ({ s with due := rest } : State).modStack st.toNat fun k => { k with win := 0 }
    .next (s.enqueue (.alertWindowStart st) (some (s.cycle.toNat + cyclesOf (s.stack st.toNat).winus.toNat)))
  | _ => .next s

end Sys2Proof.Machine
end

