-- ==== Sys2Proof/Machine/Fabric.lean ====
section
/-! DEFINITION. The fabric family, OP 52 (R356 to R360), the q3 commands (R354, R355, R371), the trust domain and its
generations (R361 to R363). -/

namespace Sys2Proof.Machine

/-! ## COLL (R356, R359) -/

def collGroup (d : List Word) : Group := ⟨((d.getD 0 0).extractLsb' 0 10).toNat, dimsOf (d.getD 1 0) (d.getD 2 0) 11⟩
/-- NW: 0 stands for 1,024. -/
def collNw (d : List Word) : Nat := if (d.getD 0 0).extractLsb' 16 10 = 0 then 1024 else ((d.getD 0 0).extractLsb' 16 10).toNat
def collImage (d : List Word) : Word := d.getD 3 0
def collWbase (d : List Word) : BitVec 16 := (d.getD 4 0).extractLsb' 0 16
def collWlines (d : List Word) : Nat := ((d.getD 4 0).extractLsb' 16 9).toNat
def collCnum (d : List Word) : Nat := ((d.getD 5 0).extractLsb' 4 5).toNat
def collId (d : List Word) : BitVec 16 := (d.getD 6 0).extractLsb' 0 16

/-- Ranges and reserved bits. -/
def collOk (d : List Word) : Bool :=
  (d.getD 0 0).extractLsb' 10 6 == 0 && (d.getD 0 0).extractLsb' 26 38 == 0
    && dimsOk (d.getD 1 0) (d.getD 2 0) 11 1024
    && (d.getD 4 0).extractLsb' 25 39 == 0 && (collWbase d).toNat % 128 == 0 && decide (1 ≤ collWlines d) && decide (collWlines d ≤ 384)
    && decide ((collWbase d).toNat + 128 * collWlines d ≤ 0xC000)
    && decide (1 ≤ collCnum d) && decide (collCnum d ≤ 16) && (d.getD 5 0).extractLsb' 10 6 == 0 && (d.getD 5 0).extractLsb' 32 32 == 0
    && (d.getD 6 0).extractLsb' 16 48 == 0 && d.getD 7 0 == 0
    && (collGroup d).ok 1024

/-- The context that a COLL takes: the ended one of its COLLID and tenant, an unused one, or else the first that has
ended; none while all 16 are in use. -/
def State.freeColl (s : State) (collid : BitVec 16) (tenant : BitVec 6) : Option Nat :=
  let ended (n : Nat) (f : CollCtx → Bool) : Bool := match s.fabric.colls.find? n with
    | some c => !c.cx.state.isLive && f c
    | none => false
  match (List.range 16).find? fun n => ended n fun c => c.collid == collid && c.cx.tenant == tenant with
  | some n => some n
  | none => match (List.range 16).find? fun n => (s.fabric.colls.find? n).isNone with
    | some n => some n
    | none => (List.range 16).find? fun n => ended n fun _ => true

/-- Starts a context, with the packets that came for it before (R356). -/
def State.startColl (s : State) (n id : Nat) (d : List Word) (words : List (BitVec 32)) : State :=
  let e := d.getD 5 0
  let cx := StepCtx.reset.started (collGroup d) 0 0 0 (usOf (e.extractLsb' 16 16)) (some id) s.tenant
  let c : CollCtx := ⟨cx, words, collNw d, id, s.who, collId d, collWbase d, collWlines d, (e.extractLsb' 0 4).toNat, collCnum d,
    e.getLsbD 9, 0, 0, [], false⟩
  let mine (p : Packet) : Bool := p.collid == collId d && p.tenant == s.tenant
  let early := s.fabric.inbound.filter mine
  let s := { s with fabric := { s.fabric with colls := s.fabric.colls.set n c, inbound := s.fabric.inbound.filter fun p => !mine p } }
  early.foldl (fun s p => s.enterColl n p) s

/-- The image is read as a load of the instruction: its failing read traps (log entry 27). -/
def execColl (t : BitVec 5) (a : Opnd) (s : State) : Host.Outcome State Fault Refusal :=
  unit (do
    let x ← src a
    let d ← readDescriptor x 64
    guardTrap ((collImage d).toNat % 4 == 0) 0x03 (collImage d)
    guardTrap (collOk d) 0x1A x
    let s ← get
    guardTrap ((collGroup d).members.contains s.pkgid.toNat) 0x1A x
    guardTrap (s.collOf (collId d) s.tenant).isNone 0x1A x
    revCheck [((collWbase d).setWidth 64, 128 * collWlines d), (collImage d, 4 * collNw d)]
    commandTurn t fun k => k.isStack || k.isColl
    match s.freeColl (collId d) s.tenant with
    | none => wait
    | some n =>
      let k ← ctx
      let bs ← memLoad (collImage d) (4 * collNw d) k.modPrimal
      traceCommandVa x
      modify fun s =>
        let id := s.nextCmd
        let words := (List.range (collNw d)).map fun i => BitVec.ofNat 32 (natOfBytes ((bs.drop (4 * i)).take 4))
        (s.issue t .coll [.va ((collWbase d).setWidth 64) (128 * collWlines d)] .collComplete).startColl n id d words
      next) s

/-- COLL_COMPLETE: the token of a context that has ended (R359). -/
def execCollComplete (s : State) : Host.Outcome State Fault Refusal :=
  match s.due with
  | ⟨.collComplete id, _⟩ :: rest =>
    let s' := { s with due := rest }
    match s.cmd? id, s.collWhere fun c => c.cmd == id with
    | some k, some (_, c) =>
      if c.cx.state.isLive then .next s
      else .next (s'.finish k (if c.cx.state = .failed then errorRecord (if c.cx.reason = 7 then 0x15 else 0x17) c.written
        else BitVec.ofNat 64 c.written))
    | _, _ => .next s'
  | _ => .next s

/-! ## DOMBAR and FSTAT (R360, R363) -/

/-- A message or a launch that q3 has passed to the fabric engine and that has not left yet. -/
def State.q3Waiting (s : State) : Bool :=
  s.due.any fun d => match d.act with
    | .rsend .. | .rlaunch .. => true
    | _ => false

/-- A leader announces the pending generation once every member that it awaits has arrived (R363). -/
def State.announceWhole (s : State) : State :=
  match s.fabric.target with
  | some t =>
    if s.fabric.leader && s.fabric.arrived && (s.fabric.members.all fun m => m == s.myId || s.fabric.reported.contains m)
        && !s.due.any (fun d => d.act == .generationAnnounce t) then s.enqueue (.generationAnnounce t)
    else s
  | none => s

/-- Every fabric request, message and fragment of the package has its response: the package arrives, once. -/
def State.arriveDomain (s : State) : State :=
  if s.fabric.reqs = [] ∧ !s.q3Waiting then ({ s with fabric := { s.fabric with arrived := true } } : State).announceWhole else s

def execDombar (d a : Opnd) (s : State) : Host.Outcome State Fault Refusal :=
  unit (do
    let w := wordOf (.dombar d a)
    let k ← ctx
    guardTrap (!k.isUser) 0x06 w
    let x ← src a
    let t : BitVec 32 := x.setWidth 32
    let s ← get
    if reaches s.fabric.kgen t then
      dst w d (s.fabric.kgen.setWidth 64)
      next
    else
      guardTrap (s.fabric.target == some t) 0x1A (t.setWidth 64)
      wait State.arriveDomain) s

/-- The status of the context of a COLLID and a tenant, live or ended; 0 when there is none. -/
def State.collStatus (s : State) (collid : BitVec 16) (tenant : BitVec 6) : Word :=
  match s.collWhere fun c => c.collid == collid && c.cx.tenant == tenant with
  | some (_, c) => c.cx.statusWord
  | none => 0

def execFstat (d a : Opnd) (s : State) : Host.Outcome State Fault Refusal :=
  unit (do
    let x ← src a
    let s ← get
    let f := s.fabric
    let w := wordOf (.fstat d a)
    if x = 0 then
      dst w d (f.kgen ++ 0#19 ++ BitVec.ofBool f.target.isSome ++ BitVec.ofBool f.leader ++ BitVec.ofBool f.member ++ s.pkgid)
    else if x = 1 then dst w d (0#16 ++ BitVec.ofNat 16 f.members.length ++ f.target.getD f.kgen)
    else if x = 2 then dst w d (f.timeouts ++ f.drops)
    else if x = 3 then dst w d (0#46 ++ f.ports)
    else if x.extractLsb' 0 16 = 0x100 ∧ x.extractLsb' 32 32 = 0 then dst w d (s.collStatus (x.extractLsb' 16 16) s.tenant)
    else trap 0x1A x
    next) s

/-! ## q3 (R354, R355, R371) -/

/-- The result of a command that has it at once. -/
def State.q3Result (s : State) (w : Who) (v : Word) : State := (s.fly w 3 0 (some v)).settle w.core

/-- Sends packets of one request under one TAG; none where there is no TAG free, or requests are held (R363). -/
def State.sendUnder (s : State) (w : Who) (packets : BitVec 12 → List (State → Packet)) : Option State :=
  if s.held then none
  else match s.freeTag with
    | none => none
    | some tag => match packets (BitVec.ofNat 12 tag) with
      | [] => none
      | p :: r => some ((r.foldl (fun s p => s.send (p s)) (s.request tag ⟨w, 0, 0, 0, .rsend 3 tag⟩ (p s))).fly w 3 tag none)

/-- An RSEND's fields. -/
def sendPkg (w0 : Word) : BitVec 10 := w0.extractLsb' 0 10
def sendCore (w0 : Word) : CoreId := w0.extractLsb' 10 13
def sendCtr (w0 : Word) : BitVec 4 := w0.extractLsb' 23 4
def sendFull (w0 : Word) : Bool := w0.getLsbD 27

/-- The packets of a message (R371). -/
def rsendPackets (tenant : BitVec 6) (w0 : Word) (off : Nat) (bs : List Byte) (tag : BitVec 12) : List (State → Packet) :=
  (chunksOf bs.length).map fun o s =>
    s.packet 7 (sendPkg w0) 0 tag 2 false
      (0#24 ++ w0.extractLsb' 28 6 ++ BitVec.ofBool (sendFull w0) ++ sendCtr w0 ++ sendCore w0 ++ BitVec.ofNat 16 (off + o.1))
      tenant ((bs.drop o.1).take o.2)

/-- A message to the own package loops back (R371): it lands as one within the package (R202). -/
def State.loopMessage (s : State) (w : Who) (w0 : Word) (off : Nat) (bs : List Byte) : Option State :=
  match s.messageCause (s.tenantOf w.core) (sendCore w0) off bs.length with
  | some c => some (s.q3Result w (errorRecord c 0))
  | none =>
    if (s.getCore (sendCore w0)).holding then none
    else
      let s := match s.arrival w.core (sendCore w0) off bs with
        | (s, false) => s
        | (s, true) => s.modCore (sendCore w0) fun c => c.messageDone off bs.length (sendCtr w0) (sendFull w0)
      some (s.q3Result w 0)

/-- Does the RSEND's source meet an uncorrectable error? -/
def State.sourceFails (s : State) (w : Who) (ws : List Word) : Bool :=
  s.failing (localPa w.core (ws.getD 2 0).toNat) (rsendBytes (ws.headD 0))

def execRsend (s : State) : Host.Outcome State Fault Refusal :=
  match s.due with
  | ⟨.rsend w ws, _⟩ :: rest =>
    let s' := { s with due := rest }
    let w0 := ws.headD 0
    let off := ((ws.getD 1 0).extractLsb' 0 16).toNat
    let bs := ((ws.drop 3).flatMap fun v => bytesOfNat 8 v.toNat)
    if s.sourceFails w ws then .next (s'.q3Result w (errorRecord 0x0A 0))
    else if !s.reachable (sendPkg w0) then .next (s'.q3Result w (errorRecord 0x15 0))
    else if sendPkg w0 = s.pkgid then .next ((s'.loopMessage w w0 off bs).getD s)
    else .next ((s'.sendUnder w (rsendPackets (s.tenantOf w.core) w0 off bs)).getD s)
  | _ => .next s

/-- The launch carries the record as read at the push. -/
def execRlaunch (s : State) : Host.Outcome State Fault Refusal :=
  match s.due with
  | ⟨.rlaunch w ws, _⟩ :: rest =>
    let s' := { s with due := rest }
    let pkg := sendPkg (ws.headD 0)
    let rec4 := ws.drop 2
    let r := launchRecOf rec4
    let tenant := s.tenantOf w.core
    if !s.reachable pkg then .next (s'.q3Result w (errorRecord 0x15 0))
    else if pkg = s.pkgid then
      if s.tenantOf r.target != tenant then .next (s'.q3Result w (errorRecord 0x06 0))
      else .next (((s'.acceptLaunch r).map fun t => t.q3Result w 0).getD s)
    else .next ((s'.sendUnder w fun tag => [fun t =>
      t.packet 8 pkg 0 tag 2 false 0 tenant (rec4.flatMap fun v => bytesOfNat 8 v.toNat)]).getD s)
  | _ => .next s

/-- The strand behind a command on a port, as the fabric engine sees it. -/
def State.portEng (s : State) (w : Who) : Eng :=
  let user := match s.ctxOf w with
    | some k => k.isUser
    | none => true
  ⟨w, none, false, ⟨some w.core, clusterOf w.core, s.tenantOf w.core, user, false⟩, .fwd, []⟩

/-- RWIN: the window opens at the home address's place in memory, or begins to drain. A home that does not
translate, or lies outside pool and stacks, is answered by an error record (log entry 28). -/
def execRwin (s : State) : Host.Outcome State Fault Refusal :=
  match s.due with
  | ⟨.rwin w ws, _⟩ :: rest =>
    let s' := { s with due := rest }
    let w0 := ws.headD 0
    let n := (w0.extractLsb' 0 4).toNat
    let v := ws.getD 3 0
    if !w0.getLsbD 6 then .next ((s'.fly w 3 (4096 + n) none).enqueue (.rwinComplete w ws))
    else match runE (do
        let p ← eXlate (s.portEng w) .atomic (ws.getD 1 0)
        if regionOf p.pa == .pool || regionOf p.pa == .stackMem || regionOf p.pa == .rank then return canon p.pa else eFault 0x1A) s' with
      | .error (.fault c) => .next (s'.q3Result w (errorRecord c 0))
      | .error _ => .next s
      | .ok (pa, s') =>
        let win : RedWindow := ⟨true, w0.extractLsb' 4 2, pa, ((ws.getD 2 0).extractLsb' 0 32).toNat, v.extractLsb' 0 13, v.extractLsb' 13 4⟩
        .next (({ s' with fabric := { s'.fabric with windows := s'.fabric.windows.set n win } } : State).fly w 3 (4096 + n) none |>.enqueue (.rwinComplete w ws))
  | _ => .next s

/-- RWIN_COMPLETE: every switch holds the window, or it has drained and is closed. -/
def execRwinComplete (s : State) : Host.Outcome State Fault Refusal :=
  match s.due with
  | ⟨.rwinComplete w ws, _⟩ :: rest =>
    let s' := { s with due := rest }
    let w0 := ws.headD 0
    let n := (w0.extractLsb' 0 4).toNat
    let s' := if w0.getLsbD 6 then s'
      else match s'.fabric.windows.find? n with
        | some v => { s' with fabric := { s'.fabric with windows := s'.fabric.windows.set n { v with opened := false } } }
        | none => s'
    .next ((s'.alight w 3 (4096 + n) 0).settle w.core)
  | _ => .next s

/-- DKGRANT: the tenant lets the key of one dump go (R354). -/
def execDkgrant (s : State) : Host.Outcome State Fault Refusal :=
  match s.due with
  | ⟨.dkgrant w ws, _⟩ :: rest =>
    let g : Grant := ⟨s.tenantOf w.core, ws.getD 1 0, ws.getD 3 0 ++ ws.getD 2 0⟩
    .next (({ s with due := rest, grants := s.grants ++ [g] } : State).settle w.core)
  | _ => .next s

/-- DUMP_KEY_RELEASE: one MANAGER request that names DSEQ and SALT as granted receives that dump's key. -/
def execDumpKeyRelease (s : State) : Host.Outcome State Fault Refusal :=
  match s.due with
  | ⟨.dumpKeyRelease dseq salt, _⟩ :: rest =>
    let s' := { s with due := rest }
    match s.grants.find? fun g => g.dseq == dseq && g.salt == salt with
    | none => .next s'
    | some g => .next { s' with
        grants := s.grants.erase g
        released := s.released ++ [(dseq, dumpKeyOf g.tenant salt dseq)] }
  | _ => .next s

/-! ## SPDM (R361, R364) -/

/-- A packet without a key: E = 0, KGEN = 0, protected by SPDM itself (R353). -/
def openPacket (pkg dst : BitVec 10) (type : Nat) (data : List Byte) : Packet where
  dw0 := 0#6 ++ 0#1 ++ 0#1 ++ 0#2 ++ 0#12 ++ BitVec.ofNat 10 data.length ++ 3#2 ++ pkg ++ dst ++ BitVec.ofNat 6 type ++ 1#4
  dw1 := 0
  dw2 := 0
  dw3 := 0
  data := data
  via := 0#2 ++ pkg
  mac := Config.openTag data

/-- The package at the other end of a session; the host is reached under 0 (R352). -/
def peerPkg : SpdmPeer → BitVec 10
  | .leader id | .member id => id.setWidth 10
  | .host => 0

/-- Sends SPDM's packet for a message (TYPE 15). -/
def State.spdmSend (s : State) (peer : SpdmPeer) (m : SpdmMsg) (ok : Bool) : State :=
  { s with fabric := { s.fabric with sent := s.fabric.sent ++ [openPacket s.pkgid (peerPkg peer) 15 (Config.spdmBytes peer m ok)] } }

/-- Which messages must have been accepted before one: the options are agreed before an exchange of keys, and FINISH ends it
(log entry 89). -/
def spdmBefore : SpdmMsg → List SpdmMsg
  | .getVersion => []
  | .getCapabilities => [.getVersion]
  | .negotiateAlgorithms _ => [.getVersion, .getCapabilities]
  | .finish _ _ => [.getVersion, .getCapabilities, .negotiateAlgorithms true, .keyExchange true]
  | .getDigests | .getCertificate _ | .challenge | .getMeasurements _ | .keyExchange _ =>
    [.getVersion, .getCapabilities, .negotiateAlgorithms true]
  | .keyUpdate | .other => []

/-- Does a message keep to R361: the algorithms named there and no others, authentication of both sides, and, from a member,
a certificate and measurements that meet the leader's policy? -/
def spdmMeets (leads : Bool) : SpdmMsg → Bool
  | .negotiateAlgorithms named => named
  | .keyExchange both => both
  | .getCertificate meets | .getMeasurements meets => meets || !leads
  | .other => false
  | _ => true

/-- What a leader asks of a member next. -/
def spdmNext : SpdmMsg → SpdmMsg
  | .getVersion => .getCapabilities
  | .getCapabilities => .negotiateAlgorithms true
  | .negotiateAlgorithms _ => .getDigests
  | .getDigests => .getCertificate true
  | .getCertificate _ => .challenge
  | .challenge => .getMeasurements true
  | .getMeasurements _ => .keyExchange true
  | .keyExchange _ => .finish 0 0
  | m => m

/-- The member that a session's other end is, where this package leads. -/
def asked : SpdmPeer → Option (BitVec 12)
  | .member id => some id
  | _ => none

/-- The messages of a session accepted so far. -/
def State.spdmWith (s : State) (peer : SpdmPeer) : List SpdmMsg :=
  (s.fabric.spdm.filter fun x => x.1 == peer).map Prod.snd

/-- Does a session stand with the other end: it is admitted, or its exchange of keys is finished? -/
def State.inSession (s : State) : SpdmPeer → Bool
  | .leader _ => s.fabric.member && !s.fabric.leader
  | .member id => s.fabric.leader && s.isMember id
  | .host => s.fabric.hostKey.isSome

/-- Is a message in its place: after those that must come before it, and, before a member's FINISH, its certificate and
measurements (R361)? -/
def State.spdmReady (s : State) (peer : SpdmPeer) (m : SpdmMsg) : Bool :=
  let had := s.spdmWith peer
  match m with
  | .keyUpdate => s.inSession peer
  | .finish _ _ =>
    (spdmBefore m).all had.contains && ((asked peer).isNone || (had.contains (.getCertificate true) && had.contains (.getMeasurements true)))
  | m => (spdmBefore m).all had.contains

/-- Leaves an exchange. -/
def Fabric.endSpdm (f : Fabric) (peer : SpdmPeer) : Fabric := { f with spdm := f.spdm.filter fun x => x.1 != peer }

/-! ## The trust domain (R361, R363) -/

/-- FINISH: the package is admitted, with the domain key and the current KGEN; sequences start at 1 (R361, R362). -/
def State.joinDomain (s : State) (key : BitVec 256) (kgen : BitVec 32) : State :=
  { s with fabric := { s.fabric with
      member := true, leader := false, key := key, kgen := kgen, seq := [], seen := []
      members := if s.isMember s.myId then s.fabric.members else s.fabric.members ++ [s.myId] } }

/-- The package leads a domain of its own, with the key and the generation it draws (R361). -/
def State.leadDomain (s : State) (key : BitVec 256) (kgen : BitVec 32) : State :=
  { s with fabric := { s.fabric with
      member := true, leader := true, key := key, kgen := kgen, seq := [], seen := []
      target := none, arrived := false, expiry := none, reported := [], leavers := [], members := [s.myId] } }

/-- The pending target: KGEN + 1, which a further change joins. Where this package leads, the domain deadline runs from the
first change on (R363). -/
def State.raiseTarget (s : State) : State :=
  if s.fabric.target.isSome then s
  else
    let s : State := { s with fabric := { s.fabric with target := some (s.fabric.kgen + 1), reported := [] } }
    if s.fabric.leader then
      let t := s.cycle.toNat + cyclesOf s.fabric.deadline
      ({ s with fabric := { s.fabric with expiry := some t } } : State).enqueue (.domainDeadline []) (some t)
    else s

/-- A member is admitted to the membership. -/
def State.admitMember (s : State) (id : BitVec 12) : State :=
  let s := s.raiseTarget
  { s with fabric := { s.fabric with members := if s.isMember id then s.fabric.members else s.fabric.members ++ [id] } }

/-- What an accepted message does. FINISH ends the exchange: from the leader, it brings the domain key; from the host, its
session's key; from a member, it admits the member, to which the domain key goes. KEY_UPDATE replaces a session's key. -/
def State.spdmDone (s : State) (peer : SpdmPeer) (m : SpdmMsg) : State :=
  match m with
  | .finish key kgen =>
    let t : State := { s with fabric := s.fabric.endSpdm peer }
    match peer with
    | .leader _ => (t.joinDomain key kgen).spdmSend peer m true
    | .host => ({ t with fabric := { t.fabric with hostKey := some key } } : State).spdmSend peer m true
    | .member id => (t.admitMember id).spdmSend peer (.finish s.fabric.key s.fabric.kgen) true
  | .keyUpdate =>
    let t : State := { s with fabric := { s.fabric with
        updates := s.fabric.updates ++ [peer]
        hostKey := if peer = .host then s.fabric.hostKey.map Config.updatedKey else s.fabric.hostKey } }
    if (asked peer).isSome then t else t.spdmSend peer m true
  | m =>
    let t : State := { s with fabric := { s.fabric with spdm := s.fabric.spdm ++ [(peer, m)] } }
    if (asked peer).isSome then t.spdmSend peer (spdmNext m) true else t.spdmSend peer m true

/-- A message refused: recorded; a leader gives up the exchange, and any other end is answered so. -/
def State.spdmRefuse (s : State) (peer : SpdmPeer) (m : SpdmMsg) : State :=
  let s : State := { s with fabric := { s.fabric with refused := s.fabric.refused ++ [(peer, m)] } }
  if (asked peer).isSome then { s with fabric := s.fabric.endSpdm peer } else s.spdmSend peer m false

/-- SPDM: a message in its place that keeps to R361 advances its exchange; any other is refused. A member's answer is
taken where this package leads. -/
def execSpdm (s : State) : Host.Outcome State Fault Refusal :=
  match s.due with
  | ⟨.spdm peer m, _⟩ :: rest =>
    let s' : State := { s with due := rest, traffic := s.cycle.toNat }
    let ok := s.spdmReady peer m && spdmMeets (asked peer).isSome m && ((asked peer).isNone || s.fabric.leader)
    .next (if ok then s'.spdmDone peer m else s'.spdmRefuse peer m)
  | _ => .next s

/-- A member leaves the domain's membership. -/
def Fabric.without (f : Fabric) (me : BitVec 12) (gone : List (BitVec 12)) : Fabric :=
  { f with
    members := f.members.filter fun m => !gone.contains m
    leavers := f.leavers.filter fun m => !gone.contains m
    member := f.member && !gone.contains me }

/-- A change of the membership (R363). Where this package leads, a joining member is first asked through SPDM (R361); a failed
one is dropped at once, and one that leaves stays until the announcement. -/
def State.change (s : State) (op : MemberOp) : State :=
  match op with
  | .join id => if s.fabric.leader && !s.isMember id then s.spdmSend (.member id) .getVersion true else s.admitMember id
  | .leave id =>
    let s := s.raiseTarget
    { s with fabric := { s.fabric with leavers := if s.fabric.leavers.contains id then s.fabric.leavers else s.fabric.leavers ++ [id] } }
  | .fail id =>
    let s := s.raiseTarget
    ({ s with fabric := s.fabric.without s.myId [id] } : State).announceWhole
  | .lead key kgen => s.leadDomain key kgen
  | .arrived id =>
    if s.fabric.leader && s.fabric.target.isSome then
      ({ s with fabric := { s.fabric with reported := s.fabric.reported ++ [id] } } : State).announceWhole
    else s

/-- MEMBERSHIP_CHANGE. -/
def execMembershipChange (s : State) : Host.Outcome State Fault Refusal :=
  match s.due with
  | ⟨.membershipChange op, _⟩ :: rest => .next (({ s with due := rest } : State).change op)
  | _ => .next s

/-- GENERATION_ANNOUNCE: KGEN := t, SEQ := 1 for every pair, and those that leave are members no longer. -/
def execGenerationAnnounce (s : State) : Host.Outcome State Fault Refusal :=
  match s.due with
  | ⟨.generationAnnounce g, _⟩ :: rest =>
    let s' := { s with due := rest }
    if s.fabric.target = some g then
      let f := s.fabric.without s.myId s.fabric.leavers
      .next { s' with fabric := { f with
        kgen := g, target := none, arrived := false, seq := [], seen := [], leavers := [], expiry := none, reported := [] } }
    else .next s'
  | _ => .next s

/-- The members that have not arrived: as the leader knows them, by what they reported and by what the act names. Whether
this package has arrived it knows itself. -/
def State.late (s : State) (arrived : List (BitVec 12)) : List (BitVec 12) :=
  s.fabric.members.filter fun m => if m = s.myId then !s.fabric.arrived else !(arrived.contains m || s.fabric.reported.contains m)

/-- DOMAIN_DEADLINE: the leader drops the members that have not arrived, at its own deadline's expiry where it is this
package. -/
def execDomainDeadline (s : State) : Host.Outcome State Fault Refusal :=
  match s.due with
  | ⟨.domainDeadline arrived, t⟩ :: rest =>
    let s' := { s with due := rest }
    if s.fabric.target.isNone || (s.fabric.leader && (t.isNone || s.fabric.expiry != t)) then .next s'
    else .next (({ s' with fabric := s.fabric.without s.myId (s.late arrived) } : State).announceWhole)
  | _ => .next s

end Sys2Proof.Machine
end

