-- ==== Sys2Proof/Machine/Format.lean ====
section
/-! DEFINITION. The layout-and-format engine: FMT (R342, R86 to R89). Each act of the engine writes one row of the
destination. -/

namespace Sys2Proof.Machine

/-! ## Formats -/

/-- A format of FMT: an integer of a width, or a floating format. -/
inductive FmtCode where
  | int (w : Nat)
  | flt (f : Fmt)
  deriving DecidableEq, Repr, Inhabited

def fmtCode : Nat → Option FmtCode
  | 0 => some (.int 8)
  | 1 => some (.int 16)
  | 2 => some (.int 32)
  | 3 => some (.flt .e4m3)
  | 4 => some (.flt .e5m2)
  | 5 => some (.flt .bf16)
  | 6 => some (.flt .fp16)
  | 7 => some (.flt .fp32)
  | 8 => some (.flt .e3m2)
  | 9 => some (.flt .e2m3)
  | 10 => some (.flt .e2m1)
  | _ => none

def FmtCode.bits : FmtCode → Nat
  | .int w => w
  | .flt f => Fmt.bits f

/-- A conversion under R86; no draw is ever made. -/
def convertElem (g f : FmtCode) (mode : RMode) (sat : Bool) (x : Nat) : Nat :=
  match g, f with
  | .flt g, .flt f => (round f mode sat 0 (Fmt.value g x)).1
  | .flt g, .int w => wrapLane w (roundInt (laneMin w) (laneMax w) mode 0 (Fmt.value g x))
  | .int v, .flt f => (round f mode sat 0 (Num.ofInt (laneInt v x))).1
  | .int v, .int w => if sat then clampLane w (laneInt v x) else wrapLane w (laneInt v x)

/-! ## The descriptor -/

structure FmtDesc where
  src    : Word
  dst    : Word
  scales : Word
  op     : Nat
  sf     : FmtCode
  df     : FmtCode
  mxo    : Bool
  mxi    : Bool
  sat    : Bool
  rm     : RMode
  rows   : Nat
  cols   : Nat
  ss     : Nat
  ds     : Nat
  deriving DecidableEq, Repr, Inhabited

/-- The fields of a descriptor; none where CONF names no format. -/
def fmtDesc (d : List Word) : Option FmtDesc :=
  let conf := d.getD 3 0
  let shape := d.getD 4 0
  let str := d.getD 5 0
  match fmtCode (conf.extractLsb' 4 4).toNat, fmtCode (conf.extractLsb' 8 4).toNat with
  | some sf, some df =>
    let rm : RMode := match (conf.extractLsb' 15 3).toNat with
      | 0 => .nearest
      | 1 => .zero
      | 2 => .up
      | _ => .down
    some ⟨d.getD 0 0, d.getD 1 0, d.getD 2 0, (conf.extractLsb' 0 4).toNat, sf, df, conf.getLsbD 12, conf.getLsbD 13, conf.getLsbD 14, rm,
      (shape.extractLsb' 0 32).toNat, (shape.extractLsb' 32 32).toNat, (str.extractLsb' 0 32).toNat, (str.extractLsb' 32 32).toNat⟩
  | _, _ => none

/-- Element formats of microscaled blocks (R88). -/
def FmtCode.isBlock : FmtCode → Bool
  | .flt .e5m2 | .flt .e4m3 | .flt .e3m2 | .flt .e2m3 | .flt .e2m1 => true
  | _ => false

def FmtCode.isWide : FmtCode → Bool
  | .flt .fp32 | .flt .bf16 => true
  | _ => false

def FmtCode.isInt : FmtCode → Bool
  | .int _ => true
  | _ => false

/-- Bytes of a row of n elements. -/
def FmtCode.rowBytes (f : FmtCode) (n : Nat) : Nat := (n * f.bits + 7) / 8

/-- The stride of dense rows of n elements: each row is a stream of R89, which begins at a multiple of 4 where its
elements are narrower than a byte (log entry 24). -/
def FmtCode.dense (f : FmtCode) (n : Nat) : Nat := if f.bits < 8 then (f.rowBytes n + 3) / 4 * 4 else f.rowBytes n

def FmtDesc.srcStride (d : FmtDesc) : Nat := if d.ss = 0 then d.sf.dense d.cols else d.ss
/-- Elements of a destination row: a transposition exchanges rows and columns. -/
def FmtDesc.dstCols (d : FmtDesc) : Nat := if d.op = 1 then d.rows else d.cols
def FmtDesc.dstStride (d : FmtDesc) : Nat := if d.ds = 0 then d.df.dense d.dstCols else d.ds
/-- Width and blocks of the vertical layout. -/
def FmtDesc.w (d : FmtDesc) : Nat := d.sf.bits
def FmtDesc.blocks (d : FmtDesc) : Nat := (d.rows * d.cols + 8191) / 8192

/-- Rows of the destination. -/
def FmtDesc.dstRows (d : FmtDesc) : Nat := if d.op = 1 then d.cols else if d.op = 2 then d.blocks * d.w else d.rows

/-- From the first byte of a range to its last. -/
def FmtDesc.srcSpan (d : FmtDesc) : Nat :=
  if d.op = 3 then d.blocks * d.w * 1024 else (d.rows - 1) * d.srcStride + d.sf.rowBytes d.cols
def FmtDesc.dstSpan (d : FmtDesc) : Nat :=
  if d.op = 2 then d.dstRows * 1024 else (d.dstRows - 1) * d.dstStride + d.df.rowBytes d.dstCols

/-- CONF.SAT takes effect beside STATUS.SAT as it stood when the command retired (R82, log entry 86). -/
def FmtDesc.saturating (d : FmtDesc) (sat : Bool) : FmtDesc := { d with sat := d.sat || sat }

/-- The rules of R342. -/
def FmtDesc.ok (d : FmtDesc) : Bool :=
  let narrow (f : FmtCode) (a : Word) (stride : Nat) : Bool := !decide (f.bits < 8) || (a.toNat % 4 == 0 && stride % 4 == 0)
  decide (1 ≤ d.rows) && decide (d.rows ≤ 65535) && decide (1 ≤ d.cols) && decide (d.cols ≤ 65535)
    && !(d.mxo && d.mxi)
    && (match d.op with
      | 0 =>
        (!d.mxo || (d.sf.isWide && d.df.isBlock && d.cols % 32 == 0)) && (!d.mxi || (d.sf.isBlock && d.df.isWide && d.cols % 32 == 0))
          && narrow d.sf d.src d.ss && narrow d.df d.dst d.ds
      | 1 => !d.mxo && !d.mxi && d.sf == d.df && decide (8 ≤ d.sf.bits)
      | 2 => !d.mxo && !d.mxi && d.sf.isInt && d.dst.toNat % 1024 == 0
      | 3 => !d.mxo && !d.mxi && d.sf.isInt && d.df == d.sf && d.src.toNat % 1024 == 0
      | _ => false)
    && (decide (d.src.toNat + d.srcSpan ≤ d.dst.toNat) || decide (d.dst.toNat + d.dstSpan ≤ d.src.toNat))

/-- CONF [63:18] zero, RM 0 to 3. -/
def fmtConfOk (conf : Word) : Bool := conf.extractLsb' 17 47 == 0

/-- The footprint: SRC, DST and SCALES. -/
def FmtDesc.foot (d : FmtDesc) : List (Word × Nat) :=
  let span (base : Word) (stride n rows : Nat) : List (Word × Nat) :=
    (List.range rows).map fun r => (base + BitVec.ofNat 64 (r * stride), n)
  let scales : List (Word × Nat) := if d.mxo || d.mxi then [(d.scales, d.rows * (d.cols / 32))] else []
  (if d.op = 3 then [(d.src, d.srcSpan)] else span d.src d.srcStride (d.sf.rowBytes d.cols) d.rows)
    ++ (if d.op = 2 then [(d.dst, d.dstSpan)] else span d.dst d.dstStride (d.df.rowBytes d.dstCols) d.dstRows)
    ++ scales

def execFmt (t : BitVec 5) (a : Opnd) (s : State) : Host.Outcome State Fault Refusal :=
  unit (do
    let x ← src a
    let d ← readDescriptor x 48
    match fmtDesc d with
    | none => trap 0x1A x
    | some f =>
      guardTrap (fmtConfOk (d.getD 3 0) && f.ok) 0x1A x
      revCheck f.foot
      commandTurn t CmdKind.isStack
      traceCommandVa x
      modify fun s => s.issue t (.fmt d) (footOf f.foot) .fmtComplete
      next) s

/-! ## Elements of the source -/

/-- Elements lo to lo + n - 1 of source row r. -/
def readElems (e : Eng) (d : FmtDesc) (r lo n : Nat) : E (List Nat) := do
  let w := d.sf.bits
  let first := lo * w / 8
  let last := ((lo + n) * w + 7) / 8
  let bs ← eRead e (d.src + BitVec.ofNat 64 (r * d.srcStride + first)) (last - first)
  let bits := natOfBytes bs
  return (List.range n).map fun i => bits / 2 ^ ((lo + i) * w - 8 * first) % 2 ^ w

/-- Elements a to b - 1 in row-major order. -/
def readRun (e : Eng) (d : FmtDesc) (a b : Nat) : E (List Nat) := do
  let mut out : List Nat := []
  for i in List.range ((b - 1) / d.cols - a / d.cols + 1) do
    let r := a / d.cols + i
    let lo := if i = 0 then a % d.cols else 0
    let hi := min d.cols (b - r * d.cols)
    out := out ++ (← readElems e d r lo (hi - lo))
  return out

/-- Packs elements of w bits (R89). Of the last byte, the bits past the last element are free. -/
def packRow (w : Nat) (spare : Byte) (xs : List Nat) : List Byte :=
  let bits := xs.reverse.foldl (fun acc x => acc * 2 ^ w + x % 2 ^ w) 0
  let n := xs.length * w
  let pad := (8 - n % 8) % 8
  bytesOfNat ((n + pad) / 8) (bits + spare.toNat % 2 ^ pad * 2 ^ n)

/-! ## Microscaled blocks (R88) -/

def Fmt.emax : Fmt → Int
  | .e5m2 => 15
  | .e4m3 => 8
  | .e3m2 => 4
  | .e2m3 => 2
  | _ => 2

/-- floor(log2 |v|) of a nonzero finite value. -/
def floorLog2 (x : Num) : Int :=
  match x with
  | .fin _ m e _ => e + (bitLen m : Int) - 1
  | _ => 0

/-- v / 2^k. -/
def Num.scaleDown (x : Num) (k : Int) : Num :=
  match x with
  | .fin s m e r => .fin s m (e - k) r
  | y => y

def Num.isFinite : Num → Bool
  | .fin .. => true
  | _ => false

/-- A block of 32 values: its scale and its elements. -/
def blockOf (f : Fmt) (vs : List Num) : Nat × List Nat :=
  if vs.any (fun v => !v.isFinite) then (0xFF, vs.map fun _ => 0)
  else
    let logs := (vs.filter fun v => !v.isZero).map floorLog2
    let sexp : Int := match logs with
      | [] => 0
      | l :: r => r.foldl max l - Fmt.emax f
    let sexp := min 127 (max (-127) sexp)
    ((sexp + 127).toNat, vs.map fun v => (round f .nearest true 0 (v.scaleDown sexp)).1)

/-- X x q of an element under its scale. Under the scale 0xFF, E8M0's NaN, which has no sign and no significand, an
element that is a NaN stays that NaN, and every other becomes the canonical one (log entry 79). -/
def scaledValue (f : Fmt) (scale q : Nat) : Num :=
  if scale = 0xFF then (match Fmt.value f q with
    | .nan s g => .nan s g
    | _ => .made)
  else (Fmt.value f q).scaleDown (127 - (scale : Int))

/-! ## One row of the destination -/

/-- The row's bytes to be written, and the scales it writes. -/
def fmtRow (e : Eng) (d : FmtDesc) (i : Nat) : E (List Byte × List Byte) := do
  let s ← eState
  let spare := Config.freeByte s.tick 0
  let pack (xs : List Nat) : List Byte := packRow d.df.bits spare xs
  match d.op with
  | 0 =>
    let xs ← readElems e d i 0 d.cols
    match d.sf, d.df with
    | .flt g, .flt f =>
      if d.mxo then
        let blocks := (List.range (d.cols / 32)).map fun b => blockOf f (((xs.drop (32 * b)).take 32).map (Fmt.value g))
        return (pack (blocks.flatMap (·.2)), blocks.map fun b => BitVec.ofNat 8 b.1)
      else if d.mxi then
        let sc ← eRead e (d.scales + BitVec.ofNat 64 (i * (d.cols / 32))) (d.cols / 32)
        let vs := (List.range d.cols).map fun c => (round f d.rm d.sat 0 (scaledValue g (sc.getD (c / 32) 0).toNat (xs.getD c 0))).1
        return (pack vs, [])
      else return (pack (xs.map (convertElem d.sf d.df d.rm d.sat)), [])
    | _, _ => return (pack (xs.map (convertElem d.sf d.df d.rm d.sat)), [])
  | 1 =>
    let mut xs : List Nat := []
    for r in List.range d.rows do xs := xs ++ (← readElems e d r i 1)
    return (pack xs, [])
  | 2 =>
    let b := i / d.w
    let j := i % d.w
    let xs ← readRun e d (8192 * b) (min (8192 * (b + 1)) (d.rows * d.cols))
    return (bytesOfNat 1024 ((xs.reverse.map fun v => v / 2 ^ j % 2).foldl (fun acc x => 2 * acc + x) 0), [])
  | _ =>
    let mut xs : List Nat := []
    for c in List.range d.cols do
      let n := i * d.cols + c
      let mut v := 0
      for j in List.range d.w do
        let bs ← eRead e (d.src + BitVec.ofNat 64 (1024 * (d.w * (n / 8192) + j) + n % 8192 / 8)) 1
        v := v + natOfBytes bs / 2 ^ (n % 8) % 2 * 2 ^ j
      xs := xs ++ [v]
    return (pack xs, [])

/-- Row i of the destination: read, converted, written. -/
def fmtStep (e : Eng) (d : FmtDesc) (i : Nat) : E Nat := do
  let (bs, sc) ← fmtRow e d i
  let stride := if d.op = 2 then 1024 else d.dstStride
  eWrite e (d.dst + BitVec.ofNat 64 (i * stride)) bs
  if sc != [] then eWrite e (d.scales + BitVec.ofNat 64 (i * (d.cols / 32))) sc
  eMod State.drawn
  return bs.length

/-- FMT_COMPLETE: the next row, and after the last one the token. -/
def execFmtComplete (s : State) : Host.Outcome State Fault Refusal :=
  match s.due with
  | ⟨.fmtComplete id, _⟩ :: rest =>
    let d (c : Cmd) : FmtDesc := match c.kind with
      | .fmt d => ((fmtDesc d).getD default).saturating c.sat
      | _ => default
    .next (s.carryRow rest id (.fmtComplete id) (fun c => (d c).dstRows) fun c => do
      let s ← eState
      fmtStep (s.engOf c) (d c) c.step)
  | _ => .next s

end Sys2Proof.Machine
end

