-- ==== Sys2Proof/Machine/Gang.lean ====
section
/-! DEFINITION. Gangs, GANG, GJOIN, GLEAVE and GREJOIN of OP 46 (R221 to R229). -/

namespace Sys2Proof.Machine

/-- Is a mask legal in its upper bits (R221)? -/
def maskOk (m : Word) : Bool := m.extractLsb' 16 48 == 0
def maskBits (m : BitVec 16) : Nat := onesOf m 16
def maskOfCores (ns : List Nat) : Word := BitVec.ofNat 64 (ns.foldl (fun v n => v + 2 ^ n) 0)

/-- Is the front context one that issues and waits? -/
def Ctx.waitsAt (k : Ctx) (f : Progress → Bool) : Bool := k.life == .live && f k.progress

/-- A GJOIN that waits for a leader (R222). -/
def Ctx.joins (k : Ctx) (leader : BitVec 4) : Bool := k.waitsAt fun p =>
  match p with
  | .gjoin _ l => l == leader
  | _ => false

/-! ## Forming a gang (R222) -/

/-- The gang state of a member at formation. -/
def Ctx.enterGang (k : Ctx) (leader pos : BitVec 4) (mask : BitVec 16) (lctx : BitVec 32) : Ctx :=
  let lead := pos == 0
  { k with
    gang := ⟨true, lead, leader, pos, true, false, false, mask, k.ctxid, 0, lctx⟩
    ctxid := lctx }

/-- Position of a core: 0 for the leader, then ascending core numbers. -/
def positionOf (leader n : BitVec 4) (mask : BitVec 16) : BitVec 4 :=
  if n = leader then 0
  else BitVec.ofNat 4 (1 + ((List.range n.toNat).filter fun m => mask.getLsbD m && m != leader.toNat).length)

/-- Retires the instruction at which another core's front context waits, with its result; that instruction's own
wait is this one's too, and its own trap is taken while this one waits on. -/
def settleOther (id : CoreId) (i : Instr) (d : Opnd) (v : Word) (f : Ctx → Ctx) : M Unit := fun s =>
  let home := s.core.id
  let sf := s.focus id
  match dst (wordOf i) d v sf with
  | .ok ((), s1) => .ok ((), ((retire sf (s1.mapCtx Ctx.takeNoted) {}).mapCtx f).focus home)
  | .error (.trap c w pops keep) => .error (.wait fun s =>
      let home := s.core.id
      ((trapBase (s.focus id) pops (keep.map fun t => t.focus id)).takeTrap c w).focus home)
  | .error (.wait _) => .error (.wait id')
  | .error x => .error x
where id' : State → State := fun s => s

/-- Forms the gang of a leader and a mask, of which all but the core in focus wait at their GANG or GJOIN: each
retires with its result and enters the gang; the core in focus enters it too. -/
def formGang (leader : BitVec 4) (mask : BitVec 16) : M Unit := do
  let s ← get
  let home := s.core.id
  let lctx := (s.getCore (peerOf home leader)).front.ctxid
  for n in List.range 16 do
    let c : BitVec 4 := BitVec.ofNat 4 n
    let id := peerOf home c
    if mask.getLsbD n && id != home then
      let enter (k : Ctx) : Ctx := k.enterGang leader (positionOf leader c mask) mask lctx
      match (s.getCore id).front.progress with
      | .gang (.gang d a) _ => settleOther id (.gang d a) d (BitVec.ofNat 64 (maskBits mask)) enter
      | .gjoin (.gjoin d a) _ => settleOther id (.gjoin d a) d ((positionOf leader c mask).setWidth 64) enter
      | _ => wait
  modCtx fun k => k.enterGang leader (positionOf leader (coreNo home) mask) mask lctx

/-- The unit after the leader's is the followers' next (R222, R226). -/
def State.alignPc (s : State) (leader : BitVec 4) (ids : List CoreId) : State :=
  let pc := (s.getCore (peerOf s.core.id leader)).front.pc
  ids.foldl (fun s id => s.modCore id fun c => { c with front := { c.front with pc := pc } }) s

/-- The cores of a mask. -/
def maskCores (home : CoreId) (mask : BitVec 16) : List CoreId :=
  ((List.range 16).filter mask.getLsbD).map fun n => peerOf home (BitVec.ofNat 4 n)

/-- Do the other members of a mask wait in a GJOIN that names the leader, all but the core in focus and the leader? -/
def State.othersJoin (s : State) (leader : BitVec 4) (mask : BitVec 16) : Bool :=
  (maskCores s.core.id mask).all fun id =>
    id == s.core.id || coreNo id == leader || (s.getCore id).front.joins leader

/-- STATUS.GANG or IN set: cause 0x1A, EVALUE = STATUS. -/
def notInGang : M Unit := do
  let k ← ctx
  guardTrap (!k.gang.gang && !k.gang.isIn) 0x1A k.statusWord

/-- The operand of GANG and GJOIN, read anew at each presentation. -/
def gangSrc (a : Opnd) : M Word := do
  modCtx fun k => { k with pops := [] }
  src a

/-- GANG (R222). -/
def execGang (d a : Opnd) (s : State) : Host.Outcome State Fault Refusal :=
  unitWith (gangSrc a) (fun m => do
    let s ← get
    let own := coreNo s.core.id
    let mask : BitVec 16 := m.extractLsb' 0 16
    guardTrap (maskOk m && mask.getLsbD own.toNat && decide (2 ≤ maskBits mask)) 0x01 (wordOf (.gang d a))
    notInGang
    if s.othersJoin own mask then
      formGang own mask
      dst (wordOf (.gang d a)) d (BitVec.ofNat 64 (maskBits mask))
      return { after := fun s => s.alignPc own (maskCores s.core.id mask) }
    else waitTaken fun s => s.mapCtx fun k => { k with progress := .gang (.gang d a) mask }) s

/-- GJOIN (R222): the last member that arrives forms the gang. -/
def execGjoin (d a : Opnd) (s : State) : Host.Outcome State Fault Refusal :=
  unitWith (gangSrc a) (fun l => do
    let s ← get
    let own := coreNo s.core.id
    let leader : BitVec 4 := l.extractLsb' 0 4
    guardTrap (l.extractLsb' 4 60 == 0 && leader != own) 0x01 (wordOf (.gjoin d a))
    notInGang
    let lk := (s.getCore (peerOf s.core.id leader)).front
    let mask : Option (BitVec 16) := match lk.progress with
      | .gang _ m => if lk.life == .live && m.getLsbD own.toNat && s.othersJoin leader m then some m else none
      | _ => none
    match mask with
    | some m =>
      formGang leader m
      dst (wordOf (.gjoin d a)) d ((positionOf leader own m).setWidth 64)
      return { after := fun s => s.alignPc leader (maskCores s.core.id m) }
    | none => waitTaken fun s => s.mapCtx fun k => { k with progress := .gjoin (.gjoin d a) leader }) s

/-! ## Leaving and attaching again (R226, R227) -/

/-- A detached member of the gang that a context leads; HALT and a fatal trap end a membership (R226). -/
def Ctx.detachedOf (k : Ctx) (leader : BitVec 4) (lctx : BitVec 32) : Bool :=
  k.gang.isIn && k.gang.det && k.gang.leader == leader && k.gang.leadCtx == lctx
    && (k.life == .live || k.life == .notReady)

/-- The detached members named in a mask, with the place of each. -/
def State.detachedIn (s : State) (mask : BitVec 16) : List (CoreId × Place) :=
  let lctx := s.ctx.gang.leadCtx
  (maskCores s.core.id mask).filterMap fun id =>
    ((s.getCore id).placeOf fun k => k.detachedOf (coreNo s.core.id) lctx).map fun p => (id, p)

/-- Does a detached member wait in a GREJOIN (R226)? -/
def State.waitsToJoin (s : State) (m : CoreId × Place) : Bool :=
  m.2 == .front && (s.getCore m.1).front.gang.rjw

/-- A detached follower re-attaches (R226). -/
def Ctx.attach (k : Ctx) : Ctx :=
  { k with
    ctxid := k.gang.leadCtx
    gang := { k.gang with gang := true, det := false, rjw := false, rejoin := 0 } }

/-- A waiting follower whose rejoin point differs takes cause 0x18 (R226). -/
def State.rejectJoin (s : State) (id : CoreId) (pc : Word) : State :=
  let home := s.core.id
  let s := (s.focus id).mapCtx fun k => { k with gang := { k.gang with rjw := false, rejoin := 0 } }
  (s.takeTrap 0x18 pc).focus home

/-- The waiting followers, in ascending core number: those that re-attach. -/
def attachAll (pc : Word) : List CoreId → M (List CoreId)
  | [] => return []
  | id :: r => do
    let s ← get
    let k := (s.getCore id).front
    if k.gang.rejoin = pc then
      match k.progress with
      | .rejoin (.grejoin d a) => settleOther id (.grejoin d a) d 0 Ctx.attach
      | _ => wait
      let ids ← attachAll pc r
      return id :: ids
    else
      set (s.rejectJoin id pc)
      attachAll pc r

/-- GREJOIN in the leader (R226), whose mask alone is checked. -/
def rejoinLead (i : Instr) (d : Opnd) (m : BitVec 16) : M Flow := do
  let s ← get
  let ms := s.detachedIn m
  if !ms.all s.waitsToJoin then wait
  let ids ← attachAll s.ctx.pc (ms.map Prod.fst)
  dst (wordOf i) d (maskOfCores (ids.map fun id => (coreNo id).toNat))
  return { after := fun s => s.alignPc (coreNo s.core.id) ids }

def execGrejoin (d a : Opnd) (s : State) : Host.Outcome State Fault Refusal :=
  unitWith (src a) (fun m => do
    let k ← ctx
    guardTrap k.gang.isIn 0x1A k.statusWord
    if k.gang.lead then
      guardTrap (maskOk m) 0x01 (wordOf (.grejoin d a))
      rejoinLead (.grejoin d a) d (m.extractLsb' 0 16)
    else if k.gang.gang then
      dst (wordOf (.grejoin d a)) d 0
      next
    else
      wait fun s => s.mapCtx fun k => { k with
        gang := { k.gang with rjw := true, rejoin := k.pc }
        progress := .rejoin (.grejoin d a) }) s

/-- Detached members that leave with their leader's GLEAVE (R227). -/
def State.releaseDetached (s : State) (mask : BitVec 16) : State :=
  (s.detachedIn mask).foldl (fun s m => s.modCore m.1 fun c =>
    match c.ctxAt m.2 with
    | some k => c.setCtx m.2 k.leaveGang
    | none => c) s

def execGleave (a : Opnd) (s : State) : Host.Outcome State Fault Refusal :=
  unitWith (src a) (fun m => do
    let s ← get
    let k := s.ctx
    guardTrap (maskOk m) 0x01 (wordOf (.gleave a))
    let mask : BitVec 16 := m.extractLsb' 0 16
    if k.gang.gang then
      let all := mask.getLsbD k.gang.leader.toNat
      if k.gang.lead then modify fun s => s.releaseDetached (if all then BitVec.allOnes 16 else mask)
      if all || mask.getLsbD (coreNo s.core.id).toNat then modCtx Ctx.leaveGang
    else if k.gang.isIn then modCtx Ctx.leaveGang
    next) s

end Sys2Proof.Machine
end

