-- ==== Sys2Proof/Machine/Flags.lean ====
section
/-! DEFINITION. The conditions of R85 as the tile registers' sticky flags keep them (R186). -/

namespace Sys2Proof.Machine

/-- NV [0], OF [1], UF [2], NX [3]. -/
def Conds.bits (c : Conds) : BitVec 6 :=
  0#2 ++ BitVec.ofBool c.nx ++ BitVec.ofBool c.uf ++ BitVec.ofBool c.of ++ BitVec.ofBool c.nv

def Conds.ofBits (b : BitVec 32) : Conds := ⟨b.getLsbD 0, b.getLsbD 1, b.getLsbD 2, b.getLsbD 3⟩

def TileFlags.me (f : TileFlags) : Bool := f.bits.getLsbD 4
def TileFlags.zero : TileFlags := ⟨0, 0⟩
/-- Adds conditions to a record. -/
def TileFlags.add (f : TileFlags) (b : BitVec 6) : TileFlags := { f with bits := f.bits ||| b }
/-- Records an uncorrectable error at an address: ERRADDR is that of the first while ME was 0. -/
def TileFlags.err (f : TileFlags) (a : Word) : TileFlags := if f.me then f else ⟨f.bits ||| 0x10, a⟩
/-- The or of two records: ERRADDR from the first that has ME set. -/
def TileFlags.join (f g : TileFlags) : TileFlags :=
  ⟨f.bits ||| g.bits, if f.me then f.errAddr else if g.me then g.errAddr else 0⟩
/-- The status word that MST writes: flags[31:0]. -/
def TileFlags.status (f : TileFlags) : BitVec 32 := f.bits.setWidth 32

/-- Word j of row i of a tile. -/
def Tile.elem (t : Tile) (i j : Nat) : Nat := laneOf (t.getD i 0) 32 j
/-- A tile from the words of its rows. -/
def tileOf (rows : List (List Nat)) : Tile := Vector.ofFn fun i => vecOf 32 (rows.getD i.val [])
/-- A tile from what each element is. -/
def tileBy (f : Nat → Nat → Nat) : Tile := tileOf ((List.range 16).map fun i => (List.range 32).map (f i))
/-- The 512 elements, row-major. -/
def elements : List (Nat × Nat) := (List.range 16).flatMap fun i => (List.range 32).map fun j => (i, j)
/-- A tile from its elements, row-major. -/
def tileFrom (xs : List Nat) : Tile := Vector.ofFn fun i => vecOf 32 ((xs.drop (32 * i.val)).take 32)

end Sys2Proof.Machine
end

