-- ==== Sys2Proof/Machine/Matrix.lean ====
section
/-! DEFINITION. MLDW and the matrix products, OPs 40 to 43 (R172 to R182, R190 to R195). -/

namespace Sys2Proof

/-- Format of A (R176); none: INT8. -/
def Pair.aFmt : Pair → Option Fmt
  | .bf16_bf16 => some .bf16
  | .i8_i8 => none
  | .e5m2_e4m3 | .e5m2_e5m2 | .e5m2_vq2 => some .e5m2
  | _ => some .e4m3

/-- Format in which an element of B stands before it is expanded (R92); a VQ2 weight is emitted as E4M3. -/
def Pair.bFmt : Pair → Option Fmt
  | .bf16_bf16 => some .bf16
  | .i8_i8 => none
  | .e4m3_e5m2 | .e5m2_e5m2 => some .e5m2
  | .e4m3_e3m2 => some .e3m2
  | .e4m3_e2m3 => some .e2m3
  | .e4m3_e2m1 => some .e2m1
  | _ => some .e4m3

def Pair.isVq : Pair → Bool
  | .e4m3_vq2 | .e5m2_vq2 => true
  | _ => false

/-- Bytes of an element of A (R175). -/
def Pair.aBytes : Pair → Nat
  | .bf16_bf16 => 2
  | _ => 1

/-- Width of a stored element of B outside VQ2. -/
def Pair.bWidth : Pair → Nat
  | .bf16_bf16 => 16
  | .e4m3_e3m2 | .e4m3_e2m3 => 6
  | .e4m3_e2m1 => 4
  | _ => 8

end Sys2Proof

namespace Sys2Proof.Machine

/-! ## Checks and errors (R182, R247) -/

/-- R182 step 2: the lowest misaligned address. -/
def matAligned (n : Nat) (as : List Word) : M Unit :=
  match as.foldl (fun best a => if a.toNat % n = 0 then best else
    match best with
    | none => some a
    | some b => some (if a.toNat < b.toNat then a else b)) none with
  | some a => trap 0x03 a
  | none => pure ()

/-- A stretch of bytes within one page, with its place. -/
structure Piece where
  va : Word
  n  : Nat
  p  : Phys
  deriving DecidableEq, Repr, Inhabited

/-- R182 step 3: translation and permission, range after range; a write's compute phase (R285). -/
def matPlaces (kind : AccKind) : List (Word × Nat) → M (List (List Piece))
  | [] => return []
  | (a, n) :: r => do
    let ps ← checkAll kind false ((spans a n).map Prod.fst)
    let here := ((spans a n).zip ps).map fun x => Piece.mk x.1.1 x.1.2 x.2
    if kind == .store then
      for q in here do phaseCheck q.va q.p
    let rest ← matPlaces kind r
    return here :: rest

/-- R182 step 5, and R246 for what is no PRIMAL instruction. -/
def matModes (rs : List (Word × Nat)) (places : List (List Piece)) : M Unit := do
  revCheck rs
  let k ← ctx
  if k.diffMode != .fwd && !k.modPrimal then
    for q in places.flatten do
      if !q.p.dh then
        match firstOverlap k.regions q.va.toNat q.n with
        | some a => trap 0x1A (BitVec.ofNat 64 a)
        | none => pure ()

/-- The first byte whose granule fails among n from an address. -/
def State.failAddr (s : State) (va : Word) (p : Phys) (n : Nat) : Option Word :=
  if regionOf p.pa == .fabric then none
  else ((List.range n).find? fun i => s.failing (p.pa + i) 1).map fun i => va + BitVec.ofNat 64 i

/-- The first failing address of some pieces. -/
def State.failIn (s : State) (ps : List Piece) : Option Word := ps.findSome? fun q => s.failAddr q.va q.p q.n

/-- The bytes of some pieces, or the address that failed: of a piece in fabric space, whose response does not say
which byte met the error, its first (log entry 84). -/
def readPieces : List Piece → M (Except Word (List Byte))
  | [] => return .ok []
  | q :: r => do
    match ← tryRead q.va q.p q.n with
    | .data bs => match ← readPieces r with
      | .ok rest => return .ok (bs ++ rest)
      | .error a => return .error a
    | .fail c => if c = 0x0A then return .error q.va else trap c q.va

/-- The bytes of a row or a unit, or the first address that failed. -/
def readRange (ps : List Piece) : M (Except Word (List Byte)) := do
  let s ← get
  match s.failIn ps with
  | some a => return .error a
  | none => readPieces ps

/-- The one trace entry (R170, R377): the lowest address outside local memory. -/
def traceMat (kind : BitVec 2) (logw : BitVec 3) (places : List (List Piece)) : M Unit :=
  match (places.flatten.filter fun q => !q.p.own).foldl (fun (best : Option Piece) q =>
    match best with
    | none => some q
    | some b => some (if q.va.toNat < b.va.toNat then q else b)) none with
  | some q => traceAccess kind logw q.va q.p
  | none => pure ()

/-! ## The sequencer's progress (R191, R192) -/

def Ctx.mseqHeld (k : Ctx) : Bool := k.mseq.getLsbD 11
def Ctx.mseqKind (k : Ctx) : BitVec 3 := k.mseq.extractLsb' 8 3
def Ctx.mseqDone (k : Ctx) : Nat := (k.mseq.extractLsb' 0 8).toNat
/-- The instruction has completed or trapped: the store is released. -/
def Ctx.freeSums (k : Ctx) : Ctx := { k with mseq := 0, sums := [] }
/-- The last interruption point passed stands in MSEQ; none passed leaves it. -/
def Ctx.holdSums (k : Ctx) (kind : BitVec 3) (done : Nat) (sums : List (BitVec 32)) : Ctx :=
  if done = 0 then k else { k with mseq := 1#1 ++ kind ++ BitVec.ofNat 8 done, sums := sums }

/-- Does the sequencer stop at an interruption point: a swap may fall due while it runs (R191). Time passes between
the turns that its stretches of 16 K-steps or units then take. -/
def Core.interrupts (c : Core) : Bool := c.countdown.isSome

/-- Runs MLDW or a product: its completion and its trap release the store (R182, R192). -/
def sequenced (m : M Flow) : M Flow := fun s =>
  match m s with
  | .ok (fl, s1) => .ok (fl, s1.mapCtx Ctx.freeSums)
  | .error (.trap c v pops keep) =>
    let base := match keep with
      | some t => t
      | none => s.mapCtx fun k => k.dropPops pops
    .error (.trap c v pops (some (base.mapCtx Ctx.freeSums)))
  | .error x => .error x

/-! ## MLDW (R178) -/

def Core.setUnit (c : Core) (u : Nat) (w : WUnit) : Core := { c with wbuf := c.wbuf.setIfInBounds u w }

/-- Units already written by this MLDW become not valid. -/
def Core.dropUnits (c : Core) (wb : Nat) : Nat → Core
  | 0 => c
  | n + 1 => (c.setUnit (wb + n) { c.wbuf.getD (wb + n) default with tag := none }).dropUnits wb n

def bitsOfBytes (bs : List Byte) : Nat := natOfBytes bs

/-- Reads of local memory wait for full lines (R175). -/
def Core.unitReady (c : Core) (ps : List Piece) : Bool := ps.all fun q => !q.p.own || c.lineFull (q.va.toNat / 128)

/-- What MLDW has done stands at an interruption point: the weight buffer as it was there, and the units written. -/
def keepUnits (c : Core) (done : Nat) (t : State) : State :=
  (t.mapFocus fun d => { d with wbuf := c.wbuf }).mapCtx fun k => k.holdSums 4 done []

/-- Copies units u, u + 1, …; a wait keeps what stood at the last interruption point, `kept`. The instruction started,
or resumed, at unit `start`. -/
def mldwFrom (wb : Nat) (tag : BitVec 32) (start : Nat) (kept : State) : Nat → List (List Piece) → M Unit
  | _, [] => pure ()
  | u, ps :: r => do
    let s ← get
    let kept := if u % 16 = 0 then s else kept
    if s.core.interrupts && u % 16 == 0 && u != start then waitHeld (keepUnits s.core u)
    else if !s.core.unitReady ps then waitHeld (keepUnits kept.core (u / 16 * 16))
    else match ← readRange ps with
      | .error a =>
        modCore fun c => c.dropUnits wb u
        trapKeep 0x0A a
      | .ok bs =>
        modCore fun c => c.setUnit (wb + u) ⟨BitVec.ofNat 1024 (bitsOfBytes bs), some tag, 0⟩
        mldwFrom wb tag start kept (u + 1) r

def execMldw (a : Opnd) (w n : BitVec 7) (s : State) : Host.Outcome State Fault Refusal :=
  unit (sequenced (do
    let x ← src a
    let wb := w.toNat
    let count := n.toNat + 1
    matAligned 128 [x]
    let rs := (List.range count).map fun u => (x + BitVec.ofNat 64 (128 * u), 128)
    let places ← matPlaces .load rs
    matModes rs places
    let s ← get
    let k := s.ctx
    let owned := (List.range k.mseqDone).all fun u => (s.core.wbuf.getD (wb + u) default).tag == some k.ctxid
    let start := if k.mseqHeld && k.mseqKind = 4 && decide (k.mseqDone ≤ count) && owned then k.mseqDone else 0
    mldwFrom wb k.ctxid start s start (places.drop start)
    traceMat 0 7 places
    next)) s

/-! ## The decompressor (R89 to R92, R174) -/

/-- The bits of n units from wb, as one stream. -/
def Core.stream (c : Core) (wb : Nat) : Nat → Nat
  | 0 => 0
  | n + 1 => (c.wbuf.getD wb default).data.toNat + 2 ^ 1024 * c.stream (wb + 1) n

/-- Does a granule of the stream bits lo to lo + n - 1 fail? -/
def Core.streamBad (c : Core) (wb lo n : Nat) : Bool :=
  (List.range ((lo + n - 1) / 64 - lo / 64 + 1)).any fun i =>
    let g := lo / 64 + i
    (c.wbuf.getD (wb + g / 16) default).bad.getLsbD (g % 16)

/-- A product's B: its pair, K, and the elements kept of 12 positions (12 where it is dense). -/
structure BShape where
  pair : Pair
  k    : Nat
  keep : Nat
  deriving DecidableEq, Repr

/-- Elements stored of a column. -/
def BShape.stored (b : BShape) : Nat := b.k * b.keep / 12
/-- Units of values (R174). -/
def BShape.values (b : BShape) : Nat := (b.k * b.keep * b.pair.bBits + 383) / 384
def BShape.units (b : BShape) : Nat := b.values + (if b.keep = 12 then 0 else b.k * b.keep / 96)

/-- The stored elements of column j, as encodings; a VQ2 index gives eight (R90). -/
def Core.column (c : Core) (b : BShape) (bits j : Nat) : List Nat :=
  if b.pair.isVq then
    (List.range (b.stored / 8)).flatMap fun g =>
      let x := streamElem bits 16 (j * (b.stored / 8) + g)
      (List.range 8).map (vq2Weight (streamElem c.vqTable.toNat 32 (x / 256)) x)
  else (List.range b.stored).map fun m => streamElem bits b.pair.bWidth (j * b.stored + m)

/-- The positions kept of group q of column j (R91, R174). -/
def BShape.positions (b : BShape) (bits j q : Nat) : List Nat :=
  let base := b.values * 1024 + 4 * (j * (b.k / 12) * b.keep + q * b.keep)
  (List.range b.keep).map fun m => bits / 2 ^ (base + 4 * m) % 16

/-- The fault code of one group's positions: 0x03 or 0x04 (R181), 0 where they are sound. -/
def groupFault : Option Nat → List Nat → Nat
  | _, [] => 0
  | prev, p :: r =>
    if 12 ≤ p then 3
    else match prev with
      | some q => if p ≤ q then 4 else groupFault (some p) r
      | none => groupFault (some p) r

/-- The first failing group in ascending j, then q (R182 step 7). -/
def BShape.metaFault (b : BShape) (bits : Nat) : Option Word :=
  if b.keep = 12 then none
  else ((List.range 32).flatMap fun j => (List.range (b.k / 12)).map fun q => (j, q)).findSome? fun (j, q) =>
    match groupFault none (b.positions bits j q) with
    | 0 => none
    | code => some (BitVec.ofNat 64 (code + 2 ^ 16 * j + 2 ^ 21 * q))

/-- Column j expanded to the dense K positions; none is a dropped element. -/
def Core.denseColumn (c : Core) (b : BShape) (bits j : Nat) : List (Option Nat) :=
  let col := c.column b bits j
  if b.keep = 12 then col.map some
  else (List.range (b.k / 12)).flatMap fun q =>
    let ps := b.positions bits j q
    (List.range 12).map fun at' => (ps.idxOf? at').map fun m => col.getD (q * b.keep + m) 0

/-- Does a read of column j meet an uncorrectable error (R180)? -/
def Core.columnBad (c : Core) (b : BShape) (wb j : Nat) : Bool :=
  let w := b.k * b.keep * b.pair.bBits / 12
  c.streamBad wb (j * w) w
    || (b.keep != 12 && c.streamBad wb (b.values * 1024 + 4 * (j * (b.k / 12) * b.keep)) (4 * (b.k / 12) * b.keep))

/-! ## The chains (R93) -/

/-- One position: the operands' encodings, and the exact product, made into a NaN or not. -/
def termOf (f : Pair) (a : Nat) (b : Option Nat) : Num × Bool :=
  match b, f.aFmt, f.bFmt with
  | some b, some g, some h => mulN (Fmt.value g a) (Fmt.value h b)
  | some b, _, _ => (Num.ofInt (signedOf 1 a * signedOf 1 b), false)
  | none, _, _ => (.zero false, false)

/-- RoundNE32 of a chain and a term, with the conditions met. -/
def chainAdd (c : Nat) (p : Num × Bool) : Nat × Conds :=
  let (x, i) := addN .nearest (Fmt.value .fp32 c) p.1
  let (r, cs) := round .fp32 .nearest false 0 x
  (r, cs.or ⟨i || p.2, false, false, false⟩)

/-- An INT32 chain: the sum modulo 2^32. -/
def chainInt (c : Nat) (p : Num × Bool) : Nat :=
  match p.1 with
  | .fin s m _ _ => (((c : Int) + (if s then -(m : Int) else m)) % (2 ^ 32 : Nat)).toNat
  | _ => c

/-- Two chains and the conditions met so far. -/
structure Chains where
  even  : Nat
  odd   : Nat
  conds : Conds
  deriving DecidableEq, Repr, Inhabited

/-- The terms of positions k, k + 1, … -/
def Chains.run (isInt : Bool) (c : Chains) : Nat → List (Num × Bool) → Chains
  | _, [] => c
  | k, p :: r =>
    if isInt then ({ c with even := chainInt c.even p } : Chains).run isInt (k + 1) r
    else if k % 2 = 0 then
      let (v, cs) := chainAdd c.even p
      ({ c with even := v, conds := c.conds.or cs } : Chains).run isInt (k + 1) r
    else
      let (v, cs) := chainAdd c.odd p
      ({ c with odd := v, conds := c.conds.or cs } : Chains).run isInt (k + 1) r

/-- The element at the end: RoundNE32(even + odd). -/
def Chains.finish (isInt : Bool) (c : Chains) : Nat × Conds :=
  if isInt then (c.even, c.conds)
  else
    let (v, cs) := chainAdd c.even (Fmt.value .fp32 c.odd, false)
    (v, c.conds.or cs)

/-! ## Safe order (R94) -/

/-- An exact value in units of 2^-300. -/
def fixed (x : Num) : Int :=
  match x with
  | .fin s m e _ => let v : Int := (m * 2 ^ (e + 300).toNat : Nat); if s then -v else v
  | _ => 0

/-- Is the candidate within the bound of R94 for the terms, or where the proviso fails one of the others it
admits? -/
def withinBound (acc : Num) (terms : List Num) (c : Nat) : Bool :=
  let n : Int := (terms.length : Int) + 1
  let all := (acc :: terms).map fixed
  let s := all.foldl (· + ·) 0
  let mag := (all.map fun v => (v.natAbs : Int)).foldl (· + ·) 0
  let u : Int := (2 : Int) ^ 24
  let close := match Fmt.value .fp32 c with
    | .fin sg m e k => decide (((fixed (.fin sg m e k) - s).natAbs : Int) * (u - n) ≤ n * mag + n * (u - n) * (2 : Int) ^ 150)
    | _ => false
  let proviso := decide (mag * (u + 2 * n) < fixed (Fmt.value .fp32 0x7F7FFFFF) * u)
  close || (!proviso && (Fmt.isInf .fp32 c || c == 0x7FC00000))

/-- One element in safe order: some value that R94 admits; `x` is a free word, `c` the result in normal order. -/
def safeElement (acc : Num) (terms : List Num) (c x : Nat) : Nat :=
  let all := acc :: terms
  let nans := all.filter Num.isNan
  let pos := all.any fun v => v == .inf false
  let neg := all.any fun v => v == .inf true
  let nans := if pos && neg then nans ++ [Num.made] else nans
  if nans != [] then (round .fp32 .nearest false 0 (nans.getD (x % nans.length) .made)).1
  else if pos then Fmt.infMag .fp32
  else if neg then Fmt.withSign .fp32 true (Fmt.infMag .fp32)
  else if withinBound acc terms (x % 2 ^ 32) then x % 2 ^ 32 else c

/-! ## The products (R179) -/

/-- The rows of A by their addresses. -/
def rowAddrs (k : Ctx) (base : Word) (rb : Nat) (v : Option (BitVec 4)) : List Word :=
  (List.range 16).map fun i =>
    match v with
    | none => base + BitVec.ofNat 64 (i * rb)
    | some v => base + BitVec.ofNat 64 (laneOf (k.readV (v.setWidth 5)) 16 i * rb)

/-- K-steps that the lines of one row allow, from a start. -/
def Core.rowSteps (c : Core) (a : Word) (e k : Nat) : Nat → Nat → Nat
  | 0, from' => from'
  | n + 1, from' =>
    if k ≤ from' then k
    else if c.lineFull ((a.toNat + from' * e) / 128) then c.rowSteps a e k n (from' + 1) else from'

/-- The chains as they start: the accumulator and +0, or those of the partial-sum store. -/
def startChains (k : Ctx) (t : Tile) (start : Nat) : List Chains :=
  elements.map fun (i, j) =>
    if start = 0 then ⟨t.elem i j, 0, .none⟩
    else ⟨(k.sums.getD (32 * i + j) 0).toNat, (k.sums.getD (512 + 32 * i + j) 0).toNat, .none⟩

/-- The chains as the partial-sum store holds them. -/
def sumsOf (cs : List Chains) (conds : Conds) : List (BitVec 32) :=
  cs.map (fun c => BitVec.ofNat 32 c.even) ++ cs.map (fun c => BitVec.ofNat 32 c.odd) ++ [conds.bits.setWidth 32]

/-- All conditions of some chains. -/
def allConds (c0 : Conds) (cs : List Conds) : Conds := cs.foldl Conds.or c0

/-- What one product is: its kind in MSEQ, the tile, A's base, wb, B's shape, MMG's index vector. -/
structure Product where
  kind : BitVec 3
  t    : BitVec 3
  a    : Opnd
  wb   : Nat
  b    : BShape
  v    : Option (BitVec 4)
  deriving DecidableEq, Repr

/-- Element e of a row of A. -/
def rowElem (f : Pair) (row : List Byte) (k : Nat) : Nat := natOfBytes ((row.drop (k * f.aBytes)).take f.aBytes)

/-- The terms of element (i, j) from position `start` on. -/
def termsFrom (f : Pair) (row : List Byte) (col : List (Option Nat)) (start : Nat) : List (Num × Bool) :=
  ((List.range col.length).drop start).map fun k => termOf f (rowElem f row k) (col.getD k none)

/-- Safe order: every element takes a value R94 admits, and the conditions that its roundings meet are not
given. -/
def safeResults (f : Pair) (t : Tile) (rows : List (List Byte)) (cols : List (List (Option Nat))) (rs : List Nat) : M (List Nat × Conds) := do
  if f.aFmt.isNone then return (rs, .none)
  else
    let s ← get
    let out := (elements.zip rs).map fun ((i, j), r) =>
      safeElement (Fmt.value .fp32 (t.elem i j)) ((termsFrom f (rows.getD i []) (cols.getD j []) 0).map Prod.fst) r
        (Config.freeWord (s.tick + 32 * i + j)).toNat
    set { s with tick := s.tick + 513 }
    return (out, Conds.ofBits ((Config.freeWord (s.tick + 512)).setWidth 32))

/-- R179 to R182, R190 to R195. The conditions that the chains of a row or a column met stand in td's flags even where an
uncorrectable error makes its elements NaN (log entry 85). -/
def product (d : Product) : M Flow := sequenced do
  let base ← src d.a
  let k ← ctx
  let f := d.b.pair
  let rb := d.b.k * f.aBytes
  let as := rowAddrs k base rb d.v
  let rs := as.map fun a => (a, rb)
  matAligned 64 [base]
  let places ← matPlaces .load rs
  match lowestOutside rs with
  | some a => trap 0x1A (BitVec.ofNat 64 a)
  | none => pure ()
  matModes rs places
  let s ← get
  match (List.range d.b.units).find? fun u => (s.core.wbuf.getD (d.wb + u) default).tag != some k.ctxid with
  | some u => trap 0x13 (BitVec.ofNat 64 (1 + 256 * (d.wb + u)))
  | none => pure ()
  guardTrap (!f.isVq || s.core.vqTag == some k.ctxid) 0x13 2
  let bits := s.core.stream d.wb d.b.units
  match d.b.metaFault bits with
  | some v => trap 0x13 v
  | none => pure ()
  let isInt := f.aFmt.isNone
  let start := if k.mseqHeld && k.mseqKind = d.kind && decide (k.mseqDone ≤ d.b.k) then k.mseqDone else 0
  let ready := as.foldl (fun n a => min n (s.core.rowSteps a f.aBytes d.b.k d.b.k start)) d.b.k
  let steps := if s.core.interrupts then min ready (start + 16) else ready
  let cols := (List.range 32).map (s.core.denseColumn d.b bits)
  let rows := as.map fun a => s.view (localPa s.core.id a.toNat) rb
  let conds0 := if start = 0 then Conds.none else Conds.ofBits (k.sums.getD 1024 0)
  let chains (upto : Nat) : List Chains :=
    (elements.zip (startChains k (k.readT d.t) start)).map fun ((i, j), c) =>
      c.run isInt start ((termsFrom f (rows.getD i []) (cols.getD j []) start).take (upto - start))
  if steps < d.b.k then
    let done := steps / 16 * 16
    if start < done then
      let cs := chains done
      waitHeld fun t => t.mapCtx fun k => k.holdSums d.kind done (sumsOf cs (allConds conds0 (cs.map Chains.conds)))
    else waitHeld
  else
    let ends := (chains d.b.k).map (Chains.finish isInt)
    let (rs', conds) ← if s.core.safe then safeResults f (k.readT d.t) rows cols (ends.map Prod.fst)
      else pure (ends.map Prod.fst, allConds conds0 (ends.map Prod.snd))
    let rowErr := places.map s.failIn
    let colErr := (List.range 32).map (s.core.columnBad d.b d.wb)
    let out := (elements.zip rs').map fun ((i, j), r) =>
      if (rowErr.getD i none).isSome || colErr.getD j false then 0x7FC00000 else r
    let fl := (k.readF d.t).add (conds.bits ||| (if s.core.safe then 0x20 else 0))
    let fl := rowErr.foldl (fun fl e => match e with
      | some a => fl.err a
      | none => fl) fl
    let s ← get
    let fl := if colErr.any id then fl.err (Config.freeWord s.tick) else fl
    if colErr.any id then set s.drawn
    modCtx fun k => (k.writeT d.t (tileFrom out)).writeF d.t fl
    next

def execMm (t : BitVec 3) (a : Opnd) (w : BitVec 7) (k : KSize) (f : Pair) (s : State) : Host.Outcome State Fault Refusal :=
  unit (product ⟨1, t, a, w.toNat, ⟨f, k.k, 12⟩, none⟩) s
def execMms (t : BitVec 3) (a : Opnd) (w : BitVec 7) (k : KSize) (f : Pair) (n : Bool) (s : State) : Host.Outcome State Fault Refusal :=
  unit (product ⟨2, t, a, w.toNat, ⟨f, k.k, if n then 6 else 4⟩, none⟩) s
def execMmg (t : BitVec 3) (a : Opnd) (w : BitVec 7) (k : KSize) (f : Pair) (v : BitVec 4) (s : State) : Host.Outcome State Fault Refusal :=
  unit (product ⟨3, t, a, w.toNat, ⟨f, k.k, 12⟩, some v⟩) s

end Sys2Proof.Machine
end

