-- ==== Sys2Proof/Machine/Power.lean ====
section
/-! DEFINITION. Host requests (R364), invalidations (R244), power states (R365, R366), and package reset (R367). -/

namespace Sys2Proof.Machine

/-! ## Host requests (R270, R364) -/

/-- The response to a request of the host, under its session's key (TYPE 13): the request's quadrant, TAG, SEQ, KGEN and
KEYID come back with it (log entry 34). -/
def hostResponse (pkg : BitVec 10) (key : BitVec 256) (p : Packet) (status : BitVec 8) (data : List Byte) : Packet :=
  let q : Packet := {
    dw0 := 0#6 ++ 0#1 ++ 1#1 ++ 0#2 ++ p.tag ++ BitVec.ofNat 10 data.length ++ 1#2 ++ pkg ++ 0#10 ++ 13#6 ++ 1#4
    dw1 := dw1Of 0 p.win 0 status 0
    dw2 := p.dw2
    dw3 := p.dw3
    data := data
    via := 0#2 ++ pkg
    mac := 0 }
  { q with mac := (sealPacket key q).2 }

/-- Answers a request: its STATUS and what it read, and the packet that carries them. -/
def State.reply (s : State) (p : Packet) (status : BitVec 8) (bs : List Byte) : State :=
  { s with fabric := { s.fabric with
      replies := s.fabric.replies ++ [(status, bs)]
      sent := s.fabric.sent ++ [hostResponse s.pkgid (s.fabric.hostKey.getD 0) p status bs] } }

/-- What forbids a physical access of n bytes for a tenant: the cause that the access would have taken. -/
def State.hostCause (s : State) (k : AccKind) (tenant : BitVec 6) (pa n : Nat) : Option (BitVec 8) :=
  let r := regionOf pa
  if r == .fabric || r == .reserved || !mapped pa n then some k.faultCause
  else if r == .control || !s.owns tenant pa || !s.owns tenant (pa + n - 1) then some 0x06
  else if r == .window && decide ((if k == .load then 0xE000 else 0xC000) < windowOffset pa + n) then some 0x06
  else if s.stagingRow pa || s.stagingRow (pa + n - 1) then some 0x06
  else if k == .load && s.failing pa n then some 0x0A
  else none

/-- The bytes of a physical read. -/
def State.hostBytes (s : State) (pa : Nat) : Nat → List Byte
  | 0 => []
  | n + 1 => s.byteAt (canon pa) :: s.hostBytes (pa + 1) n

/-- A physical write: discarded by a core in its compute phase (R285). -/
def State.hostWrite (s : State) (pa : Nat) (bs : List Byte) : State :=
  if regionOf pa == .window && (s.getCore (windowCore pa)).computing then
    s.modCore (windowCore pa) fun c => { c with discards := c.discards + 1 }
  else s.poke (canon pa) bs

/-- Is a physical access held: by a step of a rank (R336), or by a dump that is being made (R216)? -/
def State.hostHeld (s : State) (write : Bool) (pa n : Nat) : Bool :=
  s.inStep pa n || (write && regionOf pa == .window && (s.getCore (windowCore pa)).holding)

/-- Performs a request; none where it is held. -/
def State.hostPerform (s : State) (p : Packet) (op : HostOp) : Option State :=
  match op with
  | .launch r => (s.acceptLaunch r).map fun t => t.reply p 0 []
  | .read tenant pa n =>
    let (a, n) := (pa.toNat, n.toNat)
    if n = 0 then some (s.reply p 0 [])
    else match s.hostCause .load tenant a n with
      | some c => some (s.reply p c [])
      | none => if s.hostHeld false a n then none else some (s.reply p 0 (s.hostBytes a n))
  | .write tenant pa bs =>
    let a := pa.toNat
    if bs = [] then some (s.reply p 0 [])
    else match s.hostCause .store tenant a bs.length with
      | some c => some (s.reply p c [])
      | none => if s.hostHeld true a bs.length then none else some ((s.hostWrite a bs).reply p 0 [])
  | .ctrlRead off => match ctrlReg off.toNat with
    | none => some (s.reply p 0x06 [])
    | some r => some (s.reply p 0 (bytesOfNat 8 (s.ctrlRead r).toNat))
  | .ctrlWrite off v => match ctrlReg off.toNat with
    | none => some (s.reply p 0x06 [])
    | some r => (s.ctrlWrite v r).map fun t => t.reply p 0 []
  | .latTol v => some ((s.withTol (v.setWidth 32)).reply p 0 [])

/-- Is a packet a request under the key of the host's session? What it asks stands beside it, since the spec gives its
payload no layout (log entry 34). -/
def State.hostOk (s : State) (p : Packet) : Bool :=
  p.type == 12 && p.encrypted && match s.fabric.hostKey with
    | some key => tagOk key p
    | none => false

/-- HOST_REQUEST: the service core that WIN names performs the request and answers it; a packet that is none of the host's
session is dropped and logged. -/
def execHostRequest (s : State) : Host.Outcome State Fault Refusal :=
  match s.due with
  | ⟨.hostRequest p op, _⟩ :: rest =>
    let s' : State := { s with due := rest }
    if s.hostOk p then .next ((({ s' with traffic := s.cycle.toNat } : State).hostPerform p op).getD s)
    else .next (s'.logDrop p)
  | _ => .next s

/-! ## Invalidations (R244) -/

/-- XINV: BUSY becomes 1; a write while it is 1 waits. -/
def execXinv (s : State) : Host.Outcome State Fault Refusal :=
  match s.due with
  | ⟨.xinv cl v, _⟩ :: rest =>
    if (s.cluster cl).inval.isSome then .next s else .next (({ s with due := rest } : State).startInval cl v)
  | _ => .next s

/-- Does an invalidation remove a translation: every entry, or one that meets the page named? -/
def TlbEntry.matches' (t : TlbEntry) (v : Word) : Bool :=
  let sz := (v.extractLsb' 0 2).toNat
  if sz = 3 then true
  else
    let size := 2 ^ pageBits sz
    let a := v.toNat % 2 ^ 53 / size * size
    decide (t.va < a + size) && decide (a < t.va + t.size)

/-- Does an invalidation remove an entry of the walker cache? -/
def TlbNode.matches' (n : TlbNode) (v : Word) : Bool := (⟨n.base, 2 ^ pageBits n.level, n.pte⟩ : TlbEntry).matches' v

/-- An access that was translated through an entry which the invalidation removes, and is not performed yet: a fabric
request of the cluster (R244). -/
def State.invalAwaits (s : State) (cl : BitVec 9) (v : Word) : Bool :=
  s.fabric.reqs.any fun r => clusterOf r.2.who.core == cl && (⟨r.2.va.toNat % 2 ^ 53, max 1 r.2.len, 0⟩ : TlbEntry).matches' v

/-- BUSY becomes 0 once every matching entry is gone, and every access translated through one is performed. -/
def execInvalidationComplete (s : State) : Host.Outcome State Fault Refusal :=
  match s.due with
  | ⟨.invalidationComplete cl, _⟩ :: rest =>
    let s' := { s with due := rest }
    let c := s.cluster cl
    match c.inval with
    | none => .next s'
    | some v =>
      if s.invalAwaits cl v then .next s
      else .next (s'.setCluster cl { c with
        inval := none
        tlb := c.tlb.filter fun t => !t.matches' v
        nodes := c.nodes.filter fun n => !n.matches' v
        ownSeen := if v.extractLsb' 0 2 == 3 then s.ownPast.length else c.ownSeen })
  | _ => .next s

/-! ## Power states (R366) -/

/-- No live context, and no outstanding engine work. -/
def State.coreIdle (s : State) (id : CoreId) : Bool :=
  let c := s.getCore id
  (c.placeOf fun _ => true).isNone && c.launchQ = [] && c.outbox = [] && c.spilling.isNone && c.filling.isNone
    && !s.cmds.any (·.who.core == id) && !s.fabric.reqs.any (·.2.who.core == id)

/-- The conditions of a unit's state. -/
def State.mayRest (s : State) (u : PowerUnit) : Bool :=
  match u with
  | .core id => s.coreIdle id
  | .cluster cl => (List.range 16).all fun n => s.asleep.contains (.core (cl ++ BitVec.ofNat 4 n))
  | .die d => (List.range 128).all fun n => s.asleep.contains (.cluster (d ++ BitVec.ofNat 7 n))
  | .stackMem => (List.range 4).all (fun n => s.asleep.contains (.die (BitVec.ofNat 2 n)))
      && !s.ranks.any (·.2.state.isLive) && !s.cmds.any (·.kind.isStack)
  | .package => s.asleep.contains .stackMem && decide (s.traffic + cyclesOf 1000 ≤ s.cycle.toNat)

/-- May a unit enter its state: its conditions hold, its exit latency is within TOL, and it is awake? -/
def State.rests (s : State) (u : PowerUnit) : Bool :=
  s.mayRest u && decide (exitLatency (powerLevel u) ≤ s.tol.toNat) && !s.asleep.contains u

/-- Every unit, from the innermost. -/
def allUnits : List PowerUnit :=
  (List.range 8192).map (fun n => .core (BitVec.ofNat 13 n)) ++ (List.range 512).map (fun n => .cluster (BitVec.ofNat 9 n))
    ++ (List.range 4).map (fun n => .die (BitVec.ofNat 2 n)) ++ [.stackMem, .package]

/-- A unit whose conditions hold enters its state: the first such unit is the next that does. -/
def State.offerRest (s : State) : State :=
  if s.tol = 0 || s.due.any (fun d => match d.act with
    | .powerStateEntry _ => true
    | _ => false) then s
  else match allUnits.find? s.rests with
    | some u => s.enqueue (.powerStateEntry u)
    | none => s

/-- POWER_STATE_ENTRY. -/
def execPowerStateEntry (s : State) : Host.Outcome State Fault Refusal :=
  match s.due with
  | ⟨.powerStateEntry u, _⟩ :: rest =>
    let s' := { s with due := rest }
    if s.rests u then
      .next (({ s' with asleep := s'.asleep ++ [u] } : State).withCur)
    else .next s'
  | _ => .next s

/-- WAKE: the unit, and what encloses it, is awake. -/
def execWake (s : State) : Host.Outcome State Fault Refusal :=
  match s.due with
  | ⟨.wake u, _⟩ :: rest => .next (({ s with due := rest } : State).rouse u)
  | _ => .next s

/-! ## Package reset (R367) -/

/-- Ownership bytes from the record. -/
def bytesTab (bs : List (Nat × Byte)) : Tab Byte := bs.foldl (fun t b => t.set b.1 b.2) []

/-- The stacks as the record sets them (R338). -/
def recordStacks (r : ConfRecord) : Tab Stack :=
  (List.range 12).map fun n =>
    let a := r.alerts.getD n (Stack.reset.budget, Stack.reset.winus)
    (n, { Stack.reset with mode := r.modes.getLsbD n, budget := a.1, winus := a.2 })

/-- ANNOUNCE on every trained port: E = 0, KGEN = 0, PKGID and the digest of the certificate (R353, R367 step 6). -/
def announceOf (pkg : BitVec 10) : Packet :=
  openPacket pkg 0 14 (bytesOfNat 2 pkg.toNat ++ bytesOfNat 48 Config.certDigest.toNat)

/-- The package as bring-up leaves it: memory keeps its contents, which the spec says nothing of (log entry 3). -/
def State.broughtUp (s : State) (r : ConfRecord) (salt : BitVec 128) : State :=
  let z := State.reset
  { z with
    core := Core.reset s.core.id
    mem := s.mem
    bad := s.bad
    pkgid := r.pkg
    pown := bytesTab r.pown
    sown := bytesTab r.sown
    hown := bytesTab r.hown
    stackRegs := recordStacks r
    saveAt := r.saves.foldl (fun t c => t.set c.1.toNat c.2) []
    tol := r.tol
    salt := salt
    tick := s.tick
    fabric := { Fabric.reset with
      ftmo := if r.ftmo = 0 then 100 else r.ftmo.toNat
      deadline := if r.deadline = 0 then 10000 else r.deadline.toNat
      ports := r.ports
      hostPorts := r.host
      sent := List.replicate ((List.range 18).countP fun p => r.ports.getLsbD p) (announceOf r.pkg) } }

/-- PACKAGE_RESET: where the record does not verify, the package stays in reset and announces nothing. -/
def execPackageReset (s : State) : Host.Outcome State Fault Refusal :=
  match s.due with
  | ⟨.packageReset ok r salt, _⟩ :: rest =>
    .next (if ok then s.broughtUp r salt else { State.reset with core := Core.reset s.core.id, mem := s.mem, bad := s.bad, tick := s.tick, due := rest, down := true })
  | _ => .next s

end Sys2Proof.Machine
end

