-- ==== Sys2Proof/Machine/ScalarFp.lean ====
section
/-! DEFINITION. Scalar floating point, OP 11 (R97, R104 to R106). -/

namespace Sys2Proof.Machine

/-- Bits [31:0] of a source as an FP32 encoding (R97). -/
def fpBits (w : Word) : Nat := w.toNat % 2 ^ 32
def fpVal (w : Word) : Num := Fmt.value .fp32 (fpBits w)

/-- A rounded FP32 result under the mode of R82, saturation 0 (R104). -/
def fpResult (i : Instr) (d : Opnd) (x : Num) : M Flow := do
  let k ← ctx
  let (r, _) ← roundM .fp32 k.roundMode false x
  dst (wordOf i) d (BitVec.ofNat 64 r)
  next

/-- Two sources, an exact result that may depend on the mode (R81), one rounding. -/
def fpBin (i : Instr) (d a b : Opnd) (f : RMode → Num → Num → Num × Bool) : M Flow := do
  let k ← ctx
  let x ← src a
  let y ← src b
  fpResult i d (f k.roundMode (fpVal x) (fpVal y)).1

def execFadd (d a b : Opnd) (s : State) : Host.Outcome State Fault Refusal :=
  unit (fpBin (.fadd d a b) d a b addN) s
def execFsub (d a b : Opnd) (s : State) : Host.Outcome State Fault Refusal :=
  unit (fpBin (.fsub d a b) d a b fun m x y => addN m x y.negate) s
def execFmul (d a b : Opnd) (s : State) : Host.Outcome State Fault Refusal :=
  unit (fpBin (.fmul d a b) d a b fun _ x y => mulN x y) s
/-- R96: d is read as a source; one rounding. -/
def execFma (d a b : Opnd) (s : State) : Host.Outcome State Fault Refusal :=
  unit (do
    let k ← ctx
    let x ← src a
    let y ← src b
    let z ← src d
    fpResult (.fma d a b) d (fmaN k.roundMode (fpVal x) (fpVal y) (fpVal z)).1) s
def execFdiv (d a b : Opnd) (s : State) : Host.Outcome State Fault Refusal :=
  unit (fpBin (.fdiv d a b) d a b fun _ x y => divN x y) s
def execFsqrt (d a : Opnd) (s : State) : Host.Outcome State Fault Refusal :=
  unit (do
    let x ← src a
    fpResult (.fsqrt d a) d (sqrtN (fpVal x)).1) s

def execFmin (d a b : Opnd) (s : State) : Host.Outcome State Fault Refusal :=
  unit (binOp (.fmin d a b) d a b fun x y => BitVec.ofNat 64 (Fmt.pick .fp32 false (fpBits x) (fpBits y))) s
def execFmax (d a b : Opnd) (s : State) : Host.Outcome State Fault Refusal :=
  unit (binOp (.fmax d a b) d a b fun x y => BitVec.ofNat 64 (Fmt.pick .fp32 true (fpBits x) (fpBits y))) s
def execFeq (d a b : Opnd) (s : State) : Host.Outcome State Fault Refusal :=
  unit (binOp (.feq d a b) d a b fun x y => word (Fmt.eqv .fp32 (fpBits x) (fpBits y))) s
def execFlt (d a b : Opnd) (s : State) : Host.Outcome State Fault Refusal :=
  unit (binOp (.flt d a b) d a b fun x y => word (Fmt.ltv .fp32 (fpBits x) (fpBits y))) s
def execFle (d a b : Opnd) (s : State) : Host.Outcome State Fault Refusal :=
  unit (binOp (.fle d a b) d a b fun x y => word (Fmt.lev .fp32 (fpBits x) (fpBits y))) s
def execFclass (d a : Opnd) (s : State) : Host.Outcome State Fault Refusal :=
  unit (unOp (.fclass d a) d a fun x => 1#64 <<< Fmt.classBit .fp32 (fpBits x)) s

/-! ## FCVT (R106) -/

/-- A narrower floating format (R86): its encoding, zero-extended. -/
def fcvtNarrow (f : Fmt) (x : Word) : M Word := do
  let k ← ctx
  let (r, _) ← roundM f k.roundMode k.saturates (fpVal x)
  return BitVec.ofNat 64 r

/-- FP32, exactly (R86): nothing is rounded or drawn (R84). -/
def fcvtWiden (f : Fmt) (x : Word) : Word :=
  BitVec.ofNat 64 (round .fp32 .nearest false 0 (Fmt.value f (x.toNat % 2 ^ Fmt.bits f))).1

/-- An integer of n bits; every out-of-range value saturates, and a NaN gives 0 (R86). -/
def fcvtInt (n : Nat) (x : Word) : M Word := do
  let k ← ctx
  let r ← drawFor k.roundMode
  return BitVec.ofInt 64 (roundInt (-(2 ^ (n - 1) : Nat)) ((2 ^ (n - 1) : Nat) - 1) k.roundMode r (fpVal x))

/-- FP32 of an integer. -/
def fcvtFrom (v : Int) : M Word := do
  let k ← ctx
  let (r, _) ← roundM .fp32 k.roundMode k.saturates (Num.ofInt v)
  return BitVec.ofNat 64 r

def fcvtWord (c : FcvtOp) (x : Word) : M Word :=
  match c with
  | .f32ToI64 => fcvtInt 64 x
  | .f32ToI32 => fcvtInt 32 x
  | .i64ToF32 => fcvtFrom x.toInt
  | .i32ToF32 => fcvtFrom (x.setWidth 32).toInt
  | .f32ToBf16 => fcvtNarrow .bf16 x
  | .bf16ToF32 => return fcvtWiden .bf16 x
  | .f32ToF16 => fcvtNarrow .fp16 x
  | .f16ToF32 => return fcvtWiden .fp16 x
  | .f32ToE4m3 => fcvtNarrow .e4m3 x
  | .e4m3ToF32 => return fcvtWiden .e4m3 x
  | .f32ToE5m2 => fcvtNarrow .e5m2 x
  | .e5m2ToF32 => return fcvtWiden .e5m2 x

def execFcvt (d a : Opnd) (c : FcvtOp) (s : State) : Host.Outcome State Fault Refusal :=
  unit (do
    let x ← src a
    let r ← fcvtWord c x
    dst (wordOf (.fcvt d a c)) d r
    next) s

end Sys2Proof.Machine
end

