-- ==== Sys2Proof/Machine/TileOps.lean ====
section
/-! DEFINITION. Tile operations, OP 44, and the branch on tile status, OP 45 (R183 to R189). -/

namespace Sys2Proof.Machine

/-! ## Register-only members (R184) -/

def execMzero (d : BitVec 3) (s : State) : Host.Outcome State Fault Refusal :=
  unit (do
    modCtx fun k => (k.writeT d (tileFrom [])).writeF d .zero
    next) s
def execMmov (d a : BitVec 3) (s : State) : Host.Outcome State Fault Refusal :=
  unit (do
    modCtx fun k => (k.writeT d (k.readT a)).writeF d (k.readF a)
    next) s

/-- The elements of a floating sum, rounded in row-major order. -/
def addTiles (k : Ctx) (x y : Tile) : List (Nat × Nat) → M (List (Nat × Conds))
  | [] => return []
  | (i, j) :: r => do
    let (v, inv) := addN k.roundMode (Fmt.value .fp32 (x.elem i j)) (Fmt.value .fp32 (y.elem i j))
    let (e, cs) ← roundM .fp32 k.roundMode false v
    let rest ← addTiles k x y r
    return (e, cs.or ⟨inv, false, false, false⟩) :: rest

def execMadd (d a b : BitVec 3) (i : Bool) (s : State) : Host.Outcome State Fault Refusal :=
  unit (do
    let k ← ctx
    let x := k.readT a
    let y := k.readT b
    let fl := (k.readF a).join (k.readF b)
    if i then
      modCtx fun k => (k.writeT d (tileBy fun i j => (x.elem i j + y.elem i j) % 2 ^ 32)).writeF d fl
    else
      let rs ← addTiles k x y elements
      modCtx fun k => (k.writeT d (tileFrom (rs.map Prod.fst))).writeF d (fl.add (allConds .none (rs.map Prod.snd)).bits)
    next) s

def execMxpose (d a b : BitVec 3) (h : Bool) (s : State) : Host.Outcome State Fault Refusal :=
  unit (do
    let k ← ctx
    let x := k.readT a
    let y := k.readT b
    let o := if h then 16 else 0
    modCtx fun k => (k.writeT d (tileBy fun i j => if j < 16 then x.elem j (o + i) else y.elem (j - 16) (o + i))).writeF d
      ((k.readF a).join (k.readF b))
    next) s

/-! ## MLD and MST (R185) -/

/-- RS: 64 bytes for bf16, 128 for w32. -/
def rowSize (bf16 : Bool) : Nat := if bf16 then 64 else 128
def rowLog (bf16 : Bool) : BitVec 3 := if bf16 then 6 else 7

/-- The stride: 0 means RS, a smaller one traps. -/
def strideOf (word : Word) (b : Word) (rs : Nat) : M Word :=
  if b = 0 then return BitVec.ofNat 64 rs
  else if b.toNat < rs then trap 0x01 word
  else return b

/-- A row of MLD: its words, and the first failing address in place of an error (R185). -/
def mldRow (bf16 : Bool) (ps : List Piece) : M (List Nat × Option Word) := do
  match ← readRange ps with
  | .error a => return (List.replicate 32 0x7FC00000, some a)
  | .ok bs =>
    let v := natOfBytes bs
    return ((List.range 32).map fun j =>
      if bf16 then Fmt.widen .bf16 .fp32 (streamElem v 16 j) else streamElem v 32 j, none)

def mldRows (bf16 : Bool) : List (List Piece) → M (List (List Nat × Option Word))
  | [] => return []
  | ps :: r => do
    let x ← mldRow bf16 ps
    let xs ← mldRows bf16 r
    return x :: xs

def execMld (d : BitVec 3) (a b : Opnd) (f : Bool) (s : State) : Host.Outcome State Fault Refusal :=
  unit (do
    let x ← src a
    let y ← src b
    let rs := rowSize f
    let stride ← strideOf (wordOf (.mld d a b f)) y rs
    let as := (List.range 16).map fun i => x + BitVec.ofNat 64 i * stride
    matAligned 64 as
    let ranges := as.map fun a => (a, rs)
    let places ← matPlaces .load ranges
    matModes ranges places
    let rows ← mldRows f places
    let fl := rows.foldl (fun fl r => match r.2 with
      | some e => fl.err e
      | none => fl) TileFlags.zero
    modCtx fun k => (k.writeT d (tileOf (rows.map Prod.fst))).writeF d fl
    traceMat 0 (rowLog f) places
    next) s

/-- The bytes of a row and the conditions of its conversions. -/
def mstRow (k : Ctx) (bf16 : Bool) (t : Tile) (i : Nat) : List Nat → M (List Byte × Conds)
  | [] => return ([], .none)
  | j :: r => do
    let (e, cs) ← if bf16 then roundM .bf16 k.roundMode k.saturates (Fmt.value .fp32 (t.elem i j)) else pure (t.elem i j, Conds.none)
    let (rest, ds) ← mstRow k bf16 t i r
    return (bytesOfNat (if bf16 then 2 else 4) e ++ rest, cs.or ds)

def mstRows (k : Ctx) (bf16 : Bool) (t : Tile) : List Nat → M (List (List Byte × Conds))
  | [] => return []
  | i :: r => do
    let x ← mstRow k bf16 t i (List.range 32)
    let xs ← mstRows k bf16 t r
    return x :: xs

/-- Writes the bytes of a range to its pieces; each is performed before the instruction retires (R194). -/
def writePieces : List Piece → List Byte → M Unit
  | [], _ => pure ()
  | q :: r, bs => do
    storeAt q.va q.p (bs.take q.n) 0 false true
    writePieces r (bs.drop q.n)

def writeRows : List (List Piece) → List (List Byte) → M Unit
  | ps :: r, bs :: rest => do
    writePieces ps bs
    writeRows r rest
  | _, _ => pure ()

/-- The rows that are stored, with their addresses: an index of 0xFFFF skips its row. -/
def mstTargets (k : Ctx) (base stride : Word) (v : BitVec 3) (scatter : Bool) : List (Nat × Word) :=
  (List.range 16).filterMap fun i =>
    if scatter then
      let x := laneOf (k.readV (v.setWidth 5)) 16 i
      if x = 0xFFFF then none else some (i, base + BitVec.ofNat 64 x * stride)
    else some (i, base + BitVec.ofNat 64 i * stride)

/-- The address of the status word. -/
def statusAddr (base stride : Word) (scatter : Bool) : Word := if scatter then base - 4 else base + 16 * stride

/-- Alignment of MST: of the rows to 64, of the status word to 4; the lowest failing address. -/
def mstAligned (as : List Word) (st : Word) : M Unit :=
  match (as.filter fun a => a.toNat % 64 != 0) ++ (if st.toNat % 4 = 0 then [] else [st]) with
  | [] => pure ()
  | a :: r => trap 0x03 (r.foldl (fun b c => if c.toNat < b.toNat then c else b) a)

/-- MST (R185). INFO[5:3] of its trace entry is the width of its rows, also where the lowest address outside local memory is that of
the status word (log entry 92). -/
def execMst (r v : BitVec 3) (a b : Opnd) (f g : Bool) (s : State) : Host.Outcome State Fault Refusal :=
  unit (do
    let x ← src a
    let y ← src b
    let k ← ctx
    let rs := rowSize f
    let stride ← strideOf (wordOf (.mst r v a b f g)) y rs
    let ts := mstTargets k x stride v g
    let st := statusAddr x stride g
    mstAligned (ts.map Prod.snd) st
    let ranges := ts.map (fun t => (t.2, rs)) ++ [(st, 4)]
    let places ← matPlaces .store ranges
    matModes ranges places
    let rows ← mstRows k f (k.readT r) (ts.map Prod.fst)
    let fl := (k.readF r).add (allConds .none (rows.map Prod.snd)).bits
    writeRows places (rows.map Prod.fst ++ [bytesOfNat 4 fl.status.toNat])
    modCtx fun k => k.writeF r fl
    traceMat 1 (rowLog f) places
    next) s

/-! ## MSCALE and MCB (R187, R188) -/

/-- The bytes of scales, none where one meets an uncorrectable error, and the first failing address. -/
def scaleBytes : List Piece → M (List (Option Byte) × Option Word)
  | [] => return ([], none)
  | q :: r => do
    let s ← get
    let (here, bad) ← if regionOf q.p.pa == .fabric then do
        match ← readPieces [q] with
        | .ok bs => pure (bs.map some, none)
        | .error a => pure (List.replicate q.n none, some a)
      else if s.inStep q.p.pa q.n then wait
      else pure ((List.range q.n).map fun i =>
        if s.failing (q.p.pa + i) 1 then none else some (s.viewByte (canon (q.p.pa + i))), s.failAddr q.va q.p q.n)
    let (rest, e) ← scaleBytes r
    return (here ++ rest, bad.orElse fun _ => e)

/-- One element: 2^(sa + sb - 254) times the partial sum is exact, the addition the one rounding. -/
def scaleElem (t a : Nat) (sa sb : Option Byte) : Nat × Conds :=
  match sa, sb with
  | some x, some y =>
    if x = 0xFF || y = 0xFF then (0x7FC00000, ⟨true, false, false, false⟩)
    else
      let p := match Fmt.value .fp32 a with
        | .fin s m e k => Num.fin s m (e + x.toNat + y.toNat - 254) k
        | v => v
      let (v, inv) := addN .nearest (Fmt.value .fp32 t) p
      let (r, cs) := roundNE32 v
      (r, cs.or ⟨inv, false, false, false⟩)
  | _, _ => (0x7FC00000, .none)

def execMscale (d a : BitVec 3) (x y : Opnd) (s : State) : Host.Outcome State Fault Refusal :=
  unit (do
    let pa ← src x
    let pb ← src y
    let ranges := [(pa, 16), (pb, 32)]
    let places ← matPlaces .load ranges
    matModes ranges places
    let (sa, ea) ← scaleBytes (places.getD 0 [])
    let (sb, eb) ← scaleBytes (places.getD 1 [])
    let k ← ctx
    let t := k.readT d
    let u := k.readT a
    let out := elements.map fun (i, j) => scaleElem (t.elem i j) (u.elem i j) (sa.getD i none) (sb.getD j none)
    let fl := (k.readF d).join (k.readF a)
    let fl := match ea, eb with
      | some e, _ => fl.err e
      | none, some e => fl.err e
      | none, none => fl
    modCtx fun k => (k.writeT d (tileFrom (out.map Prod.fst))).writeF d (fl.add (allConds .none (out.map Prod.snd)).bits)
    traceMat 0 0 places
    next) s

def execMcb (a : Opnd) (s : State) : Host.Outcome State Fault Refusal :=
  unit (do
    let x ← src a
    matAligned 128 [x]
    let places ← matPlaces .load [(x, 1024)]
    matModes [(x, 1024)] places
    match ← readRange places.flatten with
    | .error e =>
      modCore fun c => { c with vqTag := none }
      trapKeep 0x0A e
    | .ok bs =>
      modCore fun c => { c with vqTable := BitVec.ofNat 8192 (natOfBytes bs), vqTag := some c.front.ctxid }
    traceMat 0 7 places
    next) s

/-! ## BTS (R189) -/

def execBts (a : BitVec 3) (m : BitVec 8) (b : Bool) (off : BitVec 14) (s : State) : Host.Outcome State Fault Refusal :=
  unit (do
    let k ← ctx
    let hit := (k.readF a).bits.setWidth 8 &&& m != 0
    if hit != b then jump (k.iaddr + (off.signExtend 64 <<< 2)) else next) s

end Sys2Proof.Machine
end

