-- ==== Sys2Proof/Machine/VecArith.lean ====
section
/-! DEFINITION. Vector arithmetic and bitwise operations, OPs 30 and 31 (R125, R126). -/

namespace Sys2Proof.Machine

def execVadd (d a b : BitVec 5) (m : BitVec 3) (t : ElemType) (s : State) : Host.Outcome State Fault Refusal :=
  unit (laneBin d a b m t
    (fun k f x y => roundLane k f (addN k.roundMode (Fmt.value f x) (Fmt.value f y)).1)
    (fun x y => wrapLane (elemWidth t) (laneInt (elemWidth t) x + laneInt (elemWidth t) y))) s
def execVsub (d a b : BitVec 5) (m : BitVec 3) (t : ElemType) (s : State) : Host.Outcome State Fault Refusal :=
  unit (laneBin d a b m t
    (fun k f x y => roundLane k f (addN k.roundMode (Fmt.value f x) (Fmt.value f y).negate).1)
    (fun x y => wrapLane (elemWidth t) (laneInt (elemWidth t) x - laneInt (elemWidth t) y))) s
def execVmul (d a b : BitVec 5) (m : BitVec 3) (t : ElemType) (s : State) : Host.Outcome State Fault Refusal :=
  unit (laneBin d a b m t
    (fun k f x y => roundLane k f (mulN (Fmt.value f x) (Fmt.value f y)).1)
    (fun x y => wrapLane (elemWidth t) (laneInt (elemWidth t) x * laneInt (elemWidth t) y))) s
/-- One rounding; NaN operands in the order va, vb, vd (R124). -/
def execVfma (d a b : BitVec 5) (m : BitVec 3) (t : ElemType) (s : State) : Host.Outcome State Fault Refusal :=
  unit (laneWise d m t fun k i =>
    let w := elemWidth t
    let x := laneOf (k.readV a) w i
    let y := laneOf (k.readV b) w i
    let z := laneOf (k.readV d) w i
    match elemFmt t with
    | some f => roundLane k f (fmaN k.roundMode (Fmt.value f x) (Fmt.value f y) (Fmt.value f z)).1
    | none => pure (wrapLane w (laneInt w z + laneInt w x * laneInt w y))) s
def execVmin (d a b : BitVec 5) (m : BitVec 3) (t : ElemType) (s : State) : Host.Outcome State Fault Refusal :=
  unit (laneBin d a b m t (fun _ f x y => pure (Fmt.pick f false x y))
    (fun x y => if laneInt (elemWidth t) y < laneInt (elemWidth t) x then y else x)) s
def execVmax (d a b : BitVec 5) (m : BitVec 3) (t : ElemType) (s : State) : Host.Outcome State Fault Refusal :=
  unit (laneBin d a b m t (fun _ f x y => pure (Fmt.pick f true x y))
    (fun x y => if laneInt (elemWidth t) x < laneInt (elemWidth t) y then y else x)) s
/-- A floating lane only loses or turns its sign bit; a NaN's other bits stay (R125). -/
def execVabs (d a : BitVec 5) (m : BitVec 3) (t : ElemType) (s : State) : Host.Outcome State Fault Refusal :=
  unit (laneBin d a a m t (fun _ f x _ => pure (Fmt.mag f x))
    (fun x _ => wrapLane (elemWidth t) (laneInt (elemWidth t) x).natAbs)) s
def execVneg (d a : BitVec 5) (m : BitVec 3) (t : ElemType) (s : State) : Host.Outcome State Fault Refusal :=
  unit (laneBin d a a m t (fun _ f x _ => pure (Fmt.withSign f (!Fmt.neg f x) (Fmt.mag f x)))
    (fun x _ => wrapLane (elemWidth t) (-laneInt (elemWidth t) x))) s

/-- A bitwise lane operation: the bits are treated as bits (R126). -/
def laneBits (d a b : BitVec 5) (m : BitVec 3) (t : ElemType) (f : Nat → Nat → Nat) : M Flow :=
  laneBin d a b m t (fun _ _ x y => pure (f x y)) f

def execVand (d a b : BitVec 5) (m : BitVec 3) (t : ElemType) (s : State) : Host.Outcome State Fault Refusal :=
  unit (laneBits d a b m t fun x y => x &&& y) s
def execVor (d a b : BitVec 5) (m : BitVec 3) (t : ElemType) (s : State) : Host.Outcome State Fault Refusal :=
  unit (laneBits d a b m t fun x y => x ||| y) s
def execVxor (d a b : BitVec 5) (m : BitVec 3) (t : ElemType) (s : State) : Host.Outcome State Fault Refusal :=
  unit (laneBits d a b m t fun x y => x ^^^ y) s
def execVnot (d a : BitVec 5) (m : BitVec 3) (t : ElemType) (s : State) : Host.Outcome State Fault Refusal :=
  unit (laneBits d a a m t fun x _ => 2 ^ elemWidth t - 1 - x) s
def execVsll (d a b : BitVec 5) (m : BitVec 3) (t : ElemType) (s : State) : Host.Outcome State Fault Refusal :=
  unit (laneBits d a b m t fun x y => x * 2 ^ (y % elemWidth t)) s
def execVsrl (d a b : BitVec 5) (m : BitVec 3) (t : ElemType) (s : State) : Host.Outcome State Fault Refusal :=
  unit (laneBits d a b m t fun x y => x / 2 ^ (y % elemWidth t)) s
def execVsra (d a b : BitVec 5) (m : BitVec 3) (t : ElemType) (s : State) : Host.Outcome State Fault Refusal :=
  unit (laneBits d a b m t fun x y => wrapLane (elemWidth t) (laneInt (elemWidth t) x / (2 ^ (y % elemWidth t) : Nat))) s
def execVpopc (d a : BitVec 5) (m : BitVec 3) (t : ElemType) (s : State) : Host.Outcome State Fault Refusal :=
  unit (laneBits d a a m t fun x _ => onesOf (BitVec.ofNat 64 x) (elemWidth t)) s

end Sys2Proof.Machine
end

