-- ==== Sys2Proof/Machine/VecMem.lean ====
section
/-! DEFINITION. Vector memory, OP 35 (R136 to R144). -/

namespace Sys2Proof.Machine

/-! ## Lanes and their checks (R137, R142) -/

/-- One place that a lane reaches: its lane, address and physical address. -/
structure LaneAt where
  lane : Nat
  va   : Word
  p    : Phys
  deriving DecidableEq, Repr, Inhabited

/-- Alignment of the active lanes, ascending (R137). -/
def lanesAligned (n : Nat) (as : List (Nat × Word)) : M Unit :=
  match as.find? fun a => a.2.toNat % n != 0 with
  | some a => trap 0x03 a.2
  | none => pure ()

/-- F with an active lane outside local memory (R139): by the addresses alone. -/
def lanesLocal (as : List (Nat × Word)) : M Unit :=
  match as.find? fun a => decide (0xC000 ≤ a.2.toNat) with
  | some a => trap 0x1A a.2
  | none => pure ()

/-- Translation and permission of every active lane, then the compute phase where the access writes. -/
def lanesAt (kind : AccKind) (as : List (Nat × Word)) : M (List LaneAt) := do
  let ps ← checkAll kind false (as.map Prod.snd)
  let ls := (as.zip ps).map fun x => LaneAt.mk x.1.1 x.1.2 x.2
  if kind != .load then
    for l in ls do phaseCheck l.va l.p
  return ls

/-- The region that holds all n bytes of every place, if one does; none if no byte lies in a region; an
error where neither holds (R142). -/
def Ctx.regionOfAll (k : Ctx) (n : Nat) (vas : List Word) : Except Unit (Option Nat) :=
  let rs := vas.flatMap fun a => (List.range n).map fun j => k.dreg (a + BitVec.ofNat 64 j)
  match rs with
  | [] => .ok none
  | r :: rest => if rest.all (· == r) then .ok r else .error ()

/-- The rules of R142 before any effect: the region of the active lanes in TAPE and REV mode. `refuse`
names the modes the instruction does not take; `typed`: its REV form needs the region's type. EVALUE is the
lowest active lane's address. -/
def lanesRegion (n : Nat) (t : ElemType) (refuse : DiffMode → Bool) (typed : Bool) (ls : List LaneAt) : M (Option Nat) := do
  let k ← ctx
  if k.diffMode = .fwd then return none
  else
    let low := (ls.map LaneAt.va).headD 0
    match k.regionOfAll n (ls.map LaneAt.va) with
    | .error () => trap 0x1A low
    | .ok none => return none
    | .ok (some r) =>
      if refuse k.diffMode then trap 0x1A low
      else if typed && k.diffMode = .rev && t != (if k.esize r = 4 then .f32 else .bf16) then trap 0x1A low
      else
        for l in ls do
          if !l.p.dh then trap 0x1A l.va
        return some r

/-- R305 for each place. -/
def lanesPooled : List LaneAt → M Unit
  | [] => pure ()
  | l :: r => do
    poolOrStacks l.va l.p
    lanesPooled r

/-- R246 for the cells of the lanes: one that lies over primal data is under the rules of both (R307). -/
def lanesDh (n : Nat) : List LaneAt → M Unit
  | [] => pure ()
  | l :: r => do
    overlapDh l.va n l.p
    lanesDh n r

/-- The trace entry of R377: of the lowest active lane that leaves local memory, 128 bytes wide. -/
def traceLanes (kind : BitVec 2) (ls : List LaneAt) : M Unit :=
  match ls.find? fun l => !l.p.own with
  | some l => traceAccess kind 7 l.va l.p
  | none => pure ()

/-! ## Performing -/

/-- Reads n bytes at each place, ascending. -/
def nearLoad (n : Nat) : List LaneAt → M (List (Nat × Nat))
  | [] => return []
  | l :: r => do
    let bs ← loadAt l.va l.p n
    let xs ← nearLoad n r
    return (l.lane, natOfBytes bs) :: xs

/-- Writes n bytes at each place, ascending. -/
def nearStore (n : Nat) (v : Nat → Nat) : List LaneAt → M Unit
  | [] => pure ()
  | l :: r => do
    storeAt l.va l.p (bytesOfNat n (v l.lane))
    nearStore n v r

/-- Lanes in fabric space that follow on from one another travel as one piece of at most 512 bytes (R350); every other
lane is a piece of its own. -/
def joinLanes (n : Nat) : List LaneAt → List (List LaneAt)
  | [] => []
  | l :: r => match joinLanes n r with
    | (m :: ms) :: rest =>
      if regionOf l.p.pa == .fabric && m.p.pa == l.p.pa + n && m.va == l.va + BitVec.ofNat 64 n && m.p.strong == l.p.strong
          && decide ((ms.length + 2) * n ≤ 512) then (l :: m :: ms) :: rest
      else [l] :: (m :: ms) :: rest
    | rest => [l] :: rest

/-- Every place once, ascending: lanes that name one address read one value (R140). -/
def placesOnce (ls : List LaneAt) : List LaneAt :=
  ls.foldl (fun ps l => if ps.any (fun q => q.p.pa == l.p.pa) then ps else ps ++ [l]) []

/-- Must a piece be performed before those behind it are asked for (R257, R260)? -/
def pieceFirst (s : State) (p : Phys) (rest : List (List LaneAt)) : Bool :=
  s.goesFirst p (rest.filterMap fun g => g.head?.map LaneAt.p)

/-- What the pieces read, by physical address. -/
def loadPieces (n : Nat) : List (List LaneAt) → M (List (Nat × Nat))
  | [] => return []
  | [] :: r => loadPieces n r
  | (l :: g) :: r => do
    let s ← get
    let bs ← loadAt l.va l.p (n * (g.length + 1)) 0 (pieceFirst s l.p r)
    let xs ← loadPieces n r
    return (List.range (g.length + 1)).map (fun i => (l.p.pa + n * i, natOfBytes ((bs.drop (n * i)).take n))) ++ xs

def storePieces (n : Nat) (v : Nat → Nat) : List (List LaneAt) → M Unit
  | [] => pure ()
  | [] :: r => storePieces n v r
  | (l :: g) :: r => do
    let s ← get
    storeAt l.va l.p ((l :: g).flatMap fun x => bytesOfNat n (v x.lane)) 0 (pieceFirst s l.p r)
    storePieces n v r

/-- Does any lane lie in fabric space? -/
def anyFar (ls : List LaneAt) : Bool := ls.any fun l => regionOf l.p.pa == .fabric

/-- The lanes of a load. -/
def lanesLoad (n : Nat) (ls : List LaneAt) : M (List (Nat × Nat)) :=
  if anyFar ls then do
    let got ← loadPieces n (joinLanes n (placesOnce ls))
    return ls.filterMap fun l => (got.find? fun g => g.1 == l.p.pa).map fun g => (l.lane, g.2)
  else nearLoad n ls

/-- The lanes of a store. -/
def lanesStore (n : Nat) (v : Nat → Nat) (ls : List LaneAt) : M Unit :=
  if anyFar ls then storePieces n v (joinLanes n ls) else nearStore n v ls

/-- A vector with the lanes of a list replaced. -/
def withLanes (t : ElemType) (v : BitVec 1024) (xs : List (Nat × Nat)) : BitVec 1024 :=
  vecOf (elemWidth t) ((List.range (elemLanes t)).map fun i =>
    match xs.find? fun x => x.1 == i with
    | some x => x.2
    | none => laneOf v (elemWidth t) i)

/-- The adjoint cells of the lanes (R305): translation of every cell, then the region of each. -/
def adjCells (region : Nat) (ls : List LaneAt) : M (List LaneAt) := do
  let k ← ctx
  let cs := ls.map fun l => (l.lane, k.adj region l.va)
  let ps ← checkAll .atomic false (cs.map Prod.snd)
  let qs := (cs.zip ps).map fun x => LaneAt.mk x.1.1 x.1.2 x.2
  lanesPooled qs
  lanesDh 4 qs
  return qs

/-- FP32 value of a lane that carries an adjoint: a BF16 lane widens (R142). -/
def adjointOf (t : ElemType) (x : Nat) : Nat := if t = .bf16 then x * 2 ^ 16 else x

/-- The adds of a REV load, ascending; the cells that met an uncorrectable error (R143). -/
def addCells (t : ElemType) (v : Nat → Nat) : List LaneAt → M (List LaneAt)
  | [] => return []
  | c :: r => do
    let x ← bankAt c.va c.p .add .f32 (adjointOf t (v c.lane)) 0 true
    let bad ← addCells t v r
    return match x with
      | .failing => c :: bad
      | _ => bad

/-- REV VLD and VLDX (R142, R143). -/
def revLanes (d : BitVec 5) (t : ElemType) (region : Nat) (ls : List LaneAt) : M Unit := do
  let k ← ctx
  lanesPooled ls
  let cs ← adjCells region ls
  let bad ← addCells t (laneOf (k.readV d) (elemWidth t)) cs
  match bad with
  | c :: _ => trapKeep 0x0A c.va
  | [] => modCtx fun k => k.writeV d (withLanes t (k.readV d) (ls.map fun l => (l.lane, 0)))

/-! ## The vector tape entry (R310) -/

/-- A byte that no active lane's page covers: it is read where it translates, and free where it does not, for which
the spec gives no byte (log entry 38). -/
def looseByte (x : Word) : M Byte := do
  let s ← get
  match s.xlate s.asker .load false x with
  | .ok (p, _) =>
    if regionOf p.pa == .fabric || regionOf p.pa == .control then
      set s.drawn
      return Config.freeByte s.tick 0
    else if s.failing p.pa 1 then trap 0x0A x
    else return s.viewByte (canon p.pa)
  | .error _ =>
    set s.drawn
    return Config.freeByte s.tick 0

/-- The byte at x of an element that a TAPE store pushes: under the page of an active lane that writes the
element, where one lies on x's page. -/
def elementByte (n : Nat) (ls : List LaneAt) (e x : Word) (size : Nat) : M Byte := do
  let here := ls.filter fun l => decide (l.va.toNat < e.toNat + size) && decide (e.toNat < l.va.toNat + n)
  match here.find? fun l => l.va.toNat / 8192 == x.toNat / 8192 with
  | some l =>
    let pa := l.p.pa + x.toNat - l.va.toNat
    let s ← get
    if s.failing pa 1 then trap 0x0A x else return s.viewByte (canon pa)
  | none => looseByte x

/-- Is element i of size bytes at a written by an active lane? -/
def elementHit (n : Nat) (ls : List LaneAt) (a : Word) (size i : Nat) : Bool :=
  let e := a.toNat + i * size
  ls.any fun l => decide (l.va.toNat < e + size) && decide (e < l.va.toNat + n)

/-- MASK: bit i, element i. -/
def elementMask (n : Nat) (ls : List LaneAt) (a : Word) (size : Nat) : Nat :=
  ((List.range (128 / size)).filter (elementHit n ls a size)).foldl (fun m i => m + 2 ^ i) 0

/-- DATA: the old bytes of the elements that are written; every other byte 0. -/
def elementData (n : Nat) (ls : List LaneAt) (a : Word) (size : Nat) : List Nat → M (List Byte)
  | [] => return []
  | j :: r => do
    let b ← if elementHit n ls a size (j / size)
      then elementByte n ls (a + BitVec.ofNat 64 (j / size * size)) (a + BitVec.ofNat 64 j) size
      else pure 0
    let bs ← elementData n ls a size r
    return b :: bs

/-- TAPE VST: the entry is pushed before the store (R142, R310, R312). The spec does not order R305's check of the primal
lanes and the bounds of the tape, both in the reverse-mode place of R113: the lanes go first (log entry 83). -/
def tapeLanes (n : Nat) (region : Nat) (a : Word) (ls : List LaneAt) : M Unit := do
  let k ← ctx
  let size := k.esize region
  lanesPooled ls
  let parts ← tapePushAt a 144
  let s ← get
  if ls.any fun l => s.inStep l.p.pa n then wait
  let data ← elementData n ls a size (List.range 128)
  putSpans parts (bytesOfNat 8 (tapeAddr 2 (logOf size) a).toNat ++ bytesOfNat 8 (elementMask n ls a size) ++ data)
  modCtx fun k => { k with tapePos := k.tapePos + 144 }

/-- The read-and-clear of the cells of a REV store, ascending: what each gave, none where it failed (R144). -/
def clearCells : List LaneAt → M (List (LaneAt × Option Nat))
  | [] => return []
  | c :: r => do
    let x ← bankAt c.va c.p .swap (.int 4) 0 0 true
    let xs ← clearCells r
    return match x with
      | .done g _ => (c, some g) :: xs
      | _ => (c, none) :: xs

/-- A lane's own adjoint and the cell's, rounded to the lane's type (R142). -/
def handBack (t : ElemType) (x g : Nat) : Nat :=
  let sum := (addN .nearest (Fmt.value .fp32 (adjointOf t x)) (Fmt.value .fp32 g)).1
  (round (if t = .bf16 then .bf16 else .fp32) .nearest false 0 sum).1

/-- REV VST (R142, R144); the primal lanes are checked before the tape's bounds (log entry 83). -/
def revVst (r : BitVec 5) (t : ElemType) (region : Nat) (a : Word) (ls : List LaneAt) : M Unit := do
  let k ← ctx
  let w := elemWidth t
  let size := k.esize region
  lanesPooled ls
  let parts ← tapePopAt 144
  let e ← getSpans parts
  let mask := ls.foldl (fun m l => m + 2 ^ l.lane) 0
  guardTrap (dwordAt e 0 == tapeAddr 2 (logOf size) a && (dwordAt e 8).toNat == mask) 0x11 a
  let cs ← adjCells region ls
  let got ← clearCells cs
  let old (i : Nat) : Nat := natOfBytes ((e.drop (16 + i * size)).take size)
  lanesStore size old ls
  modCtx fun k => { k with
    tapePos := k.tapePos - 144
    v := (k.writeV r (withLanes t (k.readV r) (got.filterMap fun g => g.2.map fun x =>
      (g.1.lane, handBack t (laneOf (k.readV r) w g.1.lane) x)))).v }
  match got.find? fun g => g.2.isNone with
  | some g => trapKeep 0x0A g.1.va
  | none => pure ()

/-! ## VLD, VST, VLDX and VSTX -/

/-- Lane addresses of a contiguous form (R136). -/
def nearLanes (k : Ctx) (x : Word) (o : BitVec 4) (m : BitVec 3) (t : ElemType) : List (Nat × Word) :=
  let a := x + o.signExtend 64 * 128
  (k.activeLanes m t).map fun i => (i, a + BitVec.ofNat 64 (i * (elemWidth t / 8)))

/-- Lane addresses of an indexed form (R136): sign-extended for w of 32 only. -/
def farLanes (k : Ctx) (x : Word) (b : BitVec 5) (m : BitVec 3) (t : ElemType) : List (Nat × Word) :=
  let w := elemWidth t
  (k.activeLanes m t).map fun i =>
    let v := laneOf (k.readV b) w i
    let idx : Word := if w = 32 then (BitVec.ofNat 32 v).signExtend 64 else BitVec.ofNat 64 v
    (i, x + idx * BitVec.ofNat 64 (w / 8))

/-- Is the full/empty bit of every line that a lane touches set (R139)? -/
def linesFull (c : Core) (as : List (Nat × Word)) : Bool := as.all fun a => c.lineFull (a.2.toNat / 128)

/-- A load past its lane addresses. -/
def vecLoad (d : BitVec 5) (t : ElemType) (full : Bool) (as : List (Nat × Word)) : M Flow := do
  let n := elemWidth t / 8
  lanesAligned n as
  if full then lanesLocal as
  let ls ← lanesAt .load as
  let region ← lanesRegion n t (fun _ => false) true ls
  let s ← get
  if full && !linesFull s.core as then wait
  match s.ctx.diffMode, region with
  | .rev, some r => revLanes d t r ls
  | _, _ =>
    let xs ← lanesLoad n ls
    modCtx fun k => k.writeV d (withLanes t (k.readV d) xs)
  traceLanes 0 ls
  next

/-- A store past its lane addresses; `a` is the address of a contiguous form, which alone may be pushed. -/
def vecStore (r : BitVec 5) (t : ElemType) (full : Bool) (a : Option Word) (as : List (Nat × Word)) : M Flow := do
  let n := elemWidth t / 8
  lanesAligned n as
  if full then lanesLocal as
  let ls ← lanesAt .store as
  let region ← lanesRegion n t (fun _ => a.isNone) true ls
  let k ← ctx
  let v := laneOf (k.readV r) (elemWidth t)
  match k.diffMode, region, a with
  | .tape, some g, some a =>
    tapeLanes n g a ls
    lanesStore n v ls
  | .rev, some g, some a => revVst r t g a ls
  | _, _, _ => lanesStore n v ls
  if full then modCore fun c => as.foldl (fun c x => c.setLine (x.2.toNat / 128) true) c
  traceLanes 1 ls
  next

def execVld (d x : BitVec 5) (f : Bool) (o : BitVec 4) (m : BitVec 3) (t : ElemType) (s : State) : Host.Outcome State Fault Refusal :=
  unit (do
    let base ← src (.x x)
    let k ← ctx
    vecLoad d t f (nearLanes k base o m t)) s
def execVst (r x : BitVec 5) (f : Bool) (o : BitVec 4) (m : BitVec 3) (t : ElemType) (s : State) : Host.Outcome State Fault Refusal :=
  unit (do
    let base ← src (.x x)
    let k ← ctx
    vecStore r t f (some (base + o.signExtend 64 * 128)) (nearLanes k base o m t)) s
def execVldx (d x i : BitVec 5) (m : BitVec 3) (t : ElemType) (s : State) : Host.Outcome State Fault Refusal :=
  unit (do
    let base ← src (.x x)
    let k ← ctx
    vecLoad d t false (farLanes k base i m t)) s
/-- Ascending lanes: the highest that names an address leaves its value there (R140). -/
def execVstx (r x i : BitVec 5) (m : BitVec 3) (t : ElemType) (s : State) : Host.Outcome State Fault Refusal :=
  unit (do
    let base ← src (.x x)
    let k ← ctx
    vecStore r t false none (farLanes k base i m t)) s

/-! ## VLDBIT and VSTBIT (R141) -/

/-- Lane i's bit address. -/
def bitLane (ba : Word) (w i : Nat) : Word := ba + BitVec.ofNat 64 (w * i)

/-- The 32-bit words that the active lanes touch, in lane order. -/
def bitLanes (k : Ctx) (ba : Word) (w : Nat) (m : BitVec 3) (t : ElemType) : List (Nat × Word) :=
  (k.activeLanes m t).flatMap fun i => (bitWords (bitLane ba w i) w).map fun a => (i, a)

/-- The words of one lane, with their places. -/
def laneWords (ls : List LaneAt) (i : Nat) : List (Word × Phys) :=
  (ls.filter fun l => l.lane == i).map fun l => (l.va, l.p)

/-- Words that the lanes have read, by physical address, as one number. -/
def wordsOf (got : List (Nat × Nat)) (ws : List (Word × Phys)) : Nat :=
  ws.foldr (fun w v => ((got.find? fun g => g.1 == w.2.pa).map Prod.snd).getD 0 + 2 ^ 32 * v) 0

def execVldbit (d : BitVec 5) (p : Bool) (kn : BitVec 2) (w1 : BitVec 5) (m : BitVec 3) (t : ElemType) (s : State) : Host.Outcome State Fault Refusal :=
  unit (do
    let k ← ctx
    let ba := k.baAt kn
    let w := w1.toNat + 1
    let ls ← lanesAt .load (bitLanes k ba w m t)
    let _ ← lanesRegion 4 t (· == .rev) false ls
    let far := anyFar ls
    let got ← if far then loadPieces 4 (joinLanes 4 (placesOnce ls)) else pure []
    let r ← mapLanes k m t (k.readV d) fun i => do
      let v ← if far then pure (wordsOf got (laneWords ls i)) else loadWords (laneWords ls i)
      return v / 2 ^ ((bitLane ba w i).extractLsb' 0 5).toNat % 2 ^ w
    modCtx fun k => k.writeV d r
    if p then modCtx fun k => k.setBa kn (bitLane ba w (elemLanes t))
    traceLanes 0 ls
    next) s

/-- The fields of the active lanes, ascending; the bytes that lie in fabric space are handed on. -/
def mergeLanes (v : BitVec 1024) (t : ElemType) (ba : Word) (w : Nat) (ls : List LaneAt) : List Nat → M (List BitByte)
  | [] => return []
  | i :: r => do
    let far ← mergeWords (laneWords ls i) ((bitLane ba w i).extractLsb' 0 5).toNat w (laneOf v (elemWidth t) i % 2 ^ w)
    let rest ← mergeLanes v t ba w ls r
    return far ++ rest

def execVstbit (r : BitVec 5) (p : Bool) (kn : BitVec 2) (w1 : BitVec 5) (m : BitVec 3) (t : ElemType) (s : State) : Host.Outcome State Fault Refusal :=
  unit (do
    let k ← ctx
    let ba := k.baAt kn
    let w := w1.toNat + 1
    let ls ← lanesAt .store (bitLanes k ba w m t)
    let _ ← lanesRegion 4 t (fun _ => true) false ls
    let far ← mergeLanes (k.readV r) t ba w ls (k.activeLanes m t)
    mergeFar far
    if p then modCtx fun k => k.setBa kn (bitLane ba w (elemLanes t))
    traceLanes 1 ls
    next) s

end Sys2Proof.Machine
end

