-- ==== Sys2Proof/Machine/VecAtomic.lean ====
section
/-! DEFINITION. Vector atomics, OP 36 (R145 to R147). -/

namespace Sys2Proof.Machine

/-- The type of a lane at the bank ALU (R145). -/
def laneBank (t : ElemType) : BankType :=
  match t with
  | .bf16 => .bf16
  | .f32 => .f32
  | _ => .int (elemWidth t / 8)

/-- The checks of R137 and R142 before any lane is performed. -/
def atomicLanes (t : ElemType) (as : List (Nat × Word)) : M (List LaneAt) := do
  let n := elemWidth t / 8
  lanesAligned n as
  let ls ← lanesAt .atomic as
  let _ ← lanesRegion n t (fun _ => true) false ls
  return ls

/-- One lane within the package, in its turn. -/
def bankTurn (first : Bool) (p : Phys) (fn : BankFn) (t : BankType) (b : Nat) : M BankRes :=
  if first then do
    let v ← inTurn true (do
      match ← bankLocal p fn t b 0 with
      | .done old _ => return .data (bytesOfNat t.bytes old)
      | .refused => return .fail 0x0E
      | .failing => return .fail 0x0A
      | .failed c => return .fail c)
    return match v with
      | .data bs => BankRes.done (natOfBytes bs) true
      | .fail c => if c = 0x0E then .refused else .failing
  else bankLocal p fn t b 0

/-- The lanes of one piece at their banks. -/
def bankPiece (fn : BankFn) (t : BankType) (v : Nat → Nat) (returns first : Bool) (l : LaneAt) (g : List LaneAt) : M (List BankRes) :=
  if regionOf l.p.pa == .fabric then
    let xs := (l :: g).map fun x => v x.lane
    if returns then bankRemote l.va l.p fn t xs 0 0 first
    else do
      remotePost l.va l.p 0 (.bank fn t xs 0 false) first
      return xs.map fun _ => .done 0 true
  else do
    let r ← bankTurn first l.p fn t (v l.lane)
    return [r]

/-- What the lanes found: none where the core refused it (R285); a lane that met an uncorrectable error, which only a
reduction may (R251), gives nothing. -/
def foundBy (ls : List LaneAt) (rs : List BankRes) : List (LaneAt × Option Nat) :=
  (ls.zip rs).filterMap fun x => match x.2 with
    | .refused => some (x.1, none)
    | .done old _ => some (x.1, some old)
    | _ => none

/-- The lanes at their banks, ascending (R146). -/
def bankPieces (fn : BankFn) (t : BankType) (v : Nat → Nat) (returns : Bool) : List (List LaneAt) → M (List (LaneAt × Option Nat))
  | [] => return []
  | [] :: r => bankPieces fn t v returns r
  | (l :: g) :: r => do
    let s ← get
    let rs ← bankPiece fn t v returns (pieceFirst s l.p r) l g
    match rs.head? with
    | some (.failed c) => trap c l.va
    | _ =>
      let xs ← bankPieces fn t v returns r
      return foundBy (l :: g) rs ++ xs

/-- Each lane at its bank; lanes that follow on in fabric space travel as one packet (R350). -/
def bankLanes (fn : BankFn) (t : ElemType) (v : Nat → Nat) (returns : Bool) (ls : List LaneAt) : M (List (LaneAt × Option Nat)) :=
  bankPieces fn (laneBank t) v returns (joinLanes (elemWidth t / 8) ls)

/-- VAADD, VAOR and VAMAX. An uncorrectable error is met before any lane is performed (R137, R138). -/
def vecAtomic (d x b : BitVec 5) (m : BitVec 3) (t : ElemType) (fn : BankFn) : M Flow := do
  let base ← src (.x x)
  let k ← ctx
  let ls ← atomicLanes t (farLanes k base b m t)
  let s ← get
  match ls.find? fun l => regionOf l.p.pa != .fabric && s.failing l.p.pa (elemWidth t / 8) with
  | some l => trap 0x0A l.va
  | none => pure ()
  let got ← bankLanes fn t (laneOf (k.readV d) (elemWidth t)) true ls
  match got.find? fun g => g.2.isNone with
  | some g => trapKeep 0x0E g.1.va
  | none => pure ()
  modCtx fun k => k.writeV d (withLanes t (k.readV d) (got.filterMap fun g => g.2.map fun x => (g.1.lane, x)))
  traceLanes 2 ls
  next

def execVaadd (d x i : BitVec 5) (m : BitVec 3) (t : ElemType) (s : State) : Host.Outcome State Fault Refusal :=
  unit (vecAtomic d x i m t .add) s
def execVaor (d x i : BitVec 5) (m : BitVec 3) (t : ElemType) (s : State) : Host.Outcome State Fault Refusal :=
  unit (vecAtomic d x i m t .or) s
def execVamax (d x i : BitVec 5) (m : BitVec 3) (t : ElemType) (s : State) : Host.Outcome State Fault Refusal :=
  unit (vecAtomic d x i m t .max) s

/-- Nothing is returned; a refused lane is discarded and counted (R285). -/
def execVredadd (r x : BitVec 5) (o : BitVec 4) (m : BitVec 3) (t : ElemType) (s : State) : Host.Outcome State Fault Refusal :=
  unit (do
    let base ← src (.x x)
    let k ← ctx
    let ls ← atomicLanes t (nearLanes k base o m t)
    let got ← bankLanes .add t (laneOf (k.readV r) (elemWidth t)) false ls
    modify fun s => (got.filter fun g => g.2.isNone).foldl
      (fun s g => s.modCore (windowCore g.1.p.pa) fun c => { c with discards := c.discards + 1 }) s
    traceLanes 2 ls
    next) s

end Sys2Proof.Machine
end

