-- ==== Sys2Proof/Machine/VecMask.lean ====
section
/-! DEFINITION. Compare, select and masks, OP 32 (R127 to R129). -/

namespace Sys2Proof.Machine

/-- A condition on two lanes (R127). -/
def condHolds (c : VCond) (t : ElemType) (x y : Nat) : Bool :=
  match elemFmt t with
  | some f =>
    match c with
    | .eq => Fmt.eqv f x y
    | .ne => !Fmt.eqv f x y
    | .lt | .ltu => Fmt.ltv f x y
    | .le | .leu => Fmt.lev f x y
    | .un => Fmt.isNan f x || Fmt.isNan f y
  | none =>
    let w := elemWidth t
    match c with
    | .eq | .un => x == y
    | .ne => x != y
    | .lt => decide (laneInt w x < laneInt w y)
    | .le => decide (laneInt w x ≤ laneInt w y)
    | .ltu => decide (x < y)
    | .leu => decide (x ≤ y)

/-- A mask of the bits given, the others 0. -/
def maskFrom (bs : List Bool) : BitVec 128 := BitVec.ofNat 128 (bs.foldr (fun b acc => 2 * acc + b.toNat) 0)

/-- Every lane is compared; bits n to 127 become 0 (R127). -/
def execVcmp (c : VCond) (a b : BitVec 5) (p : BitVec 3) (t : ElemType) (s : State) : Host.Outcome State Fault Refusal :=
  unit (do
    modCtx fun k => k.writeP p (maskFrom (((lanesOf t (k.readV a)).zip (lanesOf t (k.readV b))).map fun xy => condHolds c t xy.1 xy.2))
    next) s

/-- The mask selects; every lane is written (R128). -/
def execVsel (d a b : BitVec 5) (m : BitVec 3) (t : ElemType) (s : State) : Host.Outcome State Fault Refusal :=
  unit (do
    modCtx fun k => k.writeV d (vecOf (elemWidth t) ((List.range (elemLanes t)).map fun i =>
      laneOf (k.readV (if k.isActive m i then a else b)) (elemWidth t) i))
    next) s

/-- The number of the bit that FCLASS would set (R105, R128). -/
def execVclass (d a : BitVec 5) (m : BitVec 3) (t : ElemType) (s : State) : Host.Outcome State Fault Refusal :=
  unit (laneBin d a a m t (fun _ f x _ => pure (Fmt.classBit f x)) (fun x _ => x)) s

def execMand (d a b : BitVec 3) (s : State) : Host.Outcome State Fault Refusal :=
  unit (do
    modCtx fun k => k.writeP d (k.readP a &&& k.readP b)
    next) s
def execMor (d a b : BitVec 3) (s : State) : Host.Outcome State Fault Refusal :=
  unit (do
    modCtx fun k => k.writeP d (k.readP a ||| k.readP b)
    next) s
def execMnot (d a : BitVec 3) (s : State) : Host.Outcome State Fault Refusal :=
  unit (do
    modCtx fun k => k.writeP d (~~~k.readP a)
    next) s
/-- Written as an x register (R122). -/
def execMcnt (x : BitVec 5) (a : BitVec 3) (t : ElemType) (s : State) : Host.Outcome State Fault Refusal :=
  unit (do
    let k ← ctx
    writeReg x (BitVec.ofNat 64 (k.activeLanes a t).length)
    next) s

end Sys2Proof.Machine
end

