-- ==== Sys2Proof/Machine/Xpose.lean ====
section
/-! DEFINITION. The transpose exchange, XPTAB and XPOSE of OP 46, and its rounds (R230 to R233). -/

namespace Sys2Proof.Machine

/-- XPTAB (R230). -/
def execXptab (a : Opnd) (s : State) : Host.Outcome State Fault Refusal :=
  unitWith (src a) (fun x => do
    guardTrap (x.toNat % 16 == 0) 0x03 x
    let bs ← memLoad x 16
    let ds := bs.map fun b => b.toNat % 16
    guardTrap (bs.all (fun b => b.toNat < 16) && ds.eraseDups.length == 16) 0x19 x
    let s ← get
    let cl := clusterOf s.core.id
    if (s.cluster cl).xrun != [] then wait
    set (s.setCluster cl { s.cluster cl with perm := Vector.ofFn fun i => BitVec.ofNat 4 (ds.getD i.val 0) })
    traceTable x
    next) s
where
  /-- XPTAB is no engine command: its access entry (R170). Its width is no scalar access's; INFO[5:3] holds log2 of the 16
  bytes (log entry 92). -/
  traceTable (x : Word) : M Unit := do
    let s ← get
    match s.xlate s.asker .load false x with
    | .ok (p, _) => traceAccess 0 4 x p
    | .error _ => pure ()

/-! ## Arriving (R231) -/

/-- The arrivals of a cluster: all 16 of them, in core order, or none. -/
def State.arrivals (s : State) (cl : BitVec 9) : Option (List (CoreId × Ctx × BitVec 5 × BitVec 16 × BitVec 16 × Bool)) :=
  (List.range 16).mapM fun n =>
    let id : CoreId := cl ++ BitVec.ofNat 4 n
    let k := (s.getCore id).front
    match k.progress with
    | .xpose (.xpose t _ _ f) a b .arrived => if k.life = .live then some (id, k, t, a, b, f) else none
    | _ => none

/-- The exchange is due in the first cycle in which all have arrived and no earlier one runs its rounds. -/
def State.offerExchange (s : State) (cl : BitVec 9) : State :=
  if (s.cluster cl).xrun = [] && (s.arrivals cl).isSome && !s.due.any (fun d => d.act == .transposeExchange cl) then
    s.enqueue (.transposeExchange cl) (some (max s.cycle.toNat (s.cluster cl).xfree))
  else s

/-- The lowest j with T[j] other than the own core number: its core (R231). -/
def State.firstPeer (s : State) : CoreId :=
  let perm := (s.cluster (clusterOf s.core.id)).perm
  let j := (List.range 16).find? fun j => perm.getD j 0 != coreNo s.core.id
  peerOf s.core.id (perm.getD (j.getD 0) 0)

/-- The checks of R231, in their order. -/
def xposeChecks (word : Word) (x y : Word) : M Unit := do
  guardTrap (x.toNat % 128 == 0) 0x03 x
  guardTrap (y.toNat % 128 == 0) 0x03 y
  let rs := [(x, 1024), (y, 1024)]
  match lowestOutside rs with
  | some a => trap 0x1A (BitVec.ofNat 64 a)
  | none => pure ()
  guardTrap (decide (x.toNat + 1024 ≤ y.toNat) || decide (y.toNat + 1024 ≤ x.toNat)) 0x01 word
  revCheck rs
  let s ← get
  guardTrap (s.ctx.phase != 1) 0x0E (s.firstPeer.setWidth 64)

/-- The operands, read once: an instruction that has arrived reads none. -/
def xposeOperands (a b : Opnd) : M (Word × Word) := do
  let k ← ctx
  match k.progress with
  | .xpose .. => return (0, 0)
  | _ =>
    let x ← src a
    let y ← src b
    return (x, y)

/-- The two ranges of an exchange. -/
def xposeFoot (x y : Word) : List Foot := [.va x 1024, .va y 1024]

/-- The command of an exchange that has run its rounds: its token lands as the XPOSE retires (R232). -/
def landExchange : M Unit := modify fun s =>
  match s.cmds.find? fun c => c.who == s.who && c.kind == .xpose && c.step == 1 with
  | some c => s.finish c (BitVec.ofNat 64 c.moved)
  | none => s

def execXpose (t : BitVec 5) (a b : Opnd) (f : Bool) (s : State) : Host.Outcome State Fault Refusal :=
  unitWith (xposeOperands a b) (fun (x, y) => do
    let k ← ctx
    match k.progress with
    | .xpose _ base _ .done =>
      modCtx Ctx.takeNoted
      if !f then landExchange
      traceCommand (base.setWidth 64) (if base = 0 then 0 else 2)
      next
    | .xpose .. => wait
    | _ =>
      if k.pend.getLsbD t.toNat then wait
      xposeChecks (wordOf (.xpose t a b f)) x y
      let s ← get
      if s.footBusy s.who ((xposeFoot x y).flatMap (s.footBytes s.asker)) fun _ => true then wait
      waitTaken fun s =>
        (s.mapCtx fun k => { k with
          progress := .xpose (.xpose t a b f) (x.setWidth 16) (y.setWidth 16) .arrived
          pend := k.pend ||| (1#32 <<< t.toNat) }).offerExchange (clusterOf s.core.id)) s

/-! ## The exchange (R232) -/

/-- The fragments of a core as the exchange reads them, and those that meet an error. -/
def State.fragments (s : State) (id : CoreId) (src : BitVec 16) : List Byte × BitVec 16 :=
  let pa := localPa id src.toNat
  (s.mem.readBytes pa 1024,
    BitVec.ofNat 16 (((List.range 16).filter fun j => s.failing (pa + 64 * j) 64).foldl (fun v j => v + 2 ^ j) 0))

/-- Retires the XPOSE of a core's front context, which has what it waited for; a gang's followers go with their leader. -/
def retireXpose (id : CoreId) (s : State) : Host.Outcome State Fault Refusal :=
  let c := s.getCore id
  match c.front.progress with
  | .xpose (.xpose t a b f) _ _ .done =>
    if c.front.issues && !c.front.follows && decide (c.busy ≤ s.cycle.toNat) then execXpose t a b f (s.focus id) else .next s
  | _ => .next s

/-- Retires those of a list of cores. -/
def retireXposes : List CoreId → State → Host.Outcome State Fault Refusal
  | [], s => .next s
  | id :: r, s =>
    match retireXpose id s with
    | .next s => retireXposes r s
    | o => o

/-- The exchange of a member has come to this point. -/
def Ctx.xposeAt (k : Ctx) (st : XState) : Ctx :=
  { k with progress := match k.progress with
      | .xpose i a b _ => .xpose i a b st
      | p => p }

/-- The start in cycle s: the fragments are read, and the commands are outstanding. -/
def State.startExchange (s : State) (cl : BitVec 9) (ms : List (CoreId × Ctx × BitVec 5 × BitVec 16 × BitVec 16 × Bool)) : State :=
  let members := ms.map fun (id, k, t, a, b, f) =>
    let (data, bad) := s.fragments id a
    XMember.mk ⟨id, k.self⟩ t b f data bad 0
  let s := ms.foldl (fun s (id, k, t, a, b, f) =>
    let cmd : Cmd := ⟨s.nextCmd, ⟨id, k.self⟩, t, .xpose, k.isUser, s.tenantOf id, k.diffMode, false, [], k.satBit, none,
      xposeFoot (a.setWidth 64) (b.setWidth 64), [], none, 0, 0⟩
    let s := { s with cmds := s.cmds ++ [cmd], nextCmd := s.nextCmd + 1 }
    s.modCore id fun c => { c with front := c.front.xposeAt (if f then .done else .started) }) s
  let c := s.cluster cl
  (s.setCluster cl { c with xrun := members, xperm := c.perm, round := 0 }).enqueue (.transposeExchange cl) (some (s.cycle.toNat + 2))

/-- Slot i of core c takes fragment j of core i; a slot whose fragment met an error holds free bytes. -/
def State.moveFragment (s : State) (cl : BitVec 9) (r i : Nat) : State :=
  let x := s.cluster cl
  let c := (i + r) % 16
  let j := ((List.range 16).find? fun j => (x.xperm.getD j 0).toNat == c).getD 0
  match x.xrun[i]?, x.xrun[c]? with
  | some m, some q =>
    let err := m.bad.getLsbD j
    let bytes := if err then (List.range 64).map (Config.freeByte s.tick) else (m.data.drop (64 * j)).take 64
    let s := if err then s.drawn else s
    let s := s.poke (localPa q.who.core (q.dst.toNat + 64 * i)) bytes
    let errs := if err then q.errs ||| (1#16 <<< i) else q.errs
    let other := if i % 2 = 0 then i + 1 else i - 1
    let written := decide ((c + 16 - other) % 16 ≤ r)
    let s := s.setCluster cl { s.cluster cl with xrun := (s.cluster cl).xrun.set c { q with errs := errs } }
    if q.full && written && !errs.getLsbD i && !errs.getLsbD other then
      s.modCore q.who.core fun k => k.setLine ((q.dst.toNat + 64 * i) / 128) true
    else s
  | _, _ => s

/-- One round: every core sends one fragment. After round 15 an exchange that waits starts in the cycle that follows. -/
def State.exchangeRound (s : State) (cl : BitVec 9) (cycle : Nat) : State :=
  let r := (s.cluster cl).round
  let s := (List.range 16).foldl (fun s i => s.moveFragment cl r i) s
  let c := s.cluster cl
  if r < 15 then (s.setCluster cl { c with round := r + 1 }).enqueue (.transposeExchange cl) (some (cycle + 2))
  else
    ((s.setCluster cl { c with xrun := [], round := 0, xend := c.xend ++ [c.xrun], xfree := cycle + 1 }).enqueue
      (.transposeExchangeComplete cl)).offerExchange cl

def execTransposeExchange (s : State) : Host.Outcome State Fault Refusal :=
  match s.due with
  | ⟨.transposeExchange cl, cycle⟩ :: rest =>
    let s := { s with due := rest }
    if (s.cluster cl).xrun = [] then
      match s.arrivals cl with
      | some ms => retireXposes (ms.map (·.1)) (s.startExchange cl ms)
      | none => .next s
    else .next (s.exchangeRound cl (cycle.getD s.cycle.toNat))
  | _ => .next s

/-- The exchange of a member is complete: the token of one whose XPOSE has retired lands; that of one that waits, with its
XPOSE (R232). -/
def State.endMember (s : State) (m : XMember) : State :=
  let waits : Bool := match s.ctxOf m.who with
    | some k => match k.progress with
      | .xpose _ _ _ .started => true
      | _ => false
    | none => false
  match s.cmds.find? fun c => c.who == m.who && c.kind == .xpose && c.token == m.t && c.step == 0 with
  | some c =>
    if waits then
      ({ s with cmds := s.cmds.map fun d => if d.id = c.id then { d with step := 1, moved := m.errs.toNat } else d } : State).modWho m.who
        fun k => k.xposeAt .done
    else s.finish c (m.errs.setWidth 64)
  | none => s

def execTransposeExchangeComplete (s : State) : Host.Outcome State Fault Refusal :=
  match s.due with
  | ⟨.transposeExchangeComplete cl, _⟩ :: rest =>
    let s := { s with due := rest }
    let c := s.cluster cl
    match c.xend with
    | ms :: more => retireXposes (ms.map (·.who.core)) (ms.foldl State.endMember (s.setCluster cl { c with xend := more }))
    | [] => .next s
  | _ => .next s

end Sys2Proof.Machine
end

