-- ==== Sys2Proof/Machine/Dispatch.lean ====
section
/-! DEFINITION. The meaning of every instruction and act. -/

namespace Sys2Proof.Machine

def exec (i : Instr) (s : State) : Host.Outcome State Fault Refusal :=
  match i with
  | .add d a b => Sys2Proof.Machine.execAdd d a b s
  | .sub d a b => Sys2Proof.Machine.execSub d a b s
  | .and d a b => Sys2Proof.Machine.execAnd d a b s
  | .or d a b => Sys2Proof.Machine.execOr d a b s
  | .xor d a b => Sys2Proof.Machine.execXor d a b s
  | .andn d a b => Sys2Proof.Machine.execAndn d a b s
  | .sll d a b => Sys2Proof.Machine.execSll d a b s
  | .srl d a b => Sys2Proof.Machine.execSrl d a b s
  | .sra d a b => Sys2Proof.Machine.execSra d a b s
  | .rol d a b => Sys2Proof.Machine.execRol d a b s
  | .mul d a b => Sys2Proof.Machine.execMul d a b s
  | .mulh d a b => Sys2Proof.Machine.execMulh d a b s
  | .mulhu d a b => Sys2Proof.Machine.execMulhu d a b s
  | .div d a b => Sys2Proof.Machine.execDiv d a b s
  | .divu d a b => Sys2Proof.Machine.execDivu d a b s
  | .rem d a b => Sys2Proof.Machine.execRem d a b s
  | .remu d a b => Sys2Proof.Machine.execRemu d a b s
  | .min d a b => Sys2Proof.Machine.execMin d a b s
  | .max d a b => Sys2Proof.Machine.execMax d a b s
  | .minu d a b => Sys2Proof.Machine.execMinu d a b s
  | .maxu d a b => Sys2Proof.Machine.execMaxu d a b s
  | .slt d a b => Sys2Proof.Machine.execSlt d a b s
  | .sltu d a b => Sys2Proof.Machine.execSltu d a b s
  | .seq d a b => Sys2Proof.Machine.execSeq d a b s
  | .clz d a => Sys2Proof.Machine.execClz d a s
  | .ctz d a => Sys2Proof.Machine.execCtz d a s
  | .popc d a => Sys2Proof.Machine.execPopc d a s
  | .bfx d a b => Sys2Proof.Machine.execBfx d a b s
  | .bfi d a b => Sys2Proof.Machine.execBfi d a b s
  | .addi d a imm => Sys2Proof.Machine.execAddi d a imm s
  | .andi d a imm => Sys2Proof.Machine.execAndi d a imm s
  | .ori d a imm => Sys2Proof.Machine.execOri d a imm s
  | .xori d a imm => Sys2Proof.Machine.execXori d a imm s
  | .slti d a imm => Sys2Proof.Machine.execSlti d a imm s
  | .sltiu d a imm => Sys2Proof.Machine.execSltiu d a imm s
  | .slli d a n => Sys2Proof.Machine.execSlli d a n s
  | .srli d a n => Sys2Proof.Machine.execSrli d a n s
  | .srai d a n => Sys2Proof.Machine.execSrai d a n s
  | .roli d a n => Sys2Proof.Machine.execRoli d a n s
  | .lui d imm => Sys2Proof.Machine.execLui d imm s
  | .auipc d imm => Sys2Proof.Machine.execAuipc d imm s
  | .fadd d a b => Sys2Proof.Machine.execFadd d a b s
  | .fsub d a b => Sys2Proof.Machine.execFsub d a b s
  | .fmul d a b => Sys2Proof.Machine.execFmul d a b s
  | .fma d a b => Sys2Proof.Machine.execFma d a b s
  | .fdiv d a b => Sys2Proof.Machine.execFdiv d a b s
  | .fsqrt d a => Sys2Proof.Machine.execFsqrt d a s
  | .fmin d a b => Sys2Proof.Machine.execFmin d a b s
  | .fmax d a b => Sys2Proof.Machine.execFmax d a b s
  | .feq d a b => Sys2Proof.Machine.execFeq d a b s
  | .flt d a b => Sys2Proof.Machine.execFlt d a b s
  | .fle d a b => Sys2Proof.Machine.execFle d a b s
  | .fclass d a => Sys2Proof.Machine.execFclass d a s
  | .fcvt d a c => Sys2Proof.Machine.execFcvt d a c s
  | .beq a b off => Sys2Proof.Machine.execBeq a b off s
  | .bne a b off => Sys2Proof.Machine.execBne a b off s
  | .blt a b off => Sys2Proof.Machine.execBlt a b off s
  | .bge a b off => Sys2Proof.Machine.execBge a b off s
  | .bltu a b off => Sys2Proof.Machine.execBltu a b off s
  | .bgeu a b off => Sys2Proof.Machine.execBgeu a b off s
  | .jal d off => Sys2Proof.Machine.execJal d off s
  | .jalr d a imm => Sys2Proof.Machine.execJalr d a imm s
  | .loop k a off => Sys2Proof.Machine.execLoop k a off s
  | .loopi k n off => Sys2Proof.Machine.execLoopi k n off s
  | .ld d b w imm => Sys2Proof.Machine.execLd d b w imm s
  | .st sr b w imm => Sys2Proof.Machine.execSt sr b w imm s
  | .lda d a w sc => Sys2Proof.Machine.execLda d a w sc s
  | .stl sr a w sc => Sys2Proof.Machine.execStl sr a w sc s
  | .ldbit d k w p => Sys2Proof.Machine.execLdbit d k w p s
  | .stbit sr k w p => Sys2Proof.Machine.execStbit sr k w p s
  | .baset k a b => Sys2Proof.Machine.execBaset k a b s
  | .aadd d a b o => Sys2Proof.Machine.execAadd d a b o s
  | .amin d a b o => Sys2Proof.Machine.execAmin d a b o s
  | .amax d a b o => Sys2Proof.Machine.execAmax d a b o s
  | .aand d a b o => Sys2Proof.Machine.execAand d a b o s
  | .aor d a b o => Sys2Proof.Machine.execAor d a b o s
  | .axor d a b o => Sys2Proof.Machine.execAxor d a b o s
  | .aswp d a b o => Sys2Proof.Machine.execAswp d a b o s
  | .acas d a b o => Sys2Proof.Machine.execAcas d a b o s
  | .abadd d a b o => Sys2Proof.Machine.execAbadd d a b o s
  | .redadd t a b o => Sys2Proof.Machine.execRedadd t a b o s
  | .redmin t a b o => Sys2Proof.Machine.execRedmin t a b o s
  | .redmax t a b o => Sys2Proof.Machine.execRedmax t a b o s
  | .fence e sc k => Sys2Proof.Machine.execFence e sc k s
  | .rwlr d a => Sys2Proof.Machine.execRwlr d a s
  | .rwlw d a => Sys2Proof.Machine.execRwlw d a s
  | .rwur d a => Sys2Proof.Machine.execRwur d a s
  | .rwuw d a => Sys2Proof.Machine.execRwuw d a s
  | .sysr d n => Sys2Proof.Machine.execSysr d n s
  | .sysw sr n => Sys2Proof.Machine.execSysw sr n s
  | .controlRegisterWrite n v => Sys2Proof.Machine.execControlRegisterWrite n v s
  | .ecall c => Sys2Proof.Machine.execEcall c s
  | .eret => Sys2Proof.Machine.execEret s
  | .yield => Sys2Proof.Machine.execYield s
  | .halt => Sys2Proof.Machine.execHalt s
  | .brk c => Sys2Proof.Machine.execBrk c s
  | .send a b => Sys2Proof.Machine.execSend a b s
  | .sendm a b f => Sys2Proof.Machine.execSendm a b f s
  | .launch a => Sys2Proof.Machine.execLaunch a s
  | .wait d k b => Sys2Proof.Machine.execWait d k b s
  | .waitany d a b => Sys2Proof.Machine.execWaitany d a b s
  | .ctrset k a b => Sys2Proof.Machine.execCtrset k a b s
  | .ctradd k a => Sys2Proof.Machine.execCtradd k a s
  | .copy t a b f => Sys2Proof.Machine.execCopy t a b f s
  | .copy2d t a b f => Sys2Proof.Machine.execCopy2d t a b f s
  | .gather t a b f => Sys2Proof.Machine.execGather t a b f s
  | .scatter t a b => Sys2Proof.Machine.execScatter t a b s
  | .rset h a b => Sys2Proof.Machine.execRset h a b s
  | .radvp h b => Sys2Proof.Machine.execRadvp h b s
  | .radvc h b => Sys2Proof.Machine.execRadvc h b s
  | .rfill d h b w => Sys2Proof.Machine.execRfill d h b w s
  | .lfull a b => Sys2Proof.Machine.execLfull a b s
  | .lempty a b => Sys2Proof.Machine.execLempty a b s
  | .ltest d a => Sys2Proof.Machine.execLtest d a s
  | .vadd d a b m t => Sys2Proof.Machine.execVadd d a b m t s
  | .vsub d a b m t => Sys2Proof.Machine.execVsub d a b m t s
  | .vmul d a b m t => Sys2Proof.Machine.execVmul d a b m t s
  | .vfma d a b m t => Sys2Proof.Machine.execVfma d a b m t s
  | .vmin d a b m t => Sys2Proof.Machine.execVmin d a b m t s
  | .vmax d a b m t => Sys2Proof.Machine.execVmax d a b m t s
  | .vabs d a m t => Sys2Proof.Machine.execVabs d a m t s
  | .vneg d a m t => Sys2Proof.Machine.execVneg d a m t s
  | .vand d a b m t => Sys2Proof.Machine.execVand d a b m t s
  | .vor d a b m t => Sys2Proof.Machine.execVor d a b m t s
  | .vxor d a b m t => Sys2Proof.Machine.execVxor d a b m t s
  | .vnot d a m t => Sys2Proof.Machine.execVnot d a m t s
  | .vsll d a b m t => Sys2Proof.Machine.execVsll d a b m t s
  | .vsrl d a b m t => Sys2Proof.Machine.execVsrl d a b m t s
  | .vsra d a b m t => Sys2Proof.Machine.execVsra d a b m t s
  | .vpopc d a m t => Sys2Proof.Machine.execVpopc d a m t s
  | .vcmp c a b p t => Sys2Proof.Machine.execVcmp c a b p t s
  | .vsel d a b m t => Sys2Proof.Machine.execVsel d a b m t s
  | .vclass d a m t => Sys2Proof.Machine.execVclass d a m t s
  | .mand d a b => Sys2Proof.Machine.execMand d a b s
  | .mor d a b => Sys2Proof.Machine.execMor d a b s
  | .mnot d a => Sys2Proof.Machine.execMnot d a s
  | .mcnt x a t => Sys2Proof.Machine.execMcnt x a t s
  | .vcvt d a p sty m t => Sys2Proof.Machine.execVcvt d a p sty m t s
  | .vrsum d a m t => Sys2Proof.Machine.execVrsum d a m t s
  | .vrmax d a m t => Sys2Proof.Machine.execVrmax d a m t s
  | .vrmin d a m t => Sys2Proof.Machine.execVrmin d a m t s
  | .vscan d a m t => Sys2Proof.Machine.execVscan d a m t s
  | .vperm d a b m t => Sys2Proof.Machine.execVperm d a b m t s
  | .vbcast d x m t => Sys2Proof.Machine.execVbcast d x m t s
  | .vext x a l g t => Sys2Proof.Machine.execVext x a l g t s
  | .viota d p t => Sys2Proof.Machine.execViota d p t s
  | .vtopk d a k m t => Sys2Proof.Machine.execVtopk d a k m t s
  | .vexp2 d a m t => Sys2Proof.Machine.execVexp2 d a m t s
  | .vrcp d a m t => Sys2Proof.Machine.execVrcp d a m t s
  | .vrsq d a m t => Sys2Proof.Machine.execVrsq d a m t s
  | .vlog2 d a m t => Sys2Proof.Machine.execVlog2 d a m t s
  | .vld d x f o m t => Sys2Proof.Machine.execVld d x f o m t s
  | .vst sr x f o m t => Sys2Proof.Machine.execVst sr x f o m t s
  | .vldx d x ix m t => Sys2Proof.Machine.execVldx d x ix m t s
  | .vstx sr x ix m t => Sys2Proof.Machine.execVstx sr x ix m t s
  | .vldbit d p k w m t => Sys2Proof.Machine.execVldbit d p k w m t s
  | .vstbit sr p k w m t => Sys2Proof.Machine.execVstbit sr p k w m t s
  | .vaadd d x ix m t => Sys2Proof.Machine.execVaadd d x ix m t s
  | .vaor d x ix m t => Sys2Proof.Machine.execVaor d x ix m t s
  | .vamax d x ix m t => Sys2Proof.Machine.execVamax d x ix m t s
  | .vredadd sr x o m t => Sys2Proof.Machine.execVredadd sr x o m t s
  | .mldw a w n => Sys2Proof.Machine.execMldw a w n s
  | .mm t a w k f => Sys2Proof.Machine.execMm t a w k f s
  | .mms t a w k f n => Sys2Proof.Machine.execMms t a w k f n s
  | .mmg t a w k f v => Sys2Proof.Machine.execMmg t a w k f v s
  | .mzero d => Sys2Proof.Machine.execMzero d s
  | .mld d a b f => Sys2Proof.Machine.execMld d a b f s
  | .mst sr v a b f g => Sys2Proof.Machine.execMst sr v a b f g s
  | .mmov d a => Sys2Proof.Machine.execMmov d a s
  | .madd d a b ix => Sys2Proof.Machine.execMadd d a b ix s
  | .mscale d a x y => Sys2Proof.Machine.execMscale d a x y s
  | .mcb a => Sys2Proof.Machine.execMcb a s
  | .mxpose d a b h => Sys2Proof.Machine.execMxpose d a b h s
  | .bts a m sr off => Sys2Proof.Machine.execBts a m sr off s
  | .gang d a => Sys2Proof.Machine.execGang d a s
  | .gjoin d a => Sys2Proof.Machine.execGjoin d a s
  | .gleave a => Sys2Proof.Machine.execGleave a s
  | .grejoin d a => Sys2Proof.Machine.execGrejoin d a s
  | .xptab a => Sys2Proof.Machine.execXptab a s
  | .xpose t a b f => Sys2Proof.Machine.execXpose t a b f s
  | .hreg d a b => Sys2Proof.Machine.execHreg d a b s
  | .hdrop a => Sys2Proof.Machine.execHdrop a s
  | .harr d a => Sys2Proof.Machine.execHarr d a s
  | .hwait d a b => Sys2Proof.Machine.execHwait d a b s
  | .hsync d a => Sys2Proof.Machine.execHsync d a s
  | .hdarr d a => Sys2Proof.Machine.execHdarr d a s
  | .xtab a b => Sys2Proof.Machine.execXtab a b s
  | .xsend a => Sys2Proof.Machine.execXsend a s
  | .sstep d a e => Sys2Proof.Machine.execSstep d a e s
  | .stdecl d a => Sys2Proof.Machine.execStdecl d a s
  | .stdeclFree a => Sys2Proof.Machine.execStdeclFree a s
  | .tspawn d a => Sys2Proof.Machine.execTspawn d a s
  | .tret => Sys2Proof.Machine.execTret s
  | .tabort => Sys2Proof.Machine.execTabort s
  | .dmode d m => Sys2Proof.Machine.execDmode d m s
  | .dregset j a b => Sys2Proof.Machine.execDregset j a b s
  | .ldadj d a => Sys2Proof.Machine.execLdadj d a s
  | .stadj sr a => Sys2Proof.Machine.execStadj sr a s
  | .accadj sr a o => Sys2Proof.Machine.execAccadj sr a o s
  | .updt t a => Sys2Proof.Machine.execUpdt t a s
  | .fmt t a => Sys2Proof.Machine.execFmt t a s
  | .rkload t a b => Sys2Proof.Machine.execRkload t a b s
  | .rkrun t a => Sys2Proof.Machine.execRkrun t a s
  | .rkstat d a c => Sys2Proof.Machine.execRkstat d a c s
  | .smode t a => Sys2Proof.Machine.execSmode t a s
  | .sHalt => Sys2Proof.Machine.execSHalt s
  | .sSend a d k l => Sys2Proof.Machine.execSSend a d k l s
  | .sRecv a d k l => Sys2Proof.Machine.execSRecv a d k l s
  | .sRrs a d k t f l => Sys2Proof.Machine.execSRrs a d k t f l s
  | .sRred a d k t f l => Sys2Proof.Machine.execSRred a d k t f l s
  | .sCopy a sr l => Sys2Proof.Machine.execSCopy a sr l s
  | .sWaitPeer d k => Sys2Proof.Machine.execSWaitPeer d k s
  | .sWaitCounter n t => Sys2Proof.Machine.execSWaitCounter n t s
  | .sLoop v e c => Sys2Proof.Machine.execSLoop v e c s
  | .sEndl v => Sys2Proof.Machine.execSEndl v s
  | .sSeta a ix => Sys2Proof.Machine.execSSeta a ix s
  | .sAdda a ix => Sys2Proof.Machine.execSAdda a ix s
  | .sBop g d x y z r => Sys2Proof.Machine.execSBop g d x y z r s
  | .sBsadd d x y w => Sys2Proof.Machine.execSBsadd d x y w s
  | .sBssub d x y w => Sys2Proof.Machine.execSBssub d x y w s
  | .sBsmul d x y w => Sys2Proof.Machine.execSBsmul d x y w s
  | .sMcast a l => Sys2Proof.Machine.execSMcast a l s
  | .sSignal c n => Sys2Proof.Machine.execSSignal c n s
  | .coll t a => Sys2Proof.Machine.execColl t a s
  | .dombar d a => Sys2Proof.Machine.execDombar d a s
  | .fstat d a => Sys2Proof.Machine.execFstat d a s
  | .hintImm p => Sys2Proof.Machine.execHintImm p s
  | .hintSched b r => Sys2Proof.Machine.execHintSched b r s
  | .hintMod m sr p c => Sys2Proof.Machine.execHintMod m sr p c s
  | .illegalInstruction w reserved => Sys2Proof.Machine.execIllegalInstruction w reserved s
  | .lockRepresentation => Sys2Proof.Machine.execLockRepresentation s
  | .hardwareDump => Sys2Proof.Machine.execHardwareDump s
  | .messageArrival => Sys2Proof.Machine.execMessageArrival s
  | .launchArrival => Sys2Proof.Machine.execLaunchArrival s
  | .launchQueueStart => Sys2Proof.Machine.execLaunchQueueStart s
  | .rxwatchExpiry => Sys2Proof.Machine.execRxwatchExpiry s
  | .probe => Sys2Proof.Machine.execProbe s
  | .verdict => Sys2Proof.Machine.execVerdict s
  | .swapCountdownExpiry => Sys2Proof.Machine.execSwapCountdownExpiry s
  | .spill => Sys2Proof.Machine.execSpill s
  | .fill => Sys2Proof.Machine.execFill s
  | .fillComplete => Sys2Proof.Machine.execFillComplete s
  | .copyComplete => Sys2Proof.Machine.execCopyComplete s
  | .channelWordArrival => Sys2Proof.Machine.execChannelWordArrival s
  | .transposeExchange => Sys2Proof.Machine.execTransposeExchange s
  | .transposeExchangeComplete => Sys2Proof.Machine.execTransposeExchangeComplete s
  | .huddleRelease => Sys2Proof.Machine.execHuddleRelease s
  | .xsendArrival => Sys2Proof.Machine.execXsendArrival s
  | .taskCommit => Sys2Proof.Machine.execTaskCommit s
  | .taskPlacement => Sys2Proof.Machine.execTaskPlacement s
  | .coreAssignment => Sys2Proof.Machine.execCoreAssignment s
  | .expertFillComplete => Sys2Proof.Machine.execExpertFillComplete s
  | .streamSliceArrival => Sys2Proof.Machine.execStreamSliceArrival s
  | .expertDrained => Sys2Proof.Machine.execExpertDrained s
  | .evict => Sys2Proof.Machine.execEvict s
  | .trel => Sys2Proof.Machine.execTrel s
  | .stat => Sys2Proof.Machine.execStat s
  | .rcfg => Sys2Proof.Machine.execRcfg s
  | .route => Sys2Proof.Machine.execRoute s
  | .flush => Sys2Proof.Machine.execFlush s
  | .rrel => Sys2Proof.Machine.execRrel s
  | .rfault => Sys2Proof.Machine.execRfault s
  | .routingRelease => Sys2Proof.Machine.execRoutingRelease s
  | .updtComplete => Sys2Proof.Machine.execUpdtComplete s
  | .fmtComplete => Sys2Proof.Machine.execFmtComplete s
  | .rkloadComplete => Sys2Proof.Machine.execRkloadComplete s
  | .rankProgramComplete => Sys2Proof.Machine.execRankProgramComplete s
  | .modeSwitchComplete => Sys2Proof.Machine.execModeSwitchComplete s
  | .switchDeadline => Sys2Proof.Machine.execSwitchDeadline s
  | .actcfg => Sys2Proof.Machine.execActcfg s
  | .scadd => Sys2Proof.Machine.execScadd s
  | .activationAlert => Sys2Proof.Machine.execActivationAlert s
  | .alertWindowStart => Sys2Proof.Machine.execAlertWindowStart s
  | .stepBoundary => Sys2Proof.Machine.execStepBoundary s
  | .peerTimeout => Sys2Proof.Machine.execPeerTimeout s
  | .collComplete => Sys2Proof.Machine.execCollComplete s
  | .rsend => Sys2Proof.Machine.execRsend s
  | .rlaunch => Sys2Proof.Machine.execRlaunch s
  | .rwin => Sys2Proof.Machine.execRwin s
  | .dkgrant => Sys2Proof.Machine.execDkgrant s
  | .readRequest => Sys2Proof.Machine.execReadRequest s
  | .readResponse => Sys2Proof.Machine.execReadResponse s
  | .write => Sys2Proof.Machine.execWrite s
  | .writeAcknowledgement => Sys2Proof.Machine.execWriteAcknowledgement s
  | .atomic => Sys2Proof.Machine.execAtomic s
  | .atomicResponse => Sys2Proof.Machine.execAtomicResponse s
  | .reduction => Sys2Proof.Machine.execReduction s
  | .message => Sys2Proof.Machine.execMessage s
  | .launchPacket => Sys2Proof.Machine.execLaunchPacket s
  | .collectiveFragment => Sys2Proof.Machine.execCollectiveFragment s
  | .collectiveControl => Sys2Proof.Machine.execCollectiveControl s
  | .failureResponse => Sys2Proof.Machine.execFailureResponse s
  | .hostRequest => Sys2Proof.Machine.execHostRequest s
  | .spdm => Sys2Proof.Machine.execSpdm s
  | .fabricTimeout => Sys2Proof.Machine.execFabricTimeout s
  | .membershipChange => Sys2Proof.Machine.execMembershipChange s
  | .generationAnnounce => Sys2Proof.Machine.execGenerationAnnounce s
  | .domainDeadline => Sys2Proof.Machine.execDomainDeadline s
  | .xinv => Sys2Proof.Machine.execXinv s
  | .invalidationComplete => Sys2Proof.Machine.execInvalidationComplete s
  | .powerStateEntry => Sys2Proof.Machine.execPowerStateEntry s
  | .wake => Sys2Proof.Machine.execWake s
  | .packageReset => Sys2Proof.Machine.execPackageReset s
  | .invalidStep => Sys2Proof.Machine.execInvalidStep s
  | .spillComplete => Sys2Proof.Machine.execSpillComplete s
  | .rwinComplete => Sys2Proof.Machine.execRwinComplete s
  | .dumpKeyRelease => Sys2Proof.Machine.execDumpKeyRelease s

end Sys2Proof.Machine
end

