-- ==== Sys2Proof/Machine/Turns.lean ====
section
/-! DEFINITION. Which agent acts next, and what it runs: a strand's next word (R39, R48, R58), an act that is due,
or a step word (R330). The order of agents is free (R3, log entry 1) but for what the spec fixes: times that
expire, exchange slots (R284), and queues that keep their order. -/

namespace Sys2Proof.Machine

/-! ## Fetch (R39, R238, R247) -/

/-- The front context's next word; one in another package's memory is asked for as a load is (R350). -/
def fetch : M (BitVec 32) := do
  let k ← ctx
  match ← checkAll .fetch false [k.iaddr] with
  | [p] => match ← loadAt k.iaddr p 4 with
    | [b0, b1, b2, b3] => return wordOfBytes b0 b1 b2 b3
    | _ => return 0
  | _ => return 0

/-! ## The order of acts -/

/-- A queue that its acts leave in the order they entered it: the commands of a strand on a port (R162), those of a
core to the fabric engine (R354), those of a die's routing core (R300), a channel (R164), the packets of a member and virtual
channel (R362), the host requests through one service core (R364), and an SPDM session (R361). -/
inductive Lane where
  | port (q : Nat) (w : Who)
  | fabric (core : CoreId)
  | routing (die : BitVec 2)
  | chan (src : Who) (port : BitVec 3)
  | packets (pair : Nat)
  | host (quadrant : BitVec 4)
  | spdm (peer : SpdmPeer)
  deriving DecidableEq, Repr, Inhabited

/-- The packet that an act carries. -/
def Act.packet? : Act → Option Packet
  | .readRequest p | .readResponse p | .write p | .writeAcknowledgement p | .atomic p | .atomicResponse p | .reduction p
  | .message p | .launchPacket p | .collectiveFragment p | .collectiveControl p | .failureResponse p => some p
  | _ => none

def Act.lane : Act → Option Lane
  | .actcfg w _ | .scadd w _ => some (.port 0 w)
  | .evict w _ | .trel w _ | .stat w _ => some (.port 1 w)
  | .rcfg w _ | .route w _ | .flush w _ | .rrel w _ | .rfault w _ => some (.routing (dieOf w.core))
  | .rsend w _ | .rlaunch w _ | .rwin w _ | .dkgrant w _ => some (.fabric w.core)
  | .channelWordArrival src port _ _ _ => some (.chan src port)
  | .hostRequest p _ => some (.host p.win)
  | .spdm peer _ => some (.spdm peer)
  | a => a.packet?.map fun p => .packets p.pairOf

/-- Is the act at index n of those due the first of its queue? -/
def firstOfLane (due : List Due) (n : Nat) (a : Act) : Bool :=
  match a.lane with
  | none => true
  | some l => !(due.take n).any fun d => d.act.lane == some l

/-- The unit that an arrival is addressed to, which it wakes (R366). -/
def Act.wakes : Act → Option PowerUnit
  | .messageArrival _ dst | .launchArrival _ dst | .channelWordArrival _ _ dst _ _ | .xsendArrival _ dst _ _ => some (.core dst)
  | .taskPlacement _ _ core => some (.core core)
  | .message p | .launchPacket p => some (.core p.core)
  | .readRequest p | .write p | .atomic p | .reduction p => some (if p.offset < 2 ^ 40 then .stackMem else .die (BitVec.ofNat 2 (p.offset % 2 ^ 40 / 2 ^ 27)))
  | .readResponse _ | .writeAcknowledgement _ | .atomicResponse _ | .collectiveFragment _ | .collectiveControl _
  | .failureResponse _ => some .package
  | .hostRequest _ op => some (match op with
    | .launch r => .core r.target
    | .read _ pa _ | .write _ pa _ => match regionOf pa.toNat with
      | .stackMem | .rank => .stackMem
      | .pool => .die (BitVec.ofNat 2 (offsetOf pa.toNat / 2 ^ 27))
      | .window => .core (windowCore pa.toNat)
      | _ => .package
    | _ => .package)
  | _ => none

/-! ## Agents -/

/-- Who may act: a core's front context, an act that is due (by its place), what runs step words. -/
inductive Agent where
  | strand (id : CoreId)
  | act (n : Nat)
  | steps (u : StepUnit)
  deriving DecidableEq, Repr, Inhabited

/-- Every core that is listed. -/
def State.cores (s : State) : List CoreId := s.core.id :: s.others.map fun c => BitVec.ofNat 13 c.1

/-- May a core's front context take its next unit: live, not during a swap's 16 cycles (R148), and no attached follower
(R223)? -/
def Core.runs (c : Core) (now : Nat) : Bool := c.front.issues && !c.front.follows && decide (c.busy ≤ now)

/-- The cycle of the exchange slot that a core's front context waits for (R284); a follower goes with its leader. -/
def Core.slotAt (c : Core) : Option Nat :=
  match c.front.progress with
  | .slot t => if c.front.issues && !c.front.follows then some t else none
  | _ => none

/-- Is it the turn of the command that a program runs for (R268)? -/
def State.runTurn (s : State) (id : Nat) : Bool :=
  match s.cmd? id with
  | some c => s.cmdTurn c
  | none => true

/-- The contexts that run step words (R330): those of ranks in RANK mode only (R329), and each once it is its command's turn
(R268). -/
def State.stepUnits (s : State) : List StepUnit :=
  let live (k : StepCtx) : Bool := k.state.isLive && !k.advance
  let rankRuns (n : Nat) (k : StepCtx) : Bool := live k && (s.stack (n / 1024)).mode && (match k.run with
    | some id => s.runTurn id
    | none => true)
  (s.ranks.filter fun r => rankRuns r.1 r.2).map (fun r => .rank (BitVec.ofNat 14 r.1))
    ++ (s.fabric.colls.filter fun c => live c.2.cx && s.runTurn c.2.cmd).map fun c => .coll (BitVec.ofNat 4 c.1)

/-- The acts that may be carried out: those bound to no time, each the first of its queue. -/
def State.openActs (s : State) : List Nat :=
  (List.range s.due.length).filter fun n =>
    match s.due[n]? with
    | some d => d.cycle.isNone && firstOfLane s.due n d.act
    | none => false

def State.agents (s : State) : List Agent :=
  (s.cores.filter fun id => (s.getCore id).runs s.cycle.toNat).map Agent.strand
    ++ s.openActs.map Agent.act ++ s.stepUnits.map Agent.steps

/-- The act whose time has come, the earliest first. -/
def State.expired (s : State) : Option Nat :=
  (List.range s.due.length).foldl (fun best n =>
    match s.due[n]? with
    | some ⟨_, some t⟩ =>
      if s.cycle.toNat < t then best
      else match best with
        | some (b, u) => if t < u then some (n, t) else some (b, u)
        | none => some (n, t)
    | _ => best) (none : Option (Nat × Nat)) |>.map Prod.fst

/-- The strand whose exchange slot has come. -/
def State.inSlot (s : State) : Option CoreId :=
  s.cores.find? fun id => match (s.getCore id).slotAt with
    | some t => t == s.cycle.toNat && (s.getCore id).runs s.cycle.toNat
    | none => false

/-- The agent that acts, and the state with the choice drawn where there is one; none where all are idle. -/
def State.choose (s : State) : Option Agent × State :=
  match s.expired, s.inSlot with
  | some n, _ => (some (.act n), s)
  | none, some id => (some (.strand id), s)
  | none, none => match s.agents with
    | [] => (none, s)
    | [a] => (some a, s)
    | a :: as => (some ((a :: as).getD (Config.pick s.tick % (as.length + 1)) a), s.drawn)

/-! ## What an agent runs -/

/-- A turn: an instruction or an act, the state as the turn found it, and the state it runs on; or an outcome without
one. -/
inductive Turn where
  | run (i : Instr) (found s : State)
  | done (o : Host.Outcome State Fault Refusal)

/-- The act at a place comes into hand; one addressed to a sleeping unit is held until the unit is awake (R366). -/
def State.actTurn (s : State) (n : Nat) : Turn :=
  match s.due[n]? with
  | none => .done (.next s)
  | some d =>
    match d.act.wakes with
    | some u =>
      if s.sleeps u then .run .wake s { s with due := ⟨.wake u, none⟩ :: s.due }
      else .run d.act.instr s { s with due := d :: s.due.eraseIdx n }
    | none => .run d.act.instr s { s with due := d :: s.due.eraseIdx n }

def mapNext (f : State → State) : Host.Outcome State Fault Refusal → Host.Outcome State Fault Refusal
  | .next s => .next (f s)
  | .fault r => .fault r
  | .refused r => .refused r

/-- Is a forced swap of the core due, for a context that still asks for it (R213)? -/
def Core.swapNow (c : Core) : Bool := c.swapDue.pending && c.requested

/-- A unit starts in the cycle in which the countdown expired: it goes first (R213). -/
def Core.unitFirst (c : Core) (now : Nat) : Bool := c.swapDue == .since now

/-- A trap taken at the boundary at which a swap is due is entered first, and the swap follows at the next (R213). -/
def afterTrap (found s : State) : State :=
  if s.core.id == found.core.id && s.core.swapNow && s.ctx.trapBit && !found.ctx.trapBit then
    s.mapFocus fun c => { c with swapDue := .now }
  else s

/-- Is the word a hint? -/
def isHintWord : Instr → Bool
  | .hintImm .. | .hintSched .. | .hintMod .. => true
  | _ => false

/-- The next word of the core in focus, decoded: what it runs (R48, R49, R57, R58). -/
def strandTurn (s : State) : Turn :=
  match fetch s with
  | .error _ => .done (mapNext (afterTrap s) (unit (do
      let _ ← fetch
      next) s))
  | .ok (w, s1) =>
    match decode w with
    | .error e => .run (.illegalInstruction w (e == .reserved)) s s1
    | .ok i =>
      if isHintWord i then .run i s s1
      else match s1.ctx.hintMisuse i with
        | some h => .done (mapNext (afterTrap s) (unit (trap 0x01 (h.setWidth 64)) s1))
        | none => .run i s s1

/-- The next unit of a core; a forced swap takes place between units. -/
def State.coreTurn (s : State) (id : CoreId) : Turn :=
  let s := s.focus id
  if s.core.swapNow && !s.core.unitFirst s.cycle.toNat && s.ctx.hints == [] then .done (.next (s.forceSwap id)) else strandTurn s

/-- The word at SPC of a context that runs step words (R330, R357). -/
def State.stepWord (s : State) (u : StepUnit) : BitVec 32 :=
  match u with
  | .rank id => (s.sequencer (seqOf id.toNat)).store.get (s.rank id.toNat).spc 0
  | .coll n => match s.fabric.colls.find? n.toNat with
    | some c => c.store.getD c.cx.spc 0
    | none => 0

def State.stepTurn (s : State) (u : StepUnit) : Turn :=
  match decodeStep (s.stepWord u) with
  | some i => .run i s { s with unit := some u }
  | none => .run .invalidStep s { s with due := ⟨.invalidStep u (s.stepWord u), none⟩ :: s.due }

/-- The place of a package reset among the acts due. -/
def State.resetDue (s : State) : Option Nat :=
  s.due.findIdx? fun d => match d.act with
    | .packageReset .. => true
    | _ => false

/-! ## The orders within a cycle -/

/-- The place of a turn among the updates of one cycle, where the spec orders them: of a line (R156), of a counter (R205), of an
expert (R299), of a permutation table (R230). What waits on a line or a counter comes after its updates. 0 where the spec orders
a turn with none (log entry 88). -/
def orderOf (i : Instr) (id : CoreId) : Nat :=
  match i with
  | .ctrset .. | .lempty .. | .lfull .. | .evict => 1
  | .ctradd .. | .vst _ _ true _ _ _ | .taskPlacement => 2
  | .messageArrival | .message | .reduction | .copyComplete | .transposeExchange | .stepBoundary | .sSignal .. | .rsend
  | .streamSliceArrival => 3
  | .wait .. | .waitany .. | .rfill .. | .vld _ _ true _ _ _ | .mldw .. | .mm .. | .mms .. | .mmg .. => 4
  | .xptab .. => 5 + (coreNo id).toNat
  | _ => 0

/-- The end of a cycle: the tests of the huddle engine (R277); the next cycle's updates start anew. -/
def State.endCycle (s : State) : State := { s.testHuddles with stage := 0 }

/-- A turn whose updates would come too late in this cycle lets the cycle end. -/
def Turn.inOrder (t : Turn) (s : State) : Turn :=
  match t with
  | .run i _ ran =>
    let n := orderOf i ran.core.id
    if n ≠ 0 ∧ n < s.stage then .done (.next { s.endCycle with cycle := s.cycle + 1 }) else t
  | .done _ => t

/-- The next turn. A package whose record did not verify stays in reset (R367). -/
def turn (s : State) : Turn :=
  if s.down then
    match s.resetDue with
    | some n => .run .packageReset s (match s.due[n]? with
        | some d => { s with due := d :: s.due.eraseIdx n }
        | none => s)
    | none => .done (.next s)
  else match s.choose with
    | (none, s) => .done (.next { s.endCycle with cycle := s.cycle + 1 })
    | (some (.act n), s) => if (s.due[n]?).any (·.cycle.isSome) then s.actTurn n else (s.actTurn n).inOrder s
    | (some (.strand id), s) => (s.coreTurn id).inOrder s
    | (some (.steps u), s) => (s.stepTurn u).inOrder s

/-! ## Placing a word for the next step -/

/-- Every agent but the core in focus is at rest. -/
def State.quiet (s : State) : State :=
  { s with
    down := false
    stage := 0
    due := []
    others := s.others.map fun c => (c.1, { c.2 with front := { c.2.front with life := if c.2.front.issues then .idle else c.2.front.life } })
    ranks := s.ranks.map fun r => (r.1, { r.2 with state := if r.2.state.isLive then .halted else r.2.state })
    fabric := { s.fabric with colls := s.fabric.colls.map fun c => (c.1, { c.2 with cx := { c.2.cx with state := if c.2.cx.state.isLive then .halted else c.2.cx.state } }) } }

/-- A word at the start of the local memory of the core in focus, whose front context stands there between two units. -/
def State.placeWord (s : State) (w : BitVec 32) : State :=
  (((s.poke (localPa s.core.id 0) (bytesOfWord w)).mapFocus fun c => { c with busy := 0, swapDue := .no, holding := false }).mapCtx fun k =>
    { k with
      life := .live
      pc := 0
      hints := []
      pops := []
      progress := .none
      gang := { k.gang with gang := false, lead := false } })

/-! ## After a turn -/
/-- Does the unit of the core in focus stand as it stood: the same word waits? -/
def stays (i : Instr) (found s : State) : Bool :=
  i.isWord && s.core.id == found.core.id && s.ctx.pc == found.ctx.pc && s.ctx.hints == found.ctx.hints

/-- The boundary after a unit, the head of a waiting instruction among them, at which a forced swap is due (R213). -/
def lateSwap (i : Instr) (found s : State) : State :=
  if i.isWord && s.core.id == found.core.id && s.core.frontSlot == found.core.frontSlot && s.ctx.issues && s.core.swapNow then
    if s.ctx.trapBit && !found.ctx.trapBit then afterTrap found s
    else if s.ctx.hints == [] || stays i found s then s.forceSwap s.core.id
    else s
  else s

/-- A word that was fetched from another package stays with the unit that waits (R350). -/
def keepFetched (i : Instr) (found ran s : State) : State :=
  match found.ctx.progress, s.ctx.progress with
  | .remote (v :: _) _, .remote g t =>
    if stays i found s && ran.ctx.progress != found.ctx.progress then s.mapCtx fun k => { k with progress := .remote (v :: g) t } else s
  | _, _ => s

/-- An act that had to wait is bound to its time no longer. -/
def unbind (i : Instr) (ran s : State) : State :=
  match ran.due, s.due with
  | d :: _, e :: r => if d = e && d.act.instr = i then { s with due := ⟨e.act, none⟩ :: r } else s
  | _, _ => s

/-- The images of spilled contexts stand in their core's save area, where the record places one, 24 KiB each (R149, R150). -/
def State.storeImage (s : State) (id : CoreId) (base i : Nat) : State :=
  match (s.getCore id).save.getD i none with
  | none => s
  | some k =>
    let bs := s.image (s.getCore id) k
    let a := canon base + 0x6000 * i
    if s.mem.readBytes a bs.length == bs then s else s.poke a bs

def State.storeImages (s : State) : State :=
  s.saveAt.foldl (fun s c => (List.range 4).foldl (fun s i => s.storeImage (BitVec.ofNat 13 c.1) c.2 i) s) s

/-- The units bring their queues up to date: slots and requests of every core, discarded tasks, the placements
that may be made, a unit that may sleep, and the save areas. -/
def State.tidy (s : State) : State :=
  let s := s.cores.foldl (fun s id => (s.settle id).dropTasks id) s
  let s := (s.dies.map Prod.fst).foldl (fun s d => s.offer (BitVec.ofNat 2 d)) s
  s.offerRest.storeImages

/-- The cycles until the next thing that has its time: no step passes over it. A strand whose slot is now has its turn
first, unless it has just waited. -/
def State.nearest (s : State) (waited : Option CoreId) (n : Nat) : Nat :=
  let now := s.cycle.toNat
  let n := s.due.foldl (fun n d => match d.cycle with
    | some t => min n (t - now)
    | none => n) n
  s.cores.foldl (fun n id => match (s.getCore id).slotAt with
    | some t => if now < t ∨ t = now ∧ waited ≠ some id then min n (t - now) else n
    | none => n) n

/-- Time passes: a free number of cycles (R3), which ends where something has its time; none, and the turn's place among the
cycle's updates is taken (log entry 88). A wait takes a cycle at least. -/
def State.elapse (s : State) (order : Nat) (waited : Option CoreId) : State :=
  let free := Config.elapsed s.tick
  let n := s.nearest waited (if waited.isSome then max 1 free else free)
  let ended := s.drawn.testHuddles (n != 0)
  { ended with
    stage := if n = 0 then max s.stage order else 0
    cycle := s.cycle + BitVec.ofNat 64 (ended.nearest waited n) }

/-- What the machine does after every turn. -/
def State.after (s : State) (order : Nat) (waited : Option CoreId) : State := ({ s with unit := none } : State).tidy.elapse order waited

/-- What follows a turn that ran an instruction or an act. -/
def afterRun (i : Instr) (found ran s : State) : State :=
  (lateSwap i found (keepFetched i found ran (unbind i ran s))).after (orderOf i ran.core.id)
    (if stays i found s then some s.core.id else none)

end Sys2Proof.Machine
end

