-- ==== Sys2Proof/Machine/Step.lean ====
section
/-! DEFINITION. One step: the agent whose turn it is runs one instruction or act, and time passes. -/

namespace Sys2Proof.Machine

def step (s : State) : Host.Outcome State Fault Refusal :=
  match turn s with
  | .run i found ran => mapNext (afterRun i found ran) (exec i ran)
  | .done o => mapNext (State.after · 0 none) o

/-- The instruction of nbits bits w at the start of the local memory of the core in focus, whose front context stands
there and has the next turn: no other agent may act (log entry 29). -/
def State.withFetchWord (s : State) (_nbits w : Nat) : State :=
  (s.quiet).placeWord (BitVec.ofNat 32 w)

end Sys2Proof.Machine
end

