-- ==== Sys2Proof/Safety.lean ====
section
/-! DEFINITION. What a safe run keeps: the state's own invariant. -/

namespace Sys2Proof.Machine

/-- The memory's list of cells is in its canonical form, so that equal memories are equal data. -/
def State.Inv (s : State) : Prop := s.mem.wf = true

/-- Every core is listed under its own COREID. -/
def State.Named (s : State) : Prop := ∀ id : CoreId, (s.getCore id).id = id

/-- The front context of the core in focus leads no gang (R221), so that it runs its units alone (R223). -/
def Solo (s : State) : Prop := (s.ctx.gang.gang && s.ctx.gang.lead) = false

end Sys2Proof.Machine
end

