-- ==== Sys2Proof/Certificates/Slice0/Obligations.lean ====
section
/-! DEFINITION. The statements for the provers. An instruction completes where its operands are readable and its
destination writable: `Reads` and `Writes` name the two, and statements of their own say for every form of a specifier
when they hold and what they do. `Solo` is the context that leads no gang; the leader of a gang has its own statements. -/

open Sys2Proof Sys2Proof.Machine

namespace Sys2Proof.Statements

/-- The source gives v (R9, R43): s' is s without what a port or a channel gave. -/
def Reads (o : Opnd) (s : State) (v : Word) (s' : State) : Prop := src o s = .ok (v, s')

/-- The destination takes v (R9, R43). `i` is the instruction in hand. -/
def Writes (i : Instr) (o : Opnd) (v : Word) (s s' : State) : Prop := dst (wordOf i) o v s = .ok ((), s')

/-- A truth value as a result. -/
def bit (b : Bool) : Word := if b then 1#64 else 0#64

/-- The signed quotient and remainder of R99, rounded toward zero. -/
def quot (x y : Word) : Word := if y = 0 then BitVec.allOnes 64 else BitVec.ofInt 64 (x.toInt.tdiv y.toInt)
def rest (x y : Word) : Word := if y = 0 then x else BitVec.ofInt 64 (x.toInt.tmod y.toInt)

/-- An access of a kind at a passes its checks up to its permission and goes to p (R238 to R246): s' has what the
TLBs filled. `ctrl` says that it is an LD or ST of 8 bytes. -/
def Goes (k : AccKind) (ctrl : Bool) (a : Word) (s : State) (p : Phys) (s' : State) : Prop := checkAll k ctrl [a] s = .ok ([p], s')

/-- The access is no inverted one, and R246 does not refuse it: FWD mode, no declared region, or a plain access of a
DH page. `inverts` says in which modes an access of the kind is inverted. -/
def Primal (s : State) (p : Phys) (a : Word) (inverts : DiffMode → Bool) : Prop :=
  s.ctx.diffMode = .fwd ∨ s.ctx.dreg a = none ∨ (inverts s.ctx.diffMode = false ∧ p.dh = true)

/-- The place takes the access of n bytes at once: no rank window in a step (R336), no control or fabric space. -/
def Ready (s : State) (p : Phys) (n : Nat) : Prop :=
  regionOf p.pa ≠ .control ∧ regionOf p.pa ≠ .fabric ∧ s.inStep p.pa n = false

/-- The state with the trace entry of an access, which one to the core's own local memory makes none of (R171). -/
def traced (kind : BitVec 2) (logw : BitVec 3) (a : Word) (p : Phys) (s : State) : State :=
  if p.own then s else s.trace 2 a (kind ++ logw ++ p.infoBits) s.ctx.iaddr

/-- The same for an access whose result has gone to d: one that passed a queue-port command makes no entry beside the
command's (R170). -/
def tracedResult (d : Opnd) (kind : BitVec 2) (logw : BitVec 3) (a : Word) (p : Phys) (s : State) : State :=
  if s.ctx.passed d then s else traced kind logw a p s

/-- Bytes, log2 and extension of a load width (R41). -/
def loadWidths : List (LdWidth × Nat × BitVec 3 × (Nat → Word)) :=
  [(.s1, 1, 0, fun v => BitVec.ofInt 64 (BitVec.ofNat 8 v).toInt), (.s2, 2, 1, fun v => BitVec.ofInt 64 (BitVec.ofNat 16 v).toInt),
   (.s4, 4, 2, fun v => BitVec.ofInt 64 (BitVec.ofNat 32 v).toInt), (.d8, 8, 3, fun v => BitVec.ofNat 64 v),
   (.z1, 1, 0, fun v => BitVec.ofNat 64 v), (.z2, 2, 1, fun v => BitVec.ofNat 64 v), (.z4, 4, 2, fun v => BitVec.ofNat 64 v)]

/-- Bytes and log2 of a store width (R41). -/
def storeWidths : List (StWidth × Nat × BitVec 3) := [(.w1, 1, 0), (.w2, 2, 1), (.w4, 4, 2), (.w8, 8, 3)]

/-- The state after the bytes of a store that is performed at p: staged where the task of the strand stages them (R294),
discarded and counted by a core in its compute phase (R285), else in memory. -/
def Stored (a : Word) (p : Phys) (bs : List Byte) (s s' : State) : Prop :=
  if regionOf p.pa = .window then
    if windowCore p.pa ≠ s.core.id ∧ (s.getCore (windowCore p.pa)).computing = true then
      s' = s.setCore { s.getCore (windowCore p.pa) with discards := (s.getCore (windowCore p.pa)).discards + 1 }
    else s' = s.poke p.pa bs
  else s.putBytes s.who (s.stagedTask s.ctx.task) a p.pa bs = .ok s'

/-- The scalar accesses LD, LDA, ST and STL at a: their kind, their bytes, and whether control space takes them, which
it does of LD and ST of 8 bytes alone (R242). -/
def ScalarAccess (d b : Opnd) (base : Word) (i : Instr) (k : AccKind) (n : Nat) (ctrl : Bool) (a : Word) : Prop :=
  (∃ w imm l e, (w, n, l, e) ∈ loadWidths ∧ i = .ld d b w imm ∧ k = .load ∧ ctrl = decide (n = 8) ∧ a = base + BitVec.ofInt 64 (imm.toInt * n)) ∨
  (∃ w sc l e, (w, n, l, e) ∈ loadWidths ∧ i = .lda d b w sc ∧ k = .load ∧ ctrl = false ∧ a = base) ∨
  (∃ w imm l, (w, n, l) ∈ storeWidths ∧ i = .st d b w imm ∧ k = .store ∧ ctrl = decide (n = 8) ∧ a = base + BitVec.ofInt 64 (imm.toInt * n)) ∨
  (∃ w sc l, (w, n, l) ∈ storeWidths ∧ i = .stl d b w sc ∧ k = .store ∧ ctrl = false ∧ a = base)

/-- Has the strand posted stores or reductions that are still to be answered (R351)? -/
def posted (s : State) : Bool := s.fabric.reqs.any fun q => q.2.who == s.who && q.2.use == .posted

/-- The word that retires at an address falls through at the end of an active level's body (R110). -/
def EndsAt (l : LoopLevel) (iaddr npc : Word) : Prop := l.active = true ∧ l.last = iaddr ∧ npc = iaddr + 4

end Sys2Proof.Statements

open Sys2Proof.Statements

/-! ## Integer instructions -/

/-- R98, R99: the two-source integer instructions complete, each with the result the rule gives. -/
def Obligations.IntegerRegisterResults : Prop :=
  ∀ (s s1 s2 s3 : State) (d a b : Opnd) (x y : Word) (i : Instr) (r : Word),
    Solo s → Reads a s x s1 → Reads b s1 y s2 →
    (i, r) ∈ ([
      (.add d a b, BitVec.ofNat 64 (x.toNat + y.toNat)),
      (.sub d a b, BitVec.ofInt 64 (x.toNat - y.toNat)),
      (.and d a b, x &&& y),
      (.or d a b, x ||| y),
      (.xor d a b, x ^^^ y),
      (.andn d a b, x &&& ~~~y),
      (.sll d a b, x <<< (y.toNat % 64)),
      (.srl d a b, x >>> (y.toNat % 64)),
      (.sra d a b, x.sshiftRight (y.toNat % 64)),
      (.rol d a b, x.rotateLeft (y.toNat % 64)),
      (.mul d a b, BitVec.ofInt 64 (x.toInt * y.toInt)),
      (.mulh d a b, BitVec.ofInt 64 (x.toInt * y.toInt / 2 ^ 64)),
      (.mulhu d a b, BitVec.ofNat 64 (x.toNat * y.toNat / 2 ^ 64)),
      (.div d a b, quot x y),
      (.divu d a b, if y = 0 then BitVec.allOnes 64 else BitVec.ofNat 64 (x.toNat / y.toNat)),
      (.rem d a b, rest x y),
      (.remu d a b, if y = 0 then x else BitVec.ofNat 64 (x.toNat % y.toNat)),
      (.min d a b, BitVec.ofInt 64 (min x.toInt y.toInt)),
      (.max d a b, BitVec.ofInt 64 (max x.toInt y.toInt)),
      (.minu d a b, BitVec.ofNat 64 (min x.toNat y.toNat)),
      (.maxu d a b, BitVec.ofNat 64 (max x.toNat y.toNat)),
      (.slt d a b, bit (decide (x.toInt < y.toInt))),
      (.sltu d a b, bit (decide (x.toNat < y.toNat))),
      (.seq d a b, bit (decide (x = y)))] : List (Instr × Word)) →
    Writes i d r s2 s3 → exec i s = .next (retire s s3 {})

/-- R98, R100: the one-source integer instructions and the bit-field pair complete. BFI reads its destination as a source
before the result is written (R96). A field of length n from bit lo ends at bit 63. -/
def Sys2Proof.Statements.BitCountAndFieldResults : Prop :=
  ∀ (s s1 s2 s3 s4 : State) (d a b : Opnd) (x y z : Word),
    Solo s → Reads a s x s1 →
    (∀ n : Nat, n ≤ 64 → (∀ j, 64 - n ≤ j → j < 64 → x.getLsbD j = false) → (n = 64 ∨ x.getLsbD (63 - n) = true) →
      Writes (.clz d a) d (BitVec.ofNat 64 n) s1 s2 → exec (.clz d a) s = .next (retire s s2 {})) ∧
    (∀ n : Nat, n ≤ 64 → (∀ j, j < n → x.getLsbD j = false) → (n = 64 ∨ x.getLsbD n = true) →
      Writes (.ctz d a) d (BitVec.ofNat 64 n) s1 s2 → exec (.ctz d a) s = .next (retire s s2 {})) ∧
    (Writes (.popc d a) d (BitVec.ofNat 64 ((List.range 64).filter fun j => x.getLsbD j).length) s1 s2 →
      exec (.popc d a) s = .next (retire s s2 {})) ∧
    (Reads b s1 y s2 → ∀ lo n : Nat, lo = y.toNat % 64 → n = min (min (y.toNat / 256 % 128) 64) (64 - lo) →
      (Writes (.bfx d a b) d (BitVec.ofNat 64 (x.toNat / 2 ^ lo % 2 ^ n)) s2 s3 → exec (.bfx d a b) s = .next (retire s s3 {})) ∧
      (Reads d s2 z s3 → ∀ r : Word, (∀ j, j < 64 → r.getLsbD j = if lo ≤ j ∧ j < lo + n then x.getLsbD (j - lo) else z.getLsbD j) →
        Writes (.bfi d a b) d r s3 s4 → exec (.bfi d a b) s = .next (retire s s4 {})))

/-- R101 to R103: the immediate instructions complete. OPs 2 to 7 take the immediate that R50 gives, which a bound
HINT.IMM widens; AUIPC counts from its own word, past its hints. -/
def Sys2Proof.Statements.ImmediateResults : Prop :=
  ∀ (s s1 s2 : State) (d a : Opnd) (x y : Word) (imm : BitVec 14) (n : BitVec 6) (u : BitVec 20) (i : Instr) (r : Word),
    Solo s →
    (Reads a s x s1 → y = s.ctx.immediate imm →
      (i, r) ∈ ([
        (.addi d a imm, BitVec.ofNat 64 (x.toNat + y.toNat)),
        (.andi d a imm, x &&& y),
        (.ori d a imm, x ||| y),
        (.xori d a imm, x ^^^ y),
        (.slti d a imm, bit (decide (x.toInt < y.toInt))),
        (.sltiu d a imm, bit (decide (x.toNat < y.toNat))),
        (.slli d a n, x <<< n.toNat),
        (.srli d a n, x >>> n.toNat),
        (.srai d a n, x.sshiftRight n.toNat),
        (.roli d a n, x.rotateLeft n.toNat)] : List (Instr × Word)) →
      Writes i d r s1 s2 → exec i s = .next (retire s s2 {})) ∧
    ((i, r) ∈ ([
        (.lui d u, BitVec.ofInt 64 (u.toInt * 2 ^ 14)),
        (.auipc d u, BitVec.ofInt 64 (s.ctx.iaddr.toInt + u.toInt * 2 ^ 14))] : List (Instr × Word)) →
      Writes i d r s s2 → exec i s = .next (retire s s2 {}))

/-- R96, R98, R100 to R103: the bit counts, the bit fields and the immediates. -/
def Obligations.IntegerBitAndImmediateResults : Prop := BitCountAndFieldResults ∧ ImmediateResults

/-! ## Scalar floating point -/

/-- The FP32 value of a source's low word (R97). -/
def Sys2Proof.Statements.val (x : Word) : Machine.Num := Fmt.value .fp32 (x.toNat % 2 ^ 32)

/-- R104, R105: the arithmetic of OP 11 completes: one rounding of the exact result to FP32, under the mode of R82, with
one draw where that mode is stochastic (R84). -/
def Sys2Proof.Statements.FloatArithmeticResults : Prop :=
  ∀ (s s1 s2 s3 s4 s5 : State) (d a b : Opnd) (x y z : Word) (n : Nat) (m : RMode),
    Solo s → m = s.ctx.roundMode → Reads a s x s1 →
    (∀ v, v = (sqrtN (val x)).1 → drawFor m s1 = .ok (n, s2) → Writes (.fsqrt d a) d (BitVec.ofNat 64 (Machine.round .fp32 m false n v).1) s2 s3 →
      exec (.fsqrt d a) s = .next (retire s s3 {})) ∧
    (Reads b s1 y s2 →
      (∀ (i : Instr) (v : Machine.Num), (i, v) ∈ ([
          (.fadd d a b, (addN m (val x) (val y)).1),
          (.fsub d a b, (addN m (val x) (val y).negate).1),
          (.fmul d a b, (mulN (val x) (val y)).1),
          (.fdiv d a b, (divN (val x) (val y)).1)] : List (Instr × Machine.Num)) →
        drawFor m s2 = .ok (n, s3) → Writes i d (BitVec.ofNat 64 (Machine.round .fp32 m false n v).1) s3 s4 →
        exec i s = .next (retire s s4 {})) ∧
      (Reads d s2 z s3 → drawFor m s3 = .ok (n, s4) →
        Writes (.fma d a b) d (BitVec.ofNat 64 (Machine.round .fp32 m false n (fmaN m (val x) (val y) (val z)).1).1) s4 s5 →
        exec (.fma d a b) s = .next (retire s s5 {})))

/-- R104, R106: the comparisons, choices and classes of OP 11 and its conversions complete. A conversion to an integer
rounds and saturates; a widening one is exact and draws nothing. -/
def Sys2Proof.Statements.FloatCompareAndConvertResults : Prop :=
  ∀ (s s1 s2 s3 : State) (d a b : Opnd) (x y : Word) (n : Nat) (m : RMode) (i : Instr) (r : Word),
    Solo s → m = s.ctx.roundMode → Reads a s x s1 →
    (Reads b s1 y s2 →
      (i, r) ∈ ([
        (.fmin d a b, BitVec.ofNat 64 (Fmt.pick .fp32 false (x.toNat % 2 ^ 32) (y.toNat % 2 ^ 32))),
        (.fmax d a b, BitVec.ofNat 64 (Fmt.pick .fp32 true (x.toNat % 2 ^ 32) (y.toNat % 2 ^ 32))),
        (.feq d a b, bit (Fmt.eqv .fp32 (x.toNat % 2 ^ 32) (y.toNat % 2 ^ 32))),
        (.flt d a b, bit (Fmt.ltv .fp32 (x.toNat % 2 ^ 32) (y.toNat % 2 ^ 32))),
        (.fle d a b, bit (Fmt.lev .fp32 (x.toNat % 2 ^ 32) (y.toNat % 2 ^ 32)))] : List (Instr × Word)) →
      Writes i d r s2 s3 → exec i s = .next (retire s s3 {})) ∧
    (Writes (.fclass d a) d (BitVec.ofNat 64 (2 ^ Fmt.classBit .fp32 (x.toNat % 2 ^ 32))) s1 s2 →
      exec (.fclass d a) s = .next (retire s s2 {})) ∧
    (∀ c, (c, r) ∈ ([
        (.bf16ToF32, BitVec.ofNat 64 (Machine.round .fp32 .nearest false 0 (Fmt.value .bf16 (x.toNat % 2 ^ 16))).1),
        (.f16ToF32, BitVec.ofNat 64 (Machine.round .fp32 .nearest false 0 (Fmt.value .fp16 (x.toNat % 2 ^ 16))).1),
        (.e4m3ToF32, BitVec.ofNat 64 (Machine.round .fp32 .nearest false 0 (Fmt.value .e4m3 (x.toNat % 2 ^ 8))).1),
        (.e5m2ToF32, BitVec.ofNat 64 (Machine.round .fp32 .nearest false 0 (Fmt.value .e5m2 (x.toNat % 2 ^ 8))).1)] : List (FcvtOp × Word)) →
      Writes (.fcvt d a c) d r s1 s2 → exec (.fcvt d a c) s = .next (retire s s2 {})) ∧
    (drawFor m s1 = .ok (n, s2) → ∀ c, (c, r) ∈ ([
        (.f32ToI64, BitVec.ofInt 64 (roundInt (-2 ^ 63) (2 ^ 63 - 1) m n (val x))),
        (.f32ToI32, BitVec.ofInt 64 (roundInt (-2 ^ 31) (2 ^ 31 - 1) m n (val x))),
        (.i64ToF32, BitVec.ofNat 64 (Machine.round .fp32 m s.ctx.saturates n (Machine.Num.ofInt x.toInt)).1),
        (.i32ToF32, BitVec.ofNat 64 (Machine.round .fp32 m s.ctx.saturates n (Machine.Num.ofInt (x.setWidth 32).toInt)).1),
        (.f32ToBf16, BitVec.ofNat 64 (Machine.round .bf16 m s.ctx.saturates n (val x)).1),
        (.f32ToF16, BitVec.ofNat 64 (Machine.round .fp16 m s.ctx.saturates n (val x)).1),
        (.f32ToE4m3, BitVec.ofNat 64 (Machine.round .e4m3 m s.ctx.saturates n (val x)).1),
        (.f32ToE5m2, BitVec.ofNat 64 (Machine.round .e5m2 m s.ctx.saturates n (val x)).1)] : List (FcvtOp × Word)) →
      Writes (.fcvt d a c) d r s2 s3 → exec (.fcvt d a c) s = .next (retire s s3 {}))

/-- R104 to R106: the scalar floating-point instructions. -/
def Obligations.ScalarFloatResults : Prop := FloatArithmeticResults ∧ FloatCompareAndConvertResults

/-! ## Control flow -/

/-- R46, R48, R68, R110: a unit that retires goes on at its target, or at the word past it; but where it is the last word
of an active loop's body and would fall through, the level counts down and control returns to the body's first word
or the level ends. Where both levels end there, level 1 is tested first, and level 0 only if level 1 falls through.
INSTRET counts the unit's words. -/
def Obligations.RetirementMovesOn : Prop :=
  ∀ (s s1 : State) (fl : Flow) (npc : Word) (l : Bool), (∀ u, fl.after u = u) → npc = fl.target.getD (s.ctx.iaddr + 4) →
    (retire s s1 fl).ctx.instret = (if fl.count then s1.ctx.instret + BitVec.ofNat 64 (1 + s.ctx.hints.length) else s1.ctx.instret) ∧
    (retire s s1 fl).ctx.hints = [] ∧
    ((∀ k, ¬EndsAt (s1.ctx.loopAt k) s.ctx.iaddr npc) →
      (retire s s1 fl).ctx.pc = npc ∧ (retire s s1 fl).ctx.loops = s1.ctx.loops) ∧
    (EndsAt (s1.ctx.loopAt l) s.ctx.iaddr npc → ¬EndsAt (s1.ctx.loopAt !l) s.ctx.iaddr npc →
      (1 < (s1.ctx.loopAt l).count.toNat → (retire s s1 fl).ctx.pc = (s1.ctx.loopAt l).start ∧
        (retire s s1 fl).ctx.loops = (s1.ctx.setLoop l { s1.ctx.loopAt l with count := (s1.ctx.loopAt l).count - 1 }).loops) ∧
      ((s1.ctx.loopAt l).count.toNat ≤ 1 → (retire s s1 fl).ctx.pc = npc ∧
        (retire s s1 fl).ctx.loops = (s1.ctx.setLoop l { s1.ctx.loopAt l with count := 0, active := false }).loops)) ∧
    (EndsAt (s1.ctx.loopAt true) s.ctx.iaddr npc → EndsAt (s1.ctx.loopAt false) s.ctx.iaddr npc →
      (1 < (s1.ctx.loopAt true).count.toNat → (retire s s1 fl).ctx.pc = (s1.ctx.loopAt true).start ∧
        (retire s s1 fl).ctx.loops = (s1.ctx.setLoop true { s1.ctx.loopAt true with count := (s1.ctx.loopAt true).count - 1 }).loops) ∧
      ((s1.ctx.loopAt true).count.toNat ≤ 1 → ∀ k, k = s1.ctx.setLoop true { s1.ctx.loopAt true with count := 0, active := false } →
        (1 < (s1.ctx.loopAt false).count.toNat → (retire s s1 fl).ctx.pc = (s1.ctx.loopAt false).start ∧
          (retire s s1 fl).ctx.loops = (k.setLoop false { s1.ctx.loopAt false with count := (s1.ctx.loopAt false).count - 1 }).loops) ∧
        ((s1.ctx.loopAt false).count.toNat ≤ 1 → (retire s s1 fl).ctx.pc = npc ∧
          (retire s s1 fl).ctx.loops = (k.setLoop false { s1.ctx.loopAt false with count := 0, active := false }).loops)))

/-- R107: a branch completes: taken where its condition holds, to its own address + 4 times the offset. -/
def Sys2Proof.Statements.BranchesGoWhereTheyShould : Prop :=
  ∀ (s s1 s2 : State) (a b : Opnd) (off : BitVec 14) (x y : Word) (i : Instr) (c : Bool),
    Solo s → Reads a s x s1 → Reads b s1 y s2 →
    (i, c) ∈ ([
      (.beq a b off, decide (x = y)),
      (.bne a b off, decide (x ≠ y)),
      (.blt a b off, decide (x.toInt < y.toInt)),
      (.bge a b off, decide (y.toInt ≤ x.toInt)),
      (.bltu a b off, decide (x.toNat < y.toNat)),
      (.bgeu a b off, decide (y.toNat ≤ x.toNat))] : List (Instr × Bool)) →
    exec i s = .next (retire s s2 (if c then { target := some (s.ctx.iaddr + BitVec.ofInt 64 (4 * off.toInt)), branch := true } else {}))

/-- R108: JAL and JALR complete: the return address goes to d and control to the target; JALR traps with cause 0x03 on a
target that is no multiple of 4, and then writes nothing. -/
def Sys2Proof.Statements.JumpsLinkAndGo : Prop :=
  ∀ (s s1 s2 : State) (d a : Opnd) (off : BitVec 20) (imm : BitVec 14) (x t : Word),
    Solo s →
    (Writes (.jal d off) d (s.ctx.iaddr + 4) s s1 →
      exec (.jal d off) s = .next (retire s s1 { target := some (s.ctx.iaddr + BitVec.ofInt 64 (4 * off.toInt)), branch := true })) ∧
    (Reads a s x s1 → t = x + BitVec.ofInt 64 imm.toInt →
      (t.toNat % 4 = 0 → Writes (.jalr d a imm) d (s.ctx.iaddr + 4) s1 s2 →
        exec (.jalr d a imm) s = .next (retire s s2 { target := some t, branch := true })) ∧
      (t.toNat % 4 ≠ 0 → exec (.jalr d a imm) s = .next ((trapBase s s1.ctx.pops none).takeTrap 0x03 t)))

/-- R109: a loop instruction completes: it starts its level, or passes over the body where the count is 0. A level that is
active already traps with cause 0x09. -/
def Sys2Proof.Statements.LoopsStart : Prop :=
  ∀ (s s1 : State) (l : Bool) (a : Opnd) (x : Word) (c : BitVec 32) (off : Nat),
    Solo s →
    (∀ i : Instr,
      ((∃ o : BitVec 14, i = .loop l a o ∧ Reads a s x s1 ∧ c = x.setWidth 32 ∧ off = o.toNat) ∨
        (∃ (n : BitVec 12) (o : BitVec 12), i = .loopi l n o ∧ s1 = s ∧ c = n.setWidth 32 ∧ off = o.toNat)) →
      (s.ctx.loopAt l).active = false →
      exec i s = .next (retire s
        (if c = 0 then s1 else s1.mapCtx fun k => k.setLoop l ⟨s.ctx.iaddr + 4, s.ctx.iaddr + BitVec.ofNat 64 (4 * off), c, true⟩)
        (if c = 0 then { target := some (s.ctx.iaddr + BitVec.ofNat 64 (4 * off) + 4) } else {}))) ∧
    (∀ i : Instr, ((∃ o, i = .loop l a o) ∨ ∃ n o, i = .loopi l n o) → (s.ctx.loopAt l).active = true →
      exec i s = .next ((trapBase s s.ctx.pops none).takeTrap 0x09 (if l then 0x014 else 0x010)))

/-- R107 to R109: branches, jumps and hardware loops (log entries 30 and 72). -/
def Obligations.ControlTransfersComplete : Prop := BranchesGoWhereTheyShould ∧ JumpsLinkAndGo ∧ LoopsStart

/-! ## Loads and stores -/

/-- R112, R115, R41: a load completes: it reads the bytes at its address, little-endian, and extends them by its width
code. LD takes base + imm11 times the width, LDA its address alone. -/
def Obligations.LoadsReadMemory : Prop :=
  ∀ (s s1 s2 s3 : State) (d b : Opnd) (w : LdWidth) (imm : BitVec 11) (sc : Scope) (base a : Word) (p : Phys) (i : Instr)
    (n : Nat) (logw : BitVec 3) (ext : Nat → Word),
    Solo s → (w, n, logw, ext) ∈ loadWidths → Reads b s base s1 →
    (i = .ld d b w imm ∧ a = base + BitVec.ofInt 64 (imm.toInt * n) ∨ i = .lda d b w sc ∧ a = base) →
    a.toNat % n = 0 → Goes .load (decide (i = .ld d b w imm) && decide (n = 8)) a s1 p s2 →
    Primal s2 p a (fun m => m == .rev) → Ready s2 p n → s2.failing p.pa n = false →
    Writes i d (ext (natOfBytes (s2.view p.pa n))) s2 s3 →
    exec i s = .next (retire s (tracedResult d 0 logw a p s3) {})

/-- R112, R115, R41: a store completes: the low bytes of its value go to its address, little-endian. A value from a port
is taken once the checks have passed (R45). STL to fabric scope waits for the strand's posted stores and reports one
that failed (R351): it completes where there is neither. -/
def Obligations.StoresWriteMemory : Prop :=
  ∀ (s s1 s2 s3 s4 : State) (r b : Opnd) (w : StWidth) (imm : BitVec 11) (sc : Scope) (base a v : Word) (p : Phys) (i : Instr)
    (n : Nat) (logw : BitVec 3),
    Solo s → (w, n, logw) ∈ storeWidths → Reads b s base s1 →
    (i = .st r b w imm ∧ a = base + BitVec.ofInt 64 (imm.toInt * n) ∨
      i = .stl r b w sc ∧ a = base ∧
        (sc = .fabric → s2.ctx.failed = none ∧ posted s2 = false)) →
    a.toNat % n = 0 → Goes .store (decide (i = .st r b w imm) && decide (n = 8)) a s1 p s2 →
    ¬(s2.ctx.phase = 1 ∧ p.own = false ∧ regionOf p.pa = .window) →
    (s2.ctx.diffMode = .fwd ∨ s2.ctx.dreg a = none) → Ready s2 p n →
    Reads r s2 v s3 → ¬(regionOf p.pa = .window ∧ windowCore p.pa ≠ s3.core.id ∧ (s3.getCore (windowCore p.pa)).holding = true) →
    Stored a p (bytesOfNat n v.toNat) s3 s4 →
    exec i s = .next (retire s (traced 1 logw a p s4) {})

/-- R112, R115, R241, R242: where a scalar access traps: first its alignment (0x03), then translation, then permission,
which control space gives no access but an LD or ST of 8 bytes. -/
def Sys2Proof.Statements.ScalarAccessesTrap : Prop :=
  ∀ (s s1 : State) (d b : Opnd) (base a : Word) (n : Nat) (i : Instr) (k : AccKind) (ctrl : Bool),
    Solo s → Reads b s base s1 → ScalarAccess d b base i k n ctrl a →
    (a.toNat % n ≠ 0 → exec i s = .next ((trapBase s s1.ctx.pops none).takeTrap 0x03 a)) ∧
    (a.toNat % n = 0 → s1.walkHeld s1.asker.cluster a = false →
      (∀ c, s1.xlate s1.asker k ctrl a = .error c → exec i s = .next ((trapBase s s1.ctx.pops none).takeTrap c a)) ∧
      (ctrl = false → canonicalVa a = true → 0x10000 ≤ a.toNat → ∀ w, s1.entry s1.asker.cluster s1.tenant (a.toNat % 2 ^ 53) = .ok w →
        regionOf (pteNext w.leaf.pte + (a.toNat % 2 ^ 53 - w.leaf.va)) = .control →
        exec i s = .next ((trapBase s s1.ctx.pops none).takeTrap 0x06 a)))

/-- R113, R242: an LD or ST of 8 bytes in control space reads the register there, or writes it, where the level may; one
that the level or the offset denies takes cause 0x06, before the value of a store is read. A store to XINV waits while
BUSY is 1, and until the strand's posted stores are answered (R244; log entry 30). -/
def Sys2Proof.Statements.ControlSpaceAccesses : Prop :=
  ∀ (s s1 s2 s3 s4 : State) (d b : Opnd) (imm : BitVec 11) (base a v : Word) (p : Phys) (may : Bool → CtrlReg → Bool),
    Solo s → Reads b s base s1 → a = base + BitVec.ofInt 64 (imm.toInt * 8) → a.toNat % 8 = 0 →
    regionOf p.pa = .control → p.own = false →
    may = ctrlAllowed s2.ctx.isManager (!s2.ctx.isUser) (clusterOf s2.core.id) →
    (Goes .load true a s1 p s2 →
      ((s2.ctx.diffMode = .fwd ∨ s2.ctx.dreg a = none) → ∀ r, ctrlReg (offsetOf p.pa) = some r → may false r = true →
        Writes (.ld d b .d8 imm) d (s2.ctrlRead r) s2 s3 → exec (.ld d b .d8 imm) s = .next (retire s (tracedResult d 0 3 a p s3) {})) ∧
      ((∀ r, ctrlReg (offsetOf p.pa) = some r → may false r = false) →
        exec (.ld d b .d8 imm) s = .next ((trapBase s s2.ctx.pops none).takeTrap 0x06 a))) ∧
    (Goes .store true a s1 p s2 →
      ((s2.ctx.diffMode = .fwd ∨ s2.ctx.dreg a = none) → Reads d s2 v s3 → ∀ r, ctrlReg (offsetOf p.pa) = some r → may true r = true →
        ((∃ cl, r = .xinv cl) → posted s3 = true → exec (.st d b .w8 imm) s = .next s) ∧
        (((∃ cl, r = .xinv cl) → posted s3 = false) →
          (s3.ctrlWrite v r = some s4 → exec (.st d b .w8 imm) s = .next (retire s (traced 1 3 a p s4) {})) ∧
          (s3.ctrlWrite v r = none → exec (.st d b .w8 imm) s = .next s))) ∧
      ((∀ r, ctrlReg (offsetOf p.pa) = some r → may true r = false) →
        exec (.st d b .w8 imm) s = .next ((trapBase s s2.ctx.pops none).takeTrap 0x06 a)))

/-- R112, R115, R242: where a scalar access traps, and control space. -/
def Obligations.AccessesTrapOrReachControlSpace : Prop := ScalarAccessesTrap ∧ ControlSpaceAccesses

/-- R116, R117: the bit instructions complete. LDBIT reads w bits of the stream of words at its bit address, lowest
first; STBIT writes them; with the advance form the bit address moves on by w. BASET gives a bit address. -/
def Obligations.BitStreamResults : Prop :=
  ∀ (s s1 s2 s3 s4 : State) (d a b : Opnd) (k : BitVec 2) (w1 : BitVec 5) (adv : Bool) (x y v ba : Word) (w : Nat) (ps : List Phys),
    Solo s → w = w1.toNat + 1 → ba = s.ctx.ba.get k.toFin →
    (s.ctx.diffMode = .fwd →
      (checkAll .load false (bitWords ba w) s = .ok (ps, s1) → (∀ p ∈ ps, Ready s1 p 4 ∧ s1.failing p.pa 4 = false) →
        (∀ r : Word, (∀ j, j < w → r.getLsbD j =
            (s1.viewByte (canon ((ps.getD ((ba.toNat % 32 + j) / 32) ⟨0, true, false, false⟩).pa + (ba.toNat % 32 + j) % 32 / 8))).getLsbD ((ba.toNat + j) % 8)) →
          r.toNat < 2 ^ w → Writes (.ldbit d k w1 adv) d r s1 s2 →
          exec (.ldbit d k w1 adv) s = .next (retire s (tracedResult d 0 2 (bitWord ba) (ps.headD ⟨0, true, false, false⟩)
            (if adv then s2.mapCtx fun c => c.setBa k (ba + BitVec.ofNat 64 w) else s2)) {}))) ∧
      (checkAll .store false (bitWords ba w) s = .ok (ps, s1) →
        (∀ p ∈ ps, Ready s1 p 4 ∧ ¬(s1.ctx.phase = 1 ∧ p.own = false ∧ regionOf p.pa = .window)) → Reads d s1 v s2 →
        mergeWords ((bitWords ba w).zip ps) (ba.toNat % 32) w (v.toNat % 2 ^ w) s2 = .ok ([], s3) →
        exec (.stbit d k w1 adv) s = .next (retire s (traced 1 2 (bitWord ba) (ps.headD ⟨0, true, false, false⟩)
          (if adv then s3.mapCtx fun c => c.setBa k (ba + BitVec.ofNat 64 w) else s3)) {}))) ∧
    (Reads a s x s3 → Reads b s3 y s4 →
      exec (.baset k a b) s = .next (retire s (s4.mapCtx fun c => c.setBa k (BitVec.ofNat 64 (8 * x.toNat + y.toNat))) {}))

/-! ## Atomics, fences and locks -/

/-- The conditions of an atomic of n bytes that is carried out in memory (R251). -/
def Sys2Proof.Statements.AtomicAt (a : Word) (n : Nat) (s : State) (p : Phys) (s' : State) : Prop :=
  a.toNat % n = 0 ∧ Goes .atomic false a s p s' ∧ ¬(s'.ctx.phase = 1 ∧ p.own = false ∧ regionOf p.pa = .window) ∧
    (s'.ctx.diffMode = .fwd ∨ s'.ctx.dreg a = none) ∧ Ready s' p n ∧ s'.failing p.pa n = false ∧
    ¬(regionOf p.pa = .window ∧ windowCore p.pa ≠ s'.core.id ∧
      ((s'.getCore (windowCore p.pa)).computing = true ∨ (s'.getCore (windowCore p.pa)).holding = true))

/-- R250: fn 0 to 8 complete: the element takes the value the function gives and d the old one. An ABADD whose sum
would pass its bound leaves the element and gives all ones. ACAS and ABADD read d first. -/
def Sys2Proof.Statements.AtomicsReturnTheOldValue : Prop :=
  ∀ (s s0 s1 s2 s3 s4 : State) (d a b : Opnd) (o : Order) (x y z m new : Word) (p : Phys) (i : Instr) (moved : Bool),
    Solo s → Reads a s0 x s1 → AtomicAt x 8 s1 p s2 → Reads b s2 y s3 → m = BitVec.ofNat 64 (natOfBytes (s3.bytes (canon p.pa) 8)) →
    ((i, new, moved) ∈ ([
        (.aadd d a b o, m + y, true),
        (.amin d a b o, if y.toInt < m.toInt then y else m, true),
        (.amax d a b o, if m.toInt < y.toInt then y else m, true),
        (.aand d a b o, m &&& y, true),
        (.aor d a b o, m ||| y, true),
        (.axor d a b o, m ^^^ y, true),
        (.aswp d a b o, y, true)] : List (Instr × Word × Bool)) ∧ s0 = s ∨
      (i, new, moved) ∈ ([
        (.acas d a b o, if m = z then y else m, true),
        (.abadd d a b o, m + y, decide (m.toNat + y.toNat ≤ z.toNat))] : List (Instr × Word × Bool)) ∧ Reads d s z s0) →
    Writes i d (if moved then m else BitVec.allOnes 64)
      (if moved then s3.poke (canon p.pa) (bytesOfNat 8 new.toNat) else s3) s4 →
    exec i s = .next (retire s (tracedResult d 2 3 x p s4) {})

/-- R250: the reductions complete: the element takes the value, and nothing is returned; floating ones round to nearest
even. -/
def Sys2Proof.Statements.ReductionsUpdateMemory : Prop :=
  ∀ (s s1 s2 s3 : State) (t : RedType) (a b : Opnd) (o : Order) (x y : Word) (p : Phys) (i : Instr) (n m new : Nat) (logw : BitVec 3) (f : BankFn),
    Solo s → Reads a s x s1 → (t, n, logw) ∈ ([(.i64, 8, 3), (.i32, 4, 2), (.f32, 4, 2), (.bf16, 2, 1)] : List (RedType × Nat × BitVec 3)) →
    AtomicAt x n s1 p s2 → Reads b s2 y s3 → m = natOfBytes (s3.bytes (canon p.pa) n) →
    (i, f) ∈ ([(.redadd t a b o, .add), (.redmin t a b o, .min), (.redmax t a b o, .max)] : List (Instr × BankFn)) →
    new = (bankOp f t.bank m (y.toNat % 256 ^ n) 0).1 →
    (t = .i32 → f = .add → new = (m + y.toNat) % 2 ^ 32) ∧
    exec i s = .next (retire s (traced 2 logw x p (s3.poke (canon p.pa) (bytesOfNat n new))) {})

/-- R250: the atomics and the reductions. -/
def Obligations.AtomicsAndReductionsUpdateMemory : Prop := AtomicsReturnTheOldValue ∧ ReductionsUpdateMemory

/-- R264, R265, R351: a fence completes once what it waits for has come: with E the strand's engine work, and for a full
fence, one with E and a release to fabric scope its posted stores, none of which may have failed. One that has failed
is reported once. -/
def Sys2Proof.Statements.FencesWaitAndReport : Prop :=
  ∀ (s : State) (e : Bool) (sc : Scope) (k : FenceKind) (reports : Bool),
    Solo s → reports = (e || k == .full || (k == .release && sc == .fabric)) →
    (e = true → s.ctx.pend = 0 ∧ s.outstanding s.who = false) →
    (reports = true → posted s = false) →
    ((reports = true → s.ctx.failed = none) → exec (.fence e sc k) s = .next (retire s s {})) ∧
    (∀ c va, reports = true → s.ctx.failed = some (c, va) →
      exec (.fence e sc k) s = .next ((trapBase s s.ctx.pops (some (s.mapCtx fun k => { k with failed := none }))).takeTrap c va))

/-- R253, R254: the lock instructions complete where the word grants them, and give the word they found: a reader is
counted, a writer holds (and is counted among the waiting no longer), a release takes its count or its hold off. A release of a lock that is not held so traps with
cause 0x1A and the word. -/
def Sys2Proof.Statements.LocksGrantAndRelease : Prop :=
  ∀ (s s1 s2 s3 : State) (d a : Opnd) (x : Word) (p : Phys) (w : Nat) (i : Instr) (new : Option Nat) (counted : Bool),
    Solo s → Reads a s x s1 → x.toNat % 4 = 0 → Goes .atomic false x s1 p s2 → p.own = false → regionOf p.pa = .pool →
    (s2.ctx.diffMode = .fwd ∨ s2.ctx.dreg x = none) → s2.failing p.pa 4 = false → w = natOfBytes (s2.bytes (canon p.pa) 4) →
    (counted = true ↔ ∃ j c, s2.ctx.progress = .lock j (some c)) →
    (i, new) ∈ ([
      (.rwlr d a, if w / 2 ^ 31 = 0 ∧ w % 2 ^ 16 < 2 ^ 16 - 1 ∧ (w / 2 ^ 30 % 2 = 0 ∨ w / 2 ^ 16 % 2 ^ 14 = 0) then some (w + 1) else none),
      (.rwlw d a, if w / 2 ^ 31 = 0 ∧ w % 2 ^ 16 = 0 then some (w + 2 ^ 31 - if counted then 2 ^ 16 else 0) else none),
      (.rwur d a, if 0 < w % 2 ^ 16 then some (w - 1) else none),
      (.rwuw d a, if w / 2 ^ 31 % 2 = 1 then some (w - 2 ^ 31) else none)] : List (Instr × Option Nat)) →
    (∀ v, new = some v → Writes i d (BitVec.ofNat 64 w) (s2.poke (canon p.pa) (bytesOfNat 4 v)) s3 →
      exec i s = .next (retire s (tracedResult d 2 2 x p s3) {})) ∧
    (new = none → (i = .rwur d a ∨ i = .rwuw d a) → exec i s = .next ((trapBase s s2.ctx.pops none).takeTrap 0x1A (BitVec.ofNat 64 w)))

/-- R253, R254, R264, R265, R351: fences and locks (log entry 13). -/
def Obligations.FencesAndLocksComplete : Prop := FencesWaitAndReport ∧ LocksGrantAndRelease

/-! ## System -/

/-- R63: SYSR reads, and SYSW and a CONTROL_REGISTER_WRITE write, a register that the level reaches and a value that the
register admits; a SYSW to INSTRET is not counted (R68). The checks that fail trap in the order of R63, the loop registers'
own among them (R71). A write of a register that declares where adjoints or the tape lie waits for the strand's stores there
that are still to be answered. -/
def Obligations.ControlRegisterAccesses : Prop :=
  ∀ (s s1 : State) (d o : Opnd) (n : BitVec 12) (v : Word) (r : CReg),
    Solo s →
    (cregOf n = none →
      exec (.sysr d n) s = .next ((trapBase s s.ctx.pops none).takeTrap 0x01 (wordOf (.sysr d n))) ∧
      exec (.sysw o n) s = .next ((trapBase s s.ctx.pops none).takeTrap 0x01 (wordOf (.sysw o n)))) ∧
    (cregOf n = some r → r.reachedAt s.ctx.pl = false →
      exec (.sysr d n) s = .next ((trapBase s s.ctx.pops none).takeTrap 0x06 (wordOf (.sysr d n))) ∧
      exec (.sysw o n) s = .next ((trapBase s s.ctx.pops none).takeTrap 0x06 (wordOf (.sysw o n)))) ∧
    (cregOf n = some r → r.reachedAt s.ctx.pl = true →
      (Writes (.sysr d n) d (s.creg r) s s1 → exec (.sysr d n) s = .next (retire s s1 {})) ∧
      (Reads o s v s1 → r.reservedIn v = false → v &&& r.mustBeZero = 0 → s1.cregDenied r v = false →
        ((∀ l, r = .lstart l ∨ r = .lend l → (s1.ctx.loopAt l).active = false) →
          ((r.waitsDeclared = true → s1.declaredPosted = false) →
            exec (.sysw o n) s = .next (retire s (s1.putCreg r v) { count := r != .instret })) ∧
          (r.waitsDeclared = true → s1.declaredPosted = true → exec (.sysw o n) s = .next s)) ∧
        (∀ l, r = .lstart l ∨ r = .lend l → (s1.ctx.loopAt l).active = true →
          exec (.sysw o n) s = .next ((trapBase s s1.ctx.pops none).takeTrap 0x09 (n.setWidth 64)))) ∧
      (r.reservedIn v = false → v &&& r.mustBeZero = 0 → s.cregDenied r v = false →
        (∀ l, r = .lstart l ∨ r = .lend l → (s.ctx.loopAt l).active = false) → (r.waitsDeclared = true → s.declaredPosted = false) →
        exec (.controlRegisterWrite n v) s = .next (s.putCreg r v)) ∧
      (Reads o s v s1 →
        (r.reservedIn v = true ∨ v &&& r.mustBeZero ≠ 0 →
          exec (.sysw o n) s = .next ((trapBase s s1.ctx.pops none).takeTrap 0x01 (wordOf (.sysw o n)))) ∧
        (r.reservedIn v = false → v &&& r.mustBeZero = 0 → s1.cregDenied r v = true →
          exec (.sysw o n) s = .next ((trapBase s s1.ctx.pops none).takeTrap 0x06 (wordOf (.sysw o n))))))

/-- R9, R73, R74: outside a handler and with TVEC set, ECALL and BRK take their trap: it saves the unit's address, the
cause and the value, keeps the level in PPL, raises it to at least KERNEL, sets TRAP, gives the handler an empty history, and
goes to TVEC. In a handler ERET retires with EPC as its target, the level and TRAP restored, and keeps the holding buffer
where EPC is that of its unit (R45); outside one it traps with cause 0x01. It makes no branch record (log entry 72). -/
def Obligations.TrapsAreTakenAndReturnedFrom : Prop :=
  ∀ (s : State) (c : BitVec 12),
    Solo s →
    (s.ctx.trapBit = false → s.ctx.tvec ≠ 0 →
      ∀ i cause, (i, cause) ∈ ([(.ecall c, 0x08), (.brk c, 0x07)] : List (Instr × BitVec 8)) →
      ∃ t, exec i s = .next t ∧ t.ctx.epc = s.ctx.pc ∧ t.ctx.ecause = cause ∧ t.ctx.evalue = c.setWidth 64 ∧ t.ctx.pc = s.ctx.tvec ∧
        t.ctx.trapBit = true ∧ t.ctx.ppl = s.ctx.pl ∧ t.ctx.pl = (if s.ctx.pl = 0 then 1 else s.ctx.pl) ∧ t.ctx.rm = s.ctx.rm ∧
        t.ctx.satBit = s.ctx.satBit ∧ t.ctx.history = List.replicate 8 0 ∧ t.ctx.hist = s.ctx.hist ∧ t.ctx.x = s.ctx.x ∧ t.mem = s.mem) ∧
    (s.ctx.trapBit = true → s.ctx.epc.toNat % 4 = 0 →
      ∃ t, exec .eret s = .next t ∧ t = (retire s s { target := some s.ctx.epc }).mapCtx Ctx.eret ∧ t.ctx.trapBit = false ∧ t.ctx.pl = s.ctx.ppl ∧ t.ctx.ppl = s.ctx.ppl ∧
        t.ctx.history = s.ctx.hist ∧ t.ctx.x = s.ctx.x ∧ t.mem = s.mem ∧
        t.ctx.hold = (if s.ctx.epc = s.ctx.holdFor then s.ctx.hold else [])) ∧
    (s.ctx.trapBit = false → exec .eret s = .next ((trapBase s s.ctx.pops none).takeTrap 0x01 (wordOf .eret)))

/-! ## Operands -/

/-- R43 to R45, R59, R159, R163, R164: every form of a source that can be read gives its value: an x register without a
pending token (x0 gives 0), a history entry, the head of a ring that holds a slot, and the oldest word of a queue port or
of a receiver channel, which leaves it and is noted among the pops of the unit; a value that the holding buffer holds for
this unit comes before it, but in a handler. -/
def Sys2Proof.Statements.SourcesReadEveryForm : Prop :=
  ∀ (s : State) (v : Word) (vs : List Word),
    (∀ r, s.ctx.pend.getLsbD r.toNat = false → Reads (.x r) s (if r = 0 then 0 else s.ctx.x.get r.toFin) s) ∧
    (∀ n : BitVec 3, Reads (.hist n) s ((if s.ctx.trapBit then s.ctx.trapHist else s.ctx.hist).getD n.toNat 0) s) ∧
    (∀ h g, s.ctx.rings.get h.toFin = some g → 1 ≤ g.filled s.core → g.filled s.core ≤ g.slots →
      Reads (.ring h) s (BitVec.ofNat 64 (g.base.toNat + g.cons.toNat % g.slots * g.size)) s) ∧
    (s.ctx.hold = v :: vs → s.ctx.trapBit = false → s.ctx.pc = s.ctx.holdFor →
      (∀ q, Reads (.port q) s v (s.mapCtx fun k => { k with hold := vs })) ∧
      (∀ c, Reads (.chan c) s v (s.mapCtx fun k => { k with hold := vs }))) ∧
    ((s.ctx.hold = [] ∨ s.ctx.trapBit = true ∨ s.ctx.pc ≠ s.ctx.holdFor) →
      (∀ q, (s.ctx.ports.get q.toFin).results = v :: vs →
        ∃ P, Reads (.port q) s v (s.mapCtx fun k => { k with ports := P, pops := k.pops ++ [(.port q, v)] }) ∧
          P.get q.toFin = { s.ctx.ports.get q.toFin with results := vs } ∧
          ∀ q' : BitVec 2, q' ≠ q → P.get q'.toFin = s.ctx.ports.get q'.toFin) ∧
      (∀ c b, (s.ctx.chans.get c.toFin).bind = some b → b.recv = true → (s.ctx.chans.get c.toFin).held = v :: vs →
        ∃ C, Reads (.chan c) s v (s.mapCtx fun k => { k with chans := C, pops := k.pops ++ [(.chan c, v)] }) ∧
          C.get c.toFin = ⟨some b, vs⟩ ∧ ∀ c' : BitVec 3, c' ≠ c → C.get c'.toFin = s.ctx.chans.get c'.toFin))

/-- R44, R159, R163, R164, R169: where a source is not readable. A handle that is not bound or whose count passes its
slots, a port with neither a result nor a reservation, and a channel that is no bound receiver trap with cause 0x0B and
their specifier, before any pop of the unit takes effect; a pending token, an empty ring, a port with a reservation and an
empty receiver wait, the wait at a ring bound to a counter and at a channel being a receive (R209). -/
def Sys2Proof.Statements.UnreadableSourcesTrapOrWait : Prop :=
  ∀ (s : State) (d b : Opnd),
    Solo s → (s.ctx.hold = [] ∨ s.ctx.trapBit = true ∨ s.ctx.pc ≠ s.ctx.holdFor) →
    (∀ (o : Opnd) (spec : Word),
      ((∃ h, o = .ring h ∧ spec = 40 + h.setWidth 64 ∧ (s.ctx.rings.get h.toFin = none ∨
          ∃ g, s.ctx.rings.get h.toFin = some g ∧ g.slots < g.filled s.core)) ∨
        (∃ q, o = .port q ∧ spec = 48 + q.setWidth 64 ∧ (s.ctx.ports.get q.toFin).results = [] ∧ (s.ctx.ports.get q.toFin).reserved = 0) ∨
        (∃ c, o = .chan c ∧ spec = 56 + c.setWidth 64 ∧ ((s.ctx.chans.get c.toFin).bind = none ∨
          ∃ e, (s.ctx.chans.get c.toFin).bind = some e ∧ e.recv = false))) →
      exec (.add d o b) s = .next ((trapBase s [] none).takeTrap 0x0B spec)) ∧
    (∀ r, s.ctx.pend.getLsbD r.toNat = true → exec (.add d (.x r) b) s = .next s) ∧
    (∀ h g, s.ctx.rings.get h.toFin = some g → g.filled s.core = 0 →
      exec (.add d (.ring h) b) s = .next (if g.bound then s.inReceive (.ring h 1) else s)) ∧
    (∀ q, (s.ctx.ports.get q.toFin).results = [] → 0 < (s.ctx.ports.get q.toFin).reserved → exec (.add d (.port q) b) s = .next s) ∧
    (∀ c e, (s.ctx.chans.get c.toFin).bind = some e → e.recv = true → (s.ctx.chans.get c.toFin).held = [] →
      exec (.add d (.chan c) b) s = .next (s.inReceive (.chan c (s.ctx.pops.countP (fun p => p.1 == .chan c) + 1))))

/-- R43, R46, R59, R60, R162 to R164: every form of a destination that can be written takes the value. A result enters
the history as ^1, and its x register, but for x0; a channel's word is on its way to its peer; a port's word, where the
engine admits it, joins the command that is being built, which reserves its results at word 0 and passes to its engine
with its last word. -/
def Sys2Proof.Statements.DestinationsTakeEveryForm : Prop :=
  ∀ (s : State) (i : Instr) (v : Word),
    (∀ r, s.ctx.pend.getLsbD r.toNat = false →
      ∃ t, Writes i (.x r) v s t ∧ t = { s with core := { s.core with front := t.ctx } } ∧
        t.ctx = { s.ctx with x := t.ctx.x, hist := t.ctx.hist, trapHist := t.ctx.trapHist } ∧
        (r ≠ 0 → t.ctx.x.get r.toFin = v) ∧ (∀ r' : BitVec 5, r' ≠ r ∨ r = 0 → t.ctx.x.get r'.toFin = s.ctx.x.get r'.toFin) ∧
        (if s.ctx.trapBit then t.ctx.hist = s.ctx.hist ∧ t.ctx.trapHist = (v :: s.ctx.trapHist).take 8
          else t.ctx.trapHist = s.ctx.trapHist ∧ t.ctx.hist = (v :: s.ctx.hist).take 8)) ∧
    (∀ c b, (s.ctx.chans.get c.toFin).bind = some b → b.recv = false → s.heldAt s.core.id c b + s.movingFrom s.who c < 8 →
      Writes i (.chan c) v s { s with due := s.due ++ [⟨.channelWordArrival s.who c b.peer b.port v, none⟩] }) ∧
    (∀ q p (ws : List Word), p = s.ctx.ports.get q.toFin → portWordOk s q p.part v = true →
      (p.part = [] → p.results.length + p.reserved + cmdRes v ≤ 8) →
      (p.part ≠ [] → q = 3 → cmdCode (p.part.headD 0) ≠ 2 ∧ ¬(cmdCode (p.part.headD 0) = 1 ∧ p.part.length = 2)) →
      ws = p.part ++ [v] →
      ∃ P, P.get q.toFin = { p with part := if cmdLen (ws.headD 0) ≤ ws.length then [] else ws,
                                    reserved := p.reserved + if p.part = [] then cmdRes v else 0 } ∧
        (∀ q' : BitVec 2, q' ≠ q → P.get q'.toFin = s.ctx.ports.get q'.toFin) ∧
        Writes i (.port q) v s (if cmdLen (ws.headD 0) ≤ ws.length then (s.mapCtx fun k => { k with ports := P }).passCommand q ws
          else s.mapCtx fun k => { k with ports := P })) ∧
    (∀ p v0 v1 (ws : List Word), p = s.ctx.ports.get (3#2).toFin → portWordOk s 3 p.part v = true →
      (p.part = [v0, v1] → cmdCode v0 = 1 →
        ws = [v0, v1, v] ++ (List.range (rsendBytes v0 / 8)).map (fun j =>
          dwordAt (s.view (2 ^ 49 + s.core.id.toNat * 2 ^ 16 + v.toNat) (rsendBytes v0)) (8 * j)) → cmdLen v0 = 3 →
        Writes i (.port 3) v s ((s.mapCtx fun k => { k with ports := k.ports.set 3 { p with part := [] } }).passCommand 3 ws)) ∧
      (∀ r s1, p.part = [v0] → cmdCode v0 = 2 → cmdLen v0 = 2 → readLaunchRec (wordOf i) v s = .ok (r, s1) → ws = [v0, v] ++ r →
        Writes i (.port 3) v s ((s1.mapCtx fun k => { k with ports := k.ports.set 3 { p with part := [] } }).passCommand 3 ws)))

/-- R43 to R46, R162 to R164: what a source gives and a destination takes, in every form of a specifier. -/
def Obligations.OperandsTakeEveryForm : Prop := SourcesReadEveryForm ∧ DestinationsTakeEveryForm

/-- R43, R44, R162, R163: where a destination is not writable: an unbound channel, and a receiver, trap with cause 0x0B,
as a port's refused word does; a pending token waits. -/
def Sys2Proof.Statements.UnwritableDestinationsTrapOrWait : Prop :=
  ∀ (s s1 s2 : State) (a b : Opnd) (x y : Word),
    Solo s → Reads a s x s1 → Reads b s1 y s2 →
    (∀ c, ((s2.ctx.chans.get c.toFin).bind = none ∨ ∃ e, (s2.ctx.chans.get c.toFin).bind = some e ∧ e.recv = true) →
      exec (.add (.chan c) a b) s = .next ((trapBase s [] none).takeTrap 0x0B (56 + c.setWidth 64))) ∧
    (∀ q, (portWordOk s2 q (s2.ctx.ports.get q.toFin).part (x + y) = false ∨ (s2.ctx.ports.get q.toFin).part = [] ∧
        8 < (s2.ctx.ports.get q.toFin).results.length + (s2.ctx.ports.get q.toFin).reserved + cmdRes (x + y)) →
      exec (.add (.port q) a b) s = .next ((trapBase s s2.ctx.pops none).takeTrap 0x0B (48 + q.setWidth 64))) ∧
    (∀ r, s2.ctx.pend.getLsbD r.toNat = true → exec (.add (.x r) a b) s = .next s)

/-- R43, R44, R162 to R164, R169: the specifiers that cannot be read or written, and those that wait. -/
def Obligations.OperandsThatTrapOrWait : Prop := UnreadableSourcesTrapOrWait ∧ UnwritableDestinationsTrapOrWait

/-! ## Memory -/

/-- R234, R238: an address in local memory below 0xC000 goes to the byte of the core's own window, the same in every
mode and for every access; one from 0xC000 to 0xFFFF and an address that is not canonical do not translate, and neither does
an address below 0x10000 of a unit without local memory. -/
def Sys2Proof.Statements.LocalAddressesTranslate : Prop :=
  ∀ (s : State) (k : AccKind) (c : Bool) (va : Word) (q : Asker),
    (∀ id, q.core = some id → va.toNat < 0xC000 →
      s.xlate q k c va = .ok (⟨2 ^ 49 + id.toNat * 2 ^ 16 + va.toNat, true, true, false⟩, none)) ∧
    (va ≠ (va.setWidth 53).signExtend 64 ∨ 0xC000 ≤ va.toNat ∧ va.toNat < 0x10000 ∨ va.toNat < 0x10000 ∧ q.core = none →
      s.xlate q k c va = .error (if k = .fetch ∨ k = .load then 0x04 else 0x05))

/-- R240, R241, R154, R242, R245, R328: above local memory an access goes where its leaf says, where the leaf gives the
right and the place takes the access; else it takes cause 0x06. A walk that fails gives the cause of its access or of its
own. The page is strongly ordered in control space and where its KIND is 0. -/
def Sys2Proof.Statements.TranslationsFollowTheLeaf : Prop :=
  ∀ (s : State) (q : Asker) (k : AccKind) (c may : Bool) (va e : Word) (v pa : Nat) (w : Walked),
    canonicalVa va = true → 0x10000 ≤ va.toNat → v = va.toNat % 2 ^ 53 →
    (∀ x, s.entry q.cluster q.tenant v = .error x → s.xlate q k c va = .error (match x with
      | .translation => if k = .fetch ∨ k = .load then 0x04 else 0x05
      | .permission => 0x06
      | .memory => 0x0A)) ∧
    (s.entry q.cluster q.tenant v = .ok w → e = w.leaf.pte → pa = e.toNat % 2 ^ 52 / 2 ^ 13 * 2 ^ 13 + (v - w.leaf.va) →
      (may = true ↔ (k = .fetch → e.getLsbD 4 = true) ∧ (k = .load ∨ k = .atomic → e.getLsbD 2 = true) ∧
        (k = .store ∨ k = .atomic → e.getLsbD 3 = true) ∧ (q.user = true → e.getLsbD 5 = false) ∧
        (regionOf pa = .window → pa % 2 ^ 48 % 2 ^ 16 < (if k = .load ∨ k = .fetch then 0xE000 else 0xC000)) ∧
        (regionOf pa = .control → c = true) ∧ (regionOf pa = .fabric → e.getLsbD 8 = true) ∧
        (regionOf pa = .stackMem ∨ regionOf pa = .rank → s.stagingRow pa = false)) →
      s.xlate q k c va = if may then .ok (⟨pa, false, e.getLsbD 9, regionOf pa == .control || e.extractLsb' 6 2 == 0⟩, some w) else .error 0x06)

/-- R239 to R241: a walk reads one entry of a table at each level, where the table lies in a granule of memory that the
tenant owns and the entry meets no uncorrectable error. An entry that is valid and legal is a leaf, below the top level, or
names the table of the next level; its reserved bits are 0. -/
def Sys2Proof.Statements.WalksReadTheTables : Prop :=
  ∀ (s : State) (cl : BitVec 9) (tenant : BitVec 6) (va level table a n : Nat) (e : Word),
    level ≤ 3 → a = table + va / 2 ^ (13 + 10 * level) % 1024 * 8 → n = natOfBytes (s.bytes (canon a) 8) → e = BitVec.ofNat 64 n →
    ((s.ownsAt cl tenant table = false ∨ regionOf table = .control ∨ regionOf table = .fabric ∨ mapped table 8192 = false) →
      s.walkFrom cl tenant va level table = .error .permission) ∧
    (s.ownsAt cl tenant table = true → regionOf table ≠ .control → regionOf table ≠ .fabric → mapped table 8192 = true →
      (s.failing a 8 = true → s.walkFrom cl tenant va level table = .error .memory) ∧
      (s.failing a 8 = false →
        (e.getLsbD 0 = true → e.getLsbD 1 = true → level < 3 → e.extractLsb' 6 2 ≠ 3 → e.extractLsb' 10 3 = 0 → e.extractLsb' 58 6 = 0 →
          e.toNat % 2 ^ 52 / 2 ^ 13 % 2 ^ (10 * level) = 0 → s.walkFrom cl tenant va level table = .ok (e, level, [])) ∧
        (∀ l, level = l + 1 → e.getLsbD 0 = true → e.getLsbD 1 = false → e.extractLsb' 2 11 = 0 → e.extractLsb' 52 12 = 0 →
          s.walkFrom cl tenant va level table = match s.walkFrom cl tenant va l (e.toNat % 2 ^ 52 / 2 ^ 13 * 2 ^ 13) with
            | .ok (f, m, es) => .ok (f, m, (level, e) :: es)
            | .error x => .error x) ∧
        ((e.getLsbD 0 = false ∨ e.getLsbD 1 = true ∧ (level = 3 ∨ e.extractLsb' 6 2 = 3 ∨ e.extractLsb' 10 3 ≠ 0 ∨ e.extractLsb' 58 6 ≠ 0 ∨
            e.toNat % 2 ^ 52 / 2 ^ 13 % 2 ^ (10 * level) ≠ 0) ∨
          e.getLsbD 1 = false ∧ (level = 0 ∨ e.extractLsb' 2 11 ≠ 0 ∨ e.extractLsb' 52 12 ≠ 0)) →
          s.walkFrom cl tenant va level table = .error .translation)))

/-- R237, R238, R241, R243: a walk starts at XROOT's table, where XROOT is valid. Its leaf maps its page where no byte of it
lies below 0x10000, the whole page is mapped and its granules and the leaf's TENANT are the tenant's, in that order. -/
def Sys2Proof.Statements.WalksCheckTheirLeaf : Prop :=
  ∀ (s : State) (cl : BitVec 9) (tenant : BitVec 6) (va pa base size l : Nat) (x e : Word) (es : List (Nat × Word)) (err : WalkErr),
    x = (s.cluster cl).xroot → pa = e.toNat % 2 ^ 52 / 2 ^ 13 * 2 ^ 13 → size = 2 ^ (13 + 10 * l) → base = va / size * size →
    (x.getLsbD 0 = false → s.walk cl tenant va = .error .translation) ∧
    (x.getLsbD 0 = true →
      (s.walkFrom cl tenant va 3 (x.toNat % 2 ^ 52 / 2 ^ 13 * 2 ^ 13) = .error err → s.walk cl tenant va = .error err) ∧
      (s.walkFrom cl tenant va 3 (x.toNat % 2 ^ 52 / 2 ^ 13 * 2 ^ 13) = .ok (e, l, es) →
        (base < 0x10000 ∨ mapped pa size = false → s.walk cl tenant va = .error .translation) ∧
        (0x10000 ≤ base → mapped pa size = true →
          (s.ownsPage cl tenant pa size = false ∨ e.extractLsb' 52 6 ≠ tenant → s.walk cl tenant va = .error .permission) ∧
          (s.ownsPage cl tenant pa size = true → e.extractLsb' 52 6 = tenant →
            s.walk cl tenant va = .ok ⟨⟨base, size, e⟩, es.map fun n => ⟨n.1, va / 2 ^ (13 + 10 * n.1) * 2 ^ (13 + 10 * n.1), n.2⟩⟩))))

/-- R244: a translation uses the walk, an entry that a TLB of the cluster holds for the address, or the rest of the walk
from an entry that the walker cache holds; with none held it is the walk. What passed is held afterwards. -/
def Sys2Proof.Statements.TlbsHoldTranslations : Prop :=
  ∀ (s : State) (cl : BitVec 9) (tenant : BitVec 6) (va : Nat) (w : Walked),
    (s.entry cl tenant va = s.walk cl tenant va ∨
      (∃ t ∈ (s.cluster cl).tlb, t.va ≤ va ∧ va < t.va + t.size ∧ s.entry cl tenant va = .ok ⟨t, []⟩) ∨
      ∃ n ∈ (s.cluster cl).nodes, n.base = va / 2 ^ (13 + 10 * n.level) * 2 ^ (13 + 10 * n.level) ∧
        s.entry cl tenant va = s.walkAt cl tenant va (n.level - 1) (n.pte.toNat % 2 ^ 52 / 2 ^ 13 * 2 ^ 13)) ∧
    ((∀ t ∈ (s.cluster cl).tlb, ¬(t.va ≤ va ∧ va < t.va + t.size)) → (∀ n ∈ (s.cluster cl).nodes, n.base ≠ va / 2 ^ (13 + 10 * n.level) * 2 ^ (13 + 10 * n.level)) →
      s.entry cl tenant va = s.walk cl tenant va) ∧
    (w.leaf ∈ ((s.fill cl w).cluster cl).tlb ∧ (∀ n ∈ w.nodes, n ∈ ((s.fill cl w).cluster cl).nodes) ∧
      s.fill cl w = { s with clusters := (s.fill cl w).clusters, tick := (s.fill cl w).tick })

/-- R9, R154: a byte stored reads back, and every other byte of the package reads as before; so do the registers and
every other piece of the state. -/
def Sys2Proof.Statements.StoredBytesReadBack : Prop :=
  ∀ (s : State) (a x : Nat) (bs : List Byte),
    s.Inv →
    s.poke a bs = { s with mem := (s.poke a bs).mem, bad := (s.poke a bs).bad } ∧
    (∀ j, j < bs.length → (s.poke a bs).byte (a + j) = bs.getD j 0) ∧
    ((x < a ∨ a + bs.length ≤ x) → (s.poke a bs).byte x = s.byte x)

/-- R154, R237 to R241, R244: local addresses, page tables and permissions, the TLBs, and bytes that were written. -/
def Obligations.AddressesTranslateAndBytesReadBack : Prop :=
  LocalAddressesTranslate ∧ TranslationsFollowTheLeaf ∧ WalksReadTheTables ∧ WalksCheckTheirLeaf ∧ TlbsHoldTranslations ∧ StoredBytesReadBack

/-! ## Events -/

/-- The act a is the first that is due in s, and u is s with it taken off. -/
def Sys2Proof.Statements.Takes (a : Act) (s u : State) : Prop := (∃ t, s.due = ⟨a, t⟩ :: u.due) ∧ u = { s with due := u.due }

/-- The outgoing buffer takes a message or a launch, and its arrival is due (R200). -/
def Sys2Proof.Statements.outgoing (m : OutMsg) (act : Act) (s : State) : State :=
  { s with core := { s.core with outbox := s.core.outbox ++ [m] }, due := s.due ++ [⟨act, none⟩] }

/-- The trace entry of an engine command (R377). -/
def Sys2Proof.Statements.noted (va : Word) (info : BitVec 3) (s : State) : State := s.trace 2 va (3#2 ++ 0#3 ++ info) s.ctx.iaddr

/-- R200, R201: SEND and SENDM complete where the descriptor is legal, the destination is the tenant's and the outgoing
buffer holds fewer than 8: the message is on its way, with 8 bytes of the value, or with the bytes of local memory. A
descriptor that is not legal traps in the order of R201. -/
def Sys2Proof.Statements.MessagesLeaveTheCore : Prop :=
  ∀ (s s1 s2 : State) (a b : Opnd) (d v : Word) (f : Bool) (off len : Nat) (dest : CoreId) (ctr : BitVec 4) (pa : Word),
    Solo s → Reads a s d s1 → Reads b s1 v s2 →
    off = d.toNat % 2 ^ 16 → ctr = BitVec.ofNat 4 (d.toNat / 2 ^ 16) → dest = BitVec.ofNat 13 (d.toNat / 2 ^ 20) →
    len = d.toNat / 2 ^ 33 % 128 → pa = BitVec.ofNat 64 (2 ^ 49 + dest.toNat * 2 ^ 16 + off) →
    (d.toNat / 2 ^ 40 = 0 → s.tenantOf dest = s.tenant → s.ctx.phase ≠ 1 → s.core.outbox.length < 8 →
      (len = 0 → off % 8 = 0 → off + 8 ≤ 0xC000 →
        exec (.send a b) s = .next (retire s
          (noted pa 2 (outgoing (.msg dest (BitVec.ofNat 16 off) ctr false (bytesOfNat 8 v.toNat)) (.messageArrival s.core.id dest) s2)) {})) ∧
      (1 ≤ len → len ≤ 64 → off % 64 = 0 → v.toNat % 64 = 0 → off + 64 * len ≤ 0xC000 → v.toNat + 64 * len ≤ 0xC000 →
        s.failing (2 ^ 49 + s.core.id.toNat * 2 ^ 16 + v.toNat) (64 * len) = false →
        exec (.sendm a b f) s = .next (retire s (noted pa 2
          (outgoing (.msg dest (BitVec.ofNat 16 off) ctr f (s2.view (2 ^ 49 + s.core.id.toNat * 2 ^ 16 + v.toNat) (64 * len)))
            (.messageArrival s.core.id dest) s2)) {}))) ∧
    (d.toNat / 2 ^ 40 ≠ 0 ∨ len ≠ 0 → exec (.send a b) s = .next ((trapBase s s1.ctx.pops none).takeTrap 0x01 (wordOf (.send a b)))) ∧
    (d.toNat / 2 ^ 40 = 0 → len = 0 → off % 8 ≠ 0 →
      exec (.send a b) s = .next ((trapBase s s1.ctx.pops none).takeTrap 0x03 (BitVec.ofNat 64 off))) ∧
    (d.toNat / 2 ^ 40 = 0 → len = 0 → off % 8 = 0 → 0xC000 < off + 8 →
      exec (.send a b) s = .next ((trapBase s s1.ctx.pops none).takeTrap 0x1A (BitVec.ofNat 64 (max off 0xC000)))) ∧
    (d.toNat / 2 ^ 40 = 0 → len = 0 → off % 8 = 0 → off + 8 ≤ 0xC000 → s.tenantOf dest ≠ s.tenant →
      exec (.send a b) s = .next ((trapBase s s1.ctx.pops none).takeTrap 0x06 pa))

/-- R206: LAUNCH completes: the record of 32 bytes at its address leaves for its target, whose launch it is. -/
def Sys2Proof.Statements.LaunchesLeaveTheCore : Prop :=
  ∀ (s s1 s2 s3 : State) (a : Opnd) (x t pc a1 a2 : Word) (bs : List Byte),
    Solo s → Reads a s x s1 → x.toNat % 8 = 0 → memLoad x 32 false s1 = .ok (bs, s2) →
    t = BitVec.ofNat 64 (natOfBytes bs) → pc = BitVec.ofNat 64 (natOfBytes (bs.drop 8)) → a1 = BitVec.ofNat 64 (natOfBytes (bs.drop 16)) →
    a2 = BitVec.ofNat 64 (natOfBytes (bs.drop 24)) →
    t.toNat < 2 ^ 14 → pc.toNat % 4 = 0 → (t.getLsbD 13 = true → s2.ctx.pl ≠ 0) → s2.tenantOf (t.setWidth 13) = s2.tenant → s2.ctx.phase ≠ 1 →
    s2.core.outbox.length < 8 →
    traceCommandVa x (outgoing (.launch ⟨t.setWidth 13, t.getLsbD 13, pc, a1, a2⟩) (.launchArrival s.core.id (t.setWidth 13)) s2) = .ok ((), s3) →
    exec (.launch a) s = .next (retire s s3 {})

/-- R199 to R201, R206: messages and launches leave the core. -/
def Obligations.EventsLeaveTheCore : Prop := MessagesLeaveTheCore ∧ LaunchesLeaveTheCore

/-- R198, R203, R209: WAIT and WAITANY complete once the counter, or some counter of the mask, reaches the threshold,
with the counter's value, or the mask of those that do; else they wait in a receive. -/
def Obligations.ReceivesCompleteOrWait : Prop :=
  ∀ (s s1 s2 s3 : State) (d a b : Opnd) (k : BitVec 4) (m t r : Word),
    Solo s →
    (Reads b s t s1 →
      (((s.core.counters.get k.toFin).val - t.setWidth 32).toNat < 2 ^ 31 →
        Writes (.wait d k b) d ((s.core.counters.get k.toFin).val.setWidth 64) s1 s2 → exec (.wait d k b) s = .next (retire s s2 {})) ∧
      (2 ^ 31 ≤ ((s.core.counters.get k.toFin).val - t.setWidth 32).toNat →
        exec (.wait d k b) s = .next (s.inReceive (.counter k (t.setWidth 32))))) ∧
    (Reads a s m s1 → Reads b s1 t s2 →
      (m = 0 ∨ 2 ^ 16 ≤ m.toNat → exec (.waitany d a b) s = .next ((trapBase s s2.ctx.pops none).takeTrap 0x01 (wordOf (.waitany d a b)))) ∧
      (m ≠ 0 → m.toNat < 2 ^ 16 →
        (∀ j : Nat, r.getLsbD j = (decide (j < 16) && m.getLsbD j &&
          decide (((s.core.counters.get (BitVec.ofNat 4 j).toFin).val - t.setWidth 32).toNat < 2 ^ 31))) →
        (r ≠ 0 → Writes (.waitany d a b) d r s2 s3 → exec (.waitany d a b) s = .next (retire s s3 {})) ∧
        (r = 0 → exec (.waitany d a b) s = .next (s.inReceive (.any (m.setWidth 16) (t.setWidth 32))))))

/-- R204, R158, R160, R161: the counters, rings and lines change as their instructions say, and these complete. -/
def Sys2Proof.Statements.CountersRingsAndLinesChange : Prop :=
  ∀ (s s1 s2 s3 : State) (d a b : Opnd) (k : BitVec 4) (h : BitVec 3) (x y : Word) (g : Ring),
    Solo s → Reads a s x s1 →
    (exec (.ctradd k a) s = .next (retire s (s1.mapFocus fun c =>
      { c with counters := c.counters.set k.toNat ⟨(c.counters.get k.toFin).val + x.setWidth 32, (c.counters.get k.toFin).tag⟩ k.isLt }) {})) ∧
    (Reads b s1 y s2 →
      (y.toNat < 2 ^ 14 → exec (.ctrset k a b) s = .next (retire s (s2.mapFocus fun c =>
        { c with counters := c.counters.set k.toNat ⟨x.setWidth 32, y.setWidth 14⟩ k.isLt }) {})) ∧
      (2 ^ 14 ≤ y.toNat → exec (.ctrset k a b) s = .next ((trapBase s s2.ctx.pops none).takeTrap 0x01 (wordOf (.ctrset k a b)))) ∧
      (y = 0 → exec (.rset (.ring h) a b) s = .next (retire s (s2.mapCtx fun k => { k with rings := k.rings.set h.toNat none h.isLt }) {})) ∧
      (∀ ls zu : Nat, ls = y.toNat % 16 → zu = y.toNat / 16 % 128 → 1 ≤ ls → ls ≤ 8 → 1 ≤ zu → zu ≤ 64 → y.toNat < 2 ^ 16 →
        (y.toNat / 2 ^ 11 % 2 = 1 ∨ y.toNat / 2 ^ 12 = 0) → x.toNat % 128 = 0 → x.toNat + 2 ^ ls * (64 * zu) ≤ 0xC000 →
        g = ⟨x.setWidth 16, y.setWidth 16, 0, if y.toNat / 2 ^ 11 % 2 = 1 then (s.core.counters.get (y.extractLsb' 12 4).toFin).val else 0⟩ →
        exec (.rset (.ring h) a b) s =
          .next (retire s (s2.mapCtx fun k => { k with rings := k.rings.set h.toNat (some g) h.isLt }) {})) ∧
      (∀ n : Nat, n = y.toNat → (y ≠ 0 → x.toNat + 128 * n ≤ 0xC000) → x.toNat % 128 = 0 →
        ∃ F E, (∀ j, j < 384 → F.getLsbD j = if x.toNat / 128 ≤ j ∧ j < x.toNat / 128 + n then true else s.core.full.getLsbD j) ∧
          (∀ j, j < 384 → E.getLsbD j = if x.toNat / 128 ≤ j ∧ j < x.toNat / 128 + n then false else s.core.full.getLsbD j) ∧
          exec (.lfull a b) s = .next (retire s (s2.mapFocus fun c => { c with full := F }) {}) ∧
          exec (.lempty a b) s = .next (retire s (s2.mapFocus fun c => { c with full := E }) {}))) ∧
    (x.toNat < 0xC000 → Writes (.ltest d a) d (bit (s.core.full.getLsbD (x.toNat / 128))) s1 s3 →
      exec (.ltest d a) s = .next (retire s s3 {})) ∧
    (∀ w n, s1.ctx.rings.get h.toFin = some g → g.filled s1.core ≤ g.slots → n = x.toNat →
      (n ≤ g.filled s1.core → exec (.radvc h a) s =
        .next (retire s (s1.mapCtx fun k => { k with rings := k.rings.set h.toNat (some { g with cons := g.cons + x.setWidth 32 }) h.isLt }) {})) ∧
      (g.bound = false → g.filled s1.core + n ≤ g.slots → exec (.radvp h a) s =
        .next (retire s (s1.mapCtx fun k => { k with rings := k.rings.set h.toNat (some { g with prod := g.prod + x.setWidth 32 }) h.isLt }) {})) ∧
      (n ≤ g.filled s1.core → w = false → Writes (.rfill d h a w) d (BitVec.ofNat 64 (g.base.toNat + g.cons.toNat % g.slots * g.size)) s1 s3 →
        exec (.rfill d h a w) s = .next (retire s s3 {})) ∧
      (g.bound = false → g.filled s1.core + n ≤ g.slots → w = true →
        Writes (.rfill d h a w) d (BitVec.ofNat 64 (g.base.toNat + g.prod.toNat % g.slots * g.size)) s1 s3 →
        exec (.rfill d h a w) s = .next (retire s s3 {})))

/-- R164: RSET binds a channel that holds no word and from which none is on its way, to a core of its die, as sender or
receiver, or unbinds it. -/
def Sys2Proof.Statements.ChannelsAreBound : Prop :=
  ∀ (s s1 s2 : State) (c : BitVec 3) (a b : Opnd) (x y : Word),
    Solo s → Reads a s x s1 → Reads b s1 y s2 → (s2.ctx.chans.get c.toFin).held = [] → s2.movingFrom s2.who c = 0 →
    (y = 0 → exec (.rset (.chan c) a b) s =
      .next (retire s (s2.mapCtx fun k => { k with chans := k.chans.set c.toNat ⟨none, []⟩ c.isLt }) {})) ∧
    (y = 1 ∨ y = 3 → x.toNat / 2 ^ 11 % 4 = s.core.id.toNat / 2 ^ 11 → exec (.rset (.chan c) a b) s =
      .next (retire s (s2.mapCtx fun k => { k with
        chans := k.chans.set c.toNat ⟨some ⟨x.extractLsb' 0 13, x.extractLsb' 13 3, decide (y = 3)⟩, []⟩ c.isLt }) {})) ∧
    (y = 1 ∨ y = 3 → x.toNat / 2 ^ 11 % 4 ≠ s.core.id.toNat / 2 ^ 11 →
      exec (.rset (.chan c) a b) s = .next ((trapBase s s2.ctx.pops none).takeTrap 0x0B (56 + c.setWidth 64)))

/-- R157 to R161, R164, R197, R204: counters, rings, lines and channels. -/
def Obligations.CountersRingsLinesAndChannels : Prop := CountersRingsAndLinesChange ∧ ChannelsAreBound

/-- R202, R164, R284, R285, R216: what arrives at a core lands: a message's bytes, its lines and its counter; an
exchange payload; a channel word, at the end that names its sender. From another core in its compute phase it is
discarded and counted; while arrivals are held it waits. -/
def Obligations.ArrivalsLand : Prop :=
  ∀ (s u : State) (me dst : CoreId) (off : BitVec 16) (ctr : BitVec 4) (f : Bool) (data : List Byte) (before after : List OutMsg),
    s.Named →
    (Takes (.messageArrival me dst) s u →
      ((s.getCore dst).holding = true → exec .messageArrival s = .next s) ∧
      ((s.getCore dst).holding = false → (s.getCore me).outbox = before ++ .msg dst off ctr f data :: after →
        (∀ m ∈ before, ∀ o c g l, m ≠ .msg dst o c g l) →
        ∀ v : State, v = u.modCore me (fun c => { c with outbox := before ++ after }) →
        (me ≠ dst → (s.getCore dst).computing = true →
          exec .messageArrival s = .next (v.modCore dst fun c => { c with discards := c.discards + 1 })) ∧
        ((me = dst ∨ (s.getCore dst).computing = false) → 0 < data.length → off.toNat + data.length ≤ 0xC000 →
          ∃ F, exec .messageArrival s = .next ((v.poke (2 ^ 49 + dst.toNat * 2 ^ 16 + off.toNat) data).modCore dst fun c =>
              { c with full := F, counters := c.counters.set ctr.toNat
                        ⟨(c.counters.get ctr.toFin).val + 1, (c.counters.get ctr.toFin).tag⟩ ctr.isLt }) ∧
            ∀ j, j < 384 → F.getLsbD j =
              if f = true ∧ off.toNat / 128 ≤ j ∧ j ≤ (off.toNat + data.length - 1) / 128 then true else (s.getCore dst).full.getLsbD j))) ∧
    (∀ w, Takes (.xsendArrival w dst off data) s u → (s.getCore dst).holding = false →
      (w.core ≠ dst → (s.getCore dst).computing = true →
        exec .xsendArrival s = .next (u.modCore dst fun c => { c with discards := c.discards + 1 })) ∧
      ((w.core = dst ∨ (s.getCore dst).computing = false) →
        exec .xsendArrival s = .next (u.poke (2 ^ 49 + dst.toNat * 2 ^ 16 + off.toNat) data))) ∧
    (∀ (p dp : BitVec 3) (f : Who) w, Takes (.channelWordArrival f p dst dp w) s u →
      (s.otherEnd f.core p dst dp = none → exec .channelWordArrival s = .next s) ∧
      (∀ l k, s.otherEnd f.core p dst dp = some l → (s.getCore dst).ctxAt l = some k →
        ∃ t, exec .channelWordArrival s = .next t ∧ t.mem = s.mem ∧ t.due = u.due ∧
          ∃ k', (t.getCore dst).ctxAt l = some k' ∧ (k'.chans.get dp.toFin).held = (k.chans.get dp.toFin).held ++ [w] ∧ k'.x = k.x))

/-- R206 to R208: a launch that arrives takes the front slot where it is idle, else the shadow slot, else a place of the
launch queue, which holds 4, else it waits; a queued launch takes a slot that is idle. The context starts at the record's
PC, at KERNEL or USER level, with its two arguments in x1 and x2, its other registers at their reset values and the
slot's generation counted up. -/
def Obligations.LaunchesStartContexts : Prop :=
  ∀ (s u v : State) (me : CoreId) (r : LaunchRec) (k : Ctx) (slot : Bool) (c : Core),
    s.Named → c = s.getCore r.target → r.target ≠ me →
    k = { (Ctx.reset (((if slot then c.gen1 else c.gen0) + 1) ++ s.pkgid ++ c.id ++ BitVec.ofBool slot)) with
      x := k.x, pc := r.pc, status := if r.kl then 2 else 0, life := .live } →
    k.x = ((Vector.replicate 32 0).set 1 r.arg1).set 2 r.arg2 →
    ((∃ before after, Takes (.launchArrival me r.target) s u ∧ (s.getCore me).outbox = before ++ .launch r :: after ∧
        (∀ m ∈ before, ∀ q, m = .launch q → q.target ≠ r.target) ∧ v = u.modCore me (fun c => { c with outbox := before ++ after })) →
      (c.launchQ = [] → c.front.life = .idle → slot = c.frontSlot →
        ∃ t, exec .launchArrival s = .next t ∧ (t.getCore r.target).front = k ∧ (t.getCore r.target).shadow = c.shadow ∧ t.mem = s.mem ∧ t.due = u.due) ∧
      (c.launchQ = [] → c.front.life = .live → c.shadow.life = .idle → c.filling = none → slot = !c.frontSlot →
        ∃ t, exec .launchArrival s = .next t ∧ (t.getCore r.target).shadow = k ∧ (t.getCore r.target).front = c.front ∧ t.mem = s.mem) ∧
      ((c.launchQ ≠ [] ∨ c.front.life ≠ .idle ∧ (c.shadow.life ≠ .idle ∨ c.filling ≠ none)) → c.launchQ.length < 4 →
        exec .launchArrival s = .next (v.modCore r.target fun c => { c with launchQ := c.launchQ ++ [r] })) ∧
      (4 ≤ c.launchQ.length → exec .launchArrival s = .next s)) ∧
    (∀ q, Takes (.launchQueueStart r.target) s u → c.launchQ = r :: q → c.front.life = .idle → c.shadow.life = .idle → q = [] → slot = c.frontSlot →
      ∃ t, exec .launchQueueStart s = .next t ∧ (t.getCore r.target).front = k ∧ (t.getCore r.target).launchQ = [] ∧ t.mem = s.mem)

/-- R210, R212: what expires: a watchdog that still stands sends a probe along the edge of the receive and is armed again;
a probe goes on from core to core while each waits in a receive, and home at its origin names the lowest core met, whose
receive, where it still waits, traps with cause 0x0C; a countdown makes a forced swap due, where one is still requested. -/
def Sys2Proof.Statements.WatchesAndCountdownsExpire : Prop :=
  ∀ (s u : State) (id e : CoreId) (n : Nat) (seen : List CoreId) (r : Recv) (t : Nat),
    (s.due = ⟨.rxwatchExpiry id, some t⟩ :: u.due → u = { s with due := u.due } →
      ((s.getCore id).watchdog ≠ some t → exec .rxwatchExpiry s = .next u) ∧
      ((s.getCore id).watchdog = some t → (s.getCore id).receiving = some r → (s.getCore id).edgeOf r = some e → (s.getCore id).front.rxwatch ≠ 0 →
        ∃ v, exec .rxwatchExpiry s = .next v ∧ v.mem = s.mem ∧
          v.due = u.due ++ [⟨.probe e id 1 id [id], none⟩, ⟨.rxwatchExpiry id, some (s.cycle.toNat + (s.getCore id).front.rxwatch.toNat)⟩])) ∧
    (∀ origin low, Takes (.probe id origin n low seen) s u →
      (id = origin → exec .probe s = .next { u with due := u.due ++ [⟨.verdict low n seen, none⟩] }) ∧
      (id ≠ origin → id ∈ seen ∨ 8192 ≤ n ∨ (s.getCore id).receiving = none → exec .probe s = .next u) ∧
      (id ≠ origin → id ∉ seen → n < 8192 → (s.getCore id).receiving = some r → (s.getCore id).edgeOf r = some e → seen.length < 64 →
        ∃ v, exec .probe s = .next v ∧ v.mem = s.mem ∧
          v.due = u.due ++ [⟨.probe e origin (n + 1) (if id.toNat < low.toNat then id else low) (seen ++ [id]), none⟩])) ∧
    (Takes (.verdict id n seen) s u →
      (((s.getCore id).receiving = none ∨ (s.getCore id).probed ≠ some ((s.getCore id).front.ctxid, (s.getCore id).front.pc)) →
        exec .verdict s = .next u) ∧
      (id = s.core.id → Solo s → s.core.receiving = some r → s.core.probed = some (s.ctx.ctxid, s.ctx.pc) →
        exec .verdict s = .next (u.takeTrap 0x0C (BitVec.ofNat 64 n) n seen))) ∧
    (s.due = ⟨.swapCountdownExpiry id, some t⟩ :: u.due → u = { s with due := u.due } →
      ((s.getCore id).countdown = some t →
        exec .swapCountdownExpiry s = .next (u.modCore id fun c => { c with
          countdown := none
          swapDue := if (s.getCore id).requested then .since s.cycle.toNat else .no })) ∧
      ((s.getCore id).countdown ≠ some t → exec .swapCountdownExpiry s = .next u))

/-- R149, R192, R214: a spill takes the shadow context to the first free place of the save area, its slot then empty; a
fill brings it back into the empty shadow slot. A partial sum that it held is released. -/
def Sys2Proof.Statements.SpillsAndFillsMoveContexts : Prop :=
  ∀ (s u : State) (id : CoreId) (c : Core) (i : BitVec 2) (k : Ctx),
    s.Named → c = s.getCore id →
    (Takes (.spill id) s u →
      ((c.shadow.life = .live ∨ c.shadow.life = .notReady ∨ c.shadow.life = .draining) → c.shadow.gang.gang = false → c.spilling = none →
        c.filling = none → c.save.get i.toFin = none → (∀ j : BitVec 2, j.toNat < i.toNat → c.save.get j.toFin ≠ none) →
        ∃ t, exec .spill s = .next t ∧ (t.getCore id).spilling = some i ∧ t.due = u.due ++ [⟨.spillComplete id, none⟩] ∧ t.mem = s.mem) ∧
      (c.shadow.life = .idle ∨ c.shadow.gang.gang = true ∨ (∀ j : Fin 4, c.save.get j ≠ none) → exec .spill s = .next u)) ∧
    (Takes (.spillComplete id) s u → c.spilling = some i → c.front.life = .live → c.launchQ = [] → c.countdown = none →
      ∃ t, exec .spillComplete s = .next t ∧ t.mem = s.mem ∧ (t.getCore id).shadow.life = .idle ∧ (t.getCore id).spilling = none ∧
        ((t.getCore id).save.get i.toFin = some { c.shadow with mseq := c.shadow.mseq &&& 0x7FF, sums := [] } ∨
          c.shadow.life = .draining ∧ (t.getCore id).save.get i.toFin = none)) ∧
    (Takes (.fill id i) s u →
      (c.shadow.life ≠ .idle ∨ c.filling ≠ none → exec .fill s = .next s) ∧
      (c.shadow.life = .idle → c.filling = none → c.save.get i.toFin = none → exec .fill s = .next u) ∧
      (c.shadow.life = .idle → c.filling = none → c.save.get i.toFin = some k →
        ∃ t, exec .fill s = .next t ∧ (t.getCore id).filling = some i ∧ t.due = u.due ++ [⟨.fillComplete id, none⟩])) ∧
    (Takes (.fillComplete id) s u → c.filling = some i → c.save.get i.toFin = some k → k.life = .live → c.front.life = .live → c.spilling = none →
      ∃ t, exec .fillComplete s = .next t ∧ t.mem = s.mem ∧ (t.getCore id).shadow = k ∧ (t.getCore id).save.get i.toFin = none ∧ (t.getCore id).filling = none)

/-- R148, R149, R209 to R214: watches, countdowns, spills and fills; a spill takes the first free place (log entry 19). -/
def Obligations.TimesExpireAndContextsMove : Prop := WatchesAndCountdownsExpire ∧ SpillsAndFillsMoveContexts

/-! ## Copies and the exchange -/

/-- A command is issued (R162, R167, R268): the instruction retires, its token is pending, and the command, with what was in
force when it retired and the bytes it may touch, is outstanding; nothing of its work is done yet. s' is the state its operands and its descriptor
leave. -/
def Sys2Proof.Statements.Issues (i : Instr) (t : BitVec 5) (kind : CmdKind) (foot : List Foot) (act : Nat → Act) (s s' : State) : Prop :=
  ∃ u, exec i s = .next u ∧ u.ctx.pend = s'.ctx.pend ||| (1#32 <<< t.toNat) ∧
    u.cmds = s'.cmds ++ [⟨s'.nextCmd, s'.who, t, kind, s'.ctx.isUser, s'.tenant, s'.ctx.diffMode, s'.ctx.modPrimal, s'.ctx.regions,
      s'.ctx.satBit, s'.stagedTask s'.ctx.task, foot, [], none, 0, 0⟩] ∧
    u.nextCmd = s'.nextCmd + 1 ∧ u.due = s'.due ++ [⟨act s'.nextCmd, none⟩] ∧ u.mem = s'.mem ∧ u.ctx.x = s'.ctx.x ∧ u.ctx.v = s'.ctx.v ∧
    u.ctx.status = s'.ctx.status ∧ u.ctx.pc = (retire s s' {}).ctx.pc

/-- R166, R167, R316: the copies complete at once: a legal one of a core with fewer than 16 outstanding is issued. -/
def Sys2Proof.Statements.CopiesAreIssued : Prop :=
  ∀ (s s1 s2 s3 : State) (t : BitVec 5) (a b : Opnd) (f : Bool) (x y z : Word) (kind : CmdKind) (i : Instr) (n c : Nat),
    Solo s → Reads a s x s1 → Reads b s1 y s2 → Reads (.x t) s2 z s3 → n = z.toNat % 2 ^ 16 → c = z.toNat / 2 ^ 16 % 2 ^ 16 →
    (i = .copy t a b f ∧ kind = .copy x y z.toNat f ∧ 1 ≤ z.toNat ∧ z.toNat ≤ 2 ^ 24 ∨
      i = .copy2d t a b f ∧ kind = .copy2d x y n c (z.toNat / 2 ^ 32 % 2 ^ 16) (z.toNat / 2 ^ 48) f ∧ n ≠ 0 ∧ c ≠ 0 ∧
        (c = 1 ∨ n ≤ 16 * (z.toNat / 2 ^ 48)) ∨
      i = .gather t a b f ∧ kind = .gather x y n c f ∧ z.toNat < 2 ^ 32 ∧ 1 ≤ n ∧ n ≤ 4096 ∧ 1 ≤ c ∧ c ≤ 4096 ∧ y.toNat % 8 = 0 ∧
        y.toNat + 8 * c ≤ 0xC000 ∨
      i = .scatter t a b ∧ kind = .scatter x y n c ∧ z.toNat < 2 ^ 32 ∧ 1 ≤ n ∧ n ≤ 4096 ∧ 1 ≤ c ∧ c ≤ 4096 ∧ x.toNat % 8 = 0 ∧
        x.toNat + 8 * c ≤ 0xC000) →
    (kind.full = true → ∀ p ∈ kind.dests, p.1.toNat + p.2 ≤ 0xC000) →
    (s.ctx.diffMode = .rev → s.ctx.modPrimal = false → lowestRegion s.ctx.regions kind.rows = none) →
    s.cmds.countP (fun c => c.who.core == s.core.id && c.kind.isCopy) < 16 →
    Issues i t kind kind.copyFoot .copyComplete s s3

/-- R167, R316: where a COPY is refused: its count, then with F its destination outside local memory at the lowest such
address, then in REV mode a declared region at its lowest address. -/
def Sys2Proof.Statements.CopiesAreRefused : Prop :=
  ∀ (s s1 s2 s3 : State) (t : BitVec 5) (a b : Opnd) (f : Bool) (x y z : Word),
    Solo s → Reads a s x s1 → Reads b s1 y s2 → Reads (.x t) s2 z s3 →
    (z = 0 ∨ 2 ^ 24 < z.toNat → exec (.copy t a b f) s = .next ((trapBase s s3.ctx.pops none).takeTrap 0x01 (wordOf (.copy t a b f)))) ∧
    (z ≠ 0 → z.toNat ≤ 2 ^ 24 → f = true → 0xC000 < x.toNat + z.toNat →
      exec (.copy t a b f) s = .next ((trapBase s s3.ctx.pops none).takeTrap 0x1A (BitVec.ofNat 64 (max x.toNat 0xC000)))) ∧
    (z ≠ 0 → z.toNat ≤ 2 ^ 24 → f = false → s.ctx.diffMode = .rev → s.ctx.modPrimal = false →
      ∀ m, lowestRegion s.ctx.regions [(x, z.toNat), (y, z.toNat)] = some m →
        exec (.copy t a b f) s = .next ((trapBase s s3.ctx.pops none).takeTrap 0x12 (BitVec.ofNat 64 m)))

/-- R166, R167, R316: copies at their issue (log entry 41). -/
def Obligations.CopiesAreIssuedOrRefused : Prop := CopiesAreIssued ∧ CopiesAreRefused

/-- R168, R247, R268: an act of the copy unit moves the next element of its command (blocks that travel to or from another
package as one packet go together: R350), once the strand's earlier commands that share a byte with it are complete. With F
it sets the lines that no later element reaches. After the last element the token lands with the bytes moved; an element, or
a list entry, that meets a fault lands the error record. Of an element that meets a fault a free number of first bytes is
moved, where they meet none (log entry 41). -/
def Sys2Proof.Statements.TheCopyUnitGoesOn : Prop :=
  ∀ (s u v : State) (id n m : Nat) (c : Cmd) (dst src : Word) (e : Eng) (got : List RemoteVal) (cause : BitVec 8),
    Takes (.copyComplete id) s u →
    (s.cmd? id = none → exec .copyComplete s = .next u) ∧
    (s.cmd? id = some c → c.tag = none → s.cmdTurn c = false → exec .copyComplete s = .next s) ∧
    (s.cmd? id = some c → c.tag = none → s.cmdTurn c = true → s.listFails c = true →
      exec .copyComplete s = .next (u.finish c (1#1 ++ 0#7 ++ 0x0A#8 ++ BitVec.ofNat 48 c.moved))) ∧
    (s.cmd? id = some c → c.tag = none → s.cmdTurn c = true → s.listFails c = false → s.nextElem c = (dst, src, n) → m = s.together c →
      e = s.engOf c →
      (moveElem e dst src n (u, c.got) = .ok ((), (v, got)) →
        ∀ (F : BitVec 384) (w : State),
          (∀ j, j < 384 → F.getLsbD j = ((v.getCore c.who.core).full.getLsbD j ||
            (decide (dst.toNat / 128 ≤ j) && decide (j * 128 < dst.toNat + n) && (decide (c.kind.count ≤ c.step + m) ||
              decide ((j + 1) * 128 ≤ (c.kind.elem (v.listEntry c.who.core c.kind) (c.step + m)).1.toNat))))) → 0 < n →
          w = (if c.kind.full then v.modCore c.who.core (fun k => { k with full := F }) else v) →
          (c.kind.count ≤ c.step + m → exec .copyComplete s = .next (w.finish c (BitVec.ofNat 64 (c.moved + n)))) ∧
          (c.step + m < c.kind.count → exec .copyComplete s = .next { w with
            cmds := w.cmds.map fun d => if d.id = c.id then { d with step := c.step + m, moved := c.moved + n, got := [] } else d,
            due := w.due ++ [⟨.copyComplete c.id, none⟩] })) ∧
      (moveElem e dst src n (u, c.got) = .error (.fault cause) → ∀ p, p = u.partElem e dst src n →
        exec .copyComplete s = .next (p.finish c (1#1 ++ 0#7 ++ cause ++ BitVec.ofNat 48 c.moved)) ∧
        (0 < n → p = u ∨ p = u.drawn ∨ ∃ j q g, j < n ∧ moveBytes e dst src j (u, []) = .ok ((), (q, g)) ∧ p = q.drawn)) ∧
      (moveElem e dst src n (u, c.got) = .error .held → exec .copyComplete s = .next s) ∧
      (∀ va pa op, moveElem e dst src n (u, c.got) = .error (.issue va pa op) →
        exec .copyComplete s = .next (u.issueFor c (.copyComplete id) va pa op)))

/-- What the TLBs hold after a translation. -/
def Sys2Proof.Statements.filled (e : Eng) (t : Option Walked) (s : State) : State :=
  match t with
  | some w => s.fill e.asker.cluster w
  | none => s

/-- R168: the bytes of an element go from its source to its destination. In the local memory of the command's own core
every byte of the destination takes the byte that the source held before, and no other byte changes. An element within
one page each, read in the package and written to its pool or its stacks, takes the bytes as the strand reads them. And a
COPY within local memory whose last element is due completes so. -/
def Sys2Proof.Statements.ElementsTakeTheirSource : Prop :=
  ∀ (s u u1 u2 : State) (e : Eng) (id n d f : Nat) (c : Cmd) (dst src : Word) (ps pd : Phys) (ts td : Option Walked),
    d = 2 ^ 49 + e.who.core.toNat * 2 ^ 16 + dst.toNat → f = 2 ^ 49 + e.who.core.toNat * 2 ^ 16 + src.toNat →
    (u.Inv → e.asker.core = some e.who.core → dst.toNat + n ≤ 0xC000 → src.toNat + n ≤ 0xC000 → e.revFault dst n = false →
      e.revFault src n = false → u.failing f n = false →
      ∃ v, moveElem e dst src n (u, []) = .ok ((), (v, [])) ∧ v = { u with mem := v.mem, bad := v.bad } ∧
        (∀ j, j < n → v.byte (d + j) = (u.viewFor e f n).getD j 0) ∧ (∀ x, x < d ∨ d + n ≤ x → v.byte x = u.byte x)) ∧
    (dst.toNat % 512 + n ≤ 512 → src.toNat % 8192 + n ≤ 8192 → 0 < n → e.revFault dst n = false → e.revFault src n = false →
      u.xlate e.asker .load false src = .ok (ps, ts) → u1 = filled e ts u → e.dhFault src n ps = false → regionOf ps.pa ≠ .fabric →
      u1.inStep ps.pa n = false → u1.failing ps.pa n = false →
      u1.xlate e.asker .store false dst = .ok (pd, td) → u2 = filled e td u1 → e.dhFault dst n pd = false →
      (regionOf pd.pa = .pool ∨ regionOf pd.pa = .stackMem) → u2.inStep pd.pa n = false → e.task = none →
      moveElem e dst src n (u, []) = .ok ((), (u2.poke (canon pd.pa) (u1.viewFor e ps.pa n), []))) ∧
    (Takes (.copyComplete id) s u → s.cmd? id = some c → c.tag = none → c.got = [] → s.cmdTurn c = true → e = s.engOf c → c.kind = .copy dst src n false →
      0 < n → dst.toNat % 64 + n ≤ 64 → src.toNat % 512 + n ≤ 512 → dst.toNat + n ≤ 0xC000 → src.toNat + n ≤ 0xC000 →
      e.revFault dst n = false → e.revFault src n = false → s.failing f n = false → c.step = 0 →
      exec .copyComplete s = .next ((u.poke d (u.viewFor e f n)).finish c (BitVec.ofNat 64 (c.moved + n))))

/-- R168: the copy unit, and where the bytes go. -/
def Obligations.CopiesMoveTheirElements : Prop := TheCopyUnitGoesOn ∧ ElementsTakeTheirSource

/-- The state of an instruction that another core may retire, as it waits: what it popped on the way to s' is taken and stands
in the holding buffer; in a handler it is noted and taken later (R45). -/
def Sys2Proof.Statements.keepsPops (s s' : State) : State :=
  s.mapCtx fun k => if k.trapBit then { k with pops := s'.ctx.pops } else k.holdPops s'.ctx.pops (k.dropPops s'.ctx.pops)

/-- R231, R232: XPOSE arrives and waits with its token pending; once its exchange lets it, it retires. The exchange
starts when all cores of the cluster have arrived and none runs; every round of it moves one fragment of each core, and
after the last one every member's token lands with the mask of the slots that met an error. -/
def Sys2Proof.Statements.ExchangesMoveFragments : Prop :=
  ∀ (s s1 s2 u : State) (t : BitVec 5) (a b : Opnd) (f : Bool) (x y : Word) (cl : BitVec 9),
    (Solo s →
      (∀ i c d w k, s.ctx.progress = .xpose i c d .done → w = s.mapCtx Ctx.takeNoted → k = (if c = 0 then 0#3 else 2#3) →
        (f = true → exec (.xpose t a b f) s = .next (retire s (noted (c.setWidth 64) k w) {})) ∧
        (f = false → ∀ q, w.cmds.find? (fun q => q.who == w.who && q.kind == .xpose && q.step == 1) = some q →
          exec (.xpose t a b f) s = .next (retire s (noted (c.setWidth 64) k (w.finish q (BitVec.ofNat 64 q.moved))) {}))) ∧
      ((∀ i c d st, s.ctx.progress ≠ .xpose i c d st) → s.ctx.pend.getLsbD t.toNat = false → Reads a s x s1 → Reads b s1 y s2 →
        x.toNat % 128 = 0 → y.toNat % 128 = 0 → x.toNat + 1024 ≤ 0xC000 → y.toNat + 1024 ≤ 0xC000 →
        (x.toNat + 1024 ≤ y.toNat ∨ y.toNat + 1024 ≤ x.toNat) → s.ctx.diffMode = .fwd → s.ctx.phase ≠ 1 →
        s2.footBusy s2.who ((xposeFoot x y).flatMap (s2.footBytes s2.asker)) (fun _ => true) = false →
        exec (.xpose t a b f) s = .next (((keepsPops s s2).mapCtx fun k => { k with
          progress := .xpose (.xpose t a b f) (x.setWidth 16) (y.setWidth 16) .arrived
          pend := k.pend ||| (1#32 <<< t.toNat) }).offerExchange (clusterOf s.core.id)))) ∧
    (Takes (.transposeExchange cl) s u → (s.cluster cl).xrun = [] → ∀ ms v, u.arrivals cl = some ms → v = u.startExchange cl ms →
      exec .transposeExchange s = retireXposes (ms.map (·.1)) v ∧
      ((∀ m ∈ ms, m.2.2.2.2.2 = false) → u.Named → exec .transposeExchange s = .next v) ∧ v.mem = s.mem ∧ (v.cluster cl).round = 0 ∧
        v.due = u.due ++ [⟨.transposeExchange cl, some (s.cycle.toNat + 2)⟩] ∧
        (v.cluster cl).xrun.map (fun m => (m.who.core, m.t, m.dst, m.data)) =
          ms.map fun (id, _, t, a, b, _) => (id, t, b, s.mem.readBytes (2 ^ 49 + id.toNat * 2 ^ 16 + a.toNat) 1024)) ∧
    (∀ r i c j : Nat, ∀ m q, i < 16 → c = (i + r) % 16 → j < 16 → ((s.cluster cl).xperm.getD j 0).toNat = c →
      (∀ j', j' < j → ((s.cluster cl).xperm.getD j' 0).toNat ≠ c) →
      (s.cluster cl).xrun[i]? = some m → (s.cluster cl).xrun[c]? = some q → m.bad.getLsbD j = false →
      (s.moveFragment cl r i).mem =
        (s.poke (2 ^ 49 + q.who.core.toNat * 2 ^ 16 + (q.dst.toNat + 64 * i)) ((m.data.drop (64 * j)).take 64)).mem) ∧
    (∀ n, Takes (.transposeExchange cl) s u → (s.cluster cl).xrun ≠ [] →
      s.due.head? = some ⟨.transposeExchange cl, some n⟩ → exec .transposeExchange s = .next (u.exchangeRound cl n)) ∧
    (∀ ms rest w, Takes (.transposeExchangeComplete cl) s u → (s.cluster cl).xend = ms :: rest → w = u.setCluster cl { s.cluster cl with xend := rest } →
      exec .transposeExchangeComplete s = retireXposes (ms.map (·.who.core)) (ms.foldl State.endMember w)) ∧
    (∀ (m : XMember) q, (∀ k i c d, s.ctxOf m.who = some k → k.progress ≠ .xpose i c d .started) →
      s.cmds.find? (fun q => q.who == m.who && q.kind == .xpose && q.token == m.t && q.step == 0) = some q →
      s.endMember m = s.finish q (m.errs.setWidth 64))

/-! ## Gangs -/

/-- R222, R223, R226, R227: GANG completes as the last member arrives, with the number of its members, and GJOIN
with the position of its core; a member that comes earlier waits, with what it popped. GLEAVE takes a follower, whose leader
or own core the mask names, out of its gang; GREJOIN gives 0 to an attached follower and makes a detached one wait (log entries 42
and 45). -/
def Obligations.GangsFormAndPart : Prop :=
  ∀ (s s0 s1 s2 s3 : State) (d a : Opnd) (x : Word) (own l : BitVec 4) (mask : BitVec 16),
    Solo s → own = s.core.id.extractLsb' 0 4 → mask = x.setWidth 16 → s0 = (s.mapCtx fun k => { k with pops := [] }) →
    (Reads a s0 x s1 → s.ctx.gang.gang = false → s.ctx.gang.isIn = false →
      (x.toNat < 2 ^ 16 → mask.getLsbD own.toNat = true → 2 ≤ ((List.range 16).filter fun j => mask.getLsbD j).length →
        (s1.othersJoin own mask = false → exec (.gang d a) s = .next ((keepsPops s s1).mapCtx fun k => { k with progress := .gang (.gang d a) mask })) ∧
        (s1.othersJoin own mask = true → formGang own mask s1 = .ok ((), s2) →
          s2.ctx.gang.gang = true ∧ s2.ctx.gang.lead = true ∧ s2.ctx.gang.leader = own ∧ s2.ctx.gang.pos = 0 ∧ s2.ctx.gang.mask = mask ∧
          s2.ctx.gang.isIn = true ∧
          (Writes (.gang d a) d (BitVec.ofNat 64 ((List.range 16).filter fun j => mask.getLsbD j).length) s2 s3 →
            exec (.gang d a) s = .next ((retire s s3 {}).alignPc own (maskCores s3.core.id mask))))) ∧
      (x.toNat < 16 → l = x.setWidth 4 → l ≠ own →
        (∀ i m k, k = (s1.getCore (s.core.id.extractLsb' 4 9 ++ l)).front → k.progress = .gang i m → k.life = .live → m.getLsbD own.toNat = true →
          s1.othersJoin l m = true → formGang l m s1 = .ok ((), s2) →
          Writes (.gjoin d a) d ((positionOf l own m).setWidth 64) s2 s3 →
          exec (.gjoin d a) s = .next ((retire s s3 {}).alignPc l (maskCores s3.core.id m))) ∧
        ((∀ i m, (s1.getCore (s.core.id.extractLsb' 4 9 ++ l)).front.progress ≠ .gang i m) →
          exec (.gjoin d a) s = .next ((keepsPops s s1).mapCtx fun k => { k with progress := .gjoin (.gjoin d a) l })))) ∧
    (Reads a s x s1 →
      (x.toNat < 2 ^ 16 →
        exec (.gleave a) s = .next (retire s (if s.ctx.gang.gang = true ∧ (mask.getLsbD s.ctx.gang.leader.toNat = true ∨ mask.getLsbD own.toNat = true) ∨
          s.ctx.gang.gang = false ∧ s.ctx.gang.isIn = true then s1.mapCtx Ctx.leaveGang else s1) {})) ∧
      (2 ^ 16 ≤ x.toNat → exec (.gleave a) s = .next ((trapBase s s1.ctx.pops none).takeTrap 0x01 (wordOf (.gleave a)))) ∧
      (s.ctx.gang.isIn = true → s.ctx.gang.lead = false →
        (s.ctx.gang.gang = true → Writes (.grejoin d a) d 0 s1 s2 → exec (.grejoin d a) s = .next (retire s s2 {})) ∧
        (s.ctx.gang.gang = false → exec (.grejoin d a) s = .next (s.mapCtx fun k => { k with
          gang := { k.gang with rjw := true, rejoin := k.pc }
          progress := .rejoin (.grejoin d a) }))) ∧
      (s.ctx.gang.isIn = false → exec (.grejoin d a) s = .next ((trapBase s s1.ctx.pops none).takeTrap 0x1A s1.ctx.statusWord)))

/-- R230: XPTAB takes the 16 bytes at its address as the permutation of its cluster, where they are one and no exchange
runs. -/
def Sys2Proof.Statements.PermutationsAreTaken : Prop :=
  ∀ (s s1 s2 : State) (a : Opnd) (x : Word) (bs : List Byte) (cl : BitVec 9),
    Solo s → Reads a s x s1 → cl = clusterOf s.core.id →
    (x.toNat % 16 ≠ 0 → exec (.xptab a) s = .next ((trapBase s s1.ctx.pops none).takeTrap 0x03 x)) ∧
    (x.toNat % 16 = 0 → memLoad x 16 false s1 = .ok (bs, s2) →
      (∀ n : Nat, n < 16 → ∃ j, j < 16 ∧ (bs.getD j 0).toNat = n) → bs.length = 16 → clusterOf s2.core.id = cl → (s2.cluster cl).xrun = [] →
      ∃ t, exec (.xptab a) s = .next t ∧ t.mem = s2.mem ∧ t.ctx.x = s2.ctx.x ∧ t.ctx.pc = (retire s s2 {}).ctx.pc ∧
        ∀ j : Fin 16, ((t.cluster cl).perm.get j).toNat = (bs.getD j.val 0).toNat)

/-- R229 to R233: the transpose exchange and its table (log entry 46). -/
def Obligations.ExchangesAndPermutations : Prop := ExchangesMoveFragments ∧ PermutationsAreTaken

/-- R223, R224: a leader runs its unit alone while it has no attached follower; a follower of position p executes the
leader's unit p + 1 cycles after it (R3), with its own operands, and stays in the gang where its next PC is the leader's,
else it detaches. -/
def Obligations.FollowersExecuteTheLeadersUnit : Prop :=
  ∀ (s s1 s2 s3 f f1 f2 f3 r : State) (d a b : Opnd) (x y x' y' : Word) (id : CoreId) (k : Ctx),
    s.Named → s.ctx.gang.gang = true → s.ctx.gang.lead = true → s.gangAway s.core.id s.ctx.gang.mask = false →
    Reads a s x s1 → Reads b s1 y s2 → Writes (.add d a b) d (x + y) s2 s3 →
    (s.followersOf s.core.id s.ctx.gang.mask = [] → exec (.add d a b) s = .next (retire s s3 {})) ∧
    (s.followersOf s.core.id s.ctx.gang.mask = [id] → f = ((retire s s3 {}).lendHints [id] s.ctx.hints).asFollower id →
      (f.core.id = id → f.cycle = (retire s s3 {}).cycle + BitVec.ofNat 64 (f.ctx.gang.pos.toNat + 1)) ∧
      (Reads a f x' f1 → Reads b f1 y' f2 → Writes (.add d a b) d (x' + y') f2 f3 → k = (retire f f3 {}).ctx →
        r = { retire f f3 {} with cycle := (retire s s3 {}).cycle } →
        exec (.add d a b) s = .next ((if k.pc = (retire s s3 {}).ctx.pc then r else r.mapCtx Ctx.detach).focus s.core.id)))

/-! ## Huddles and supersteps -/

/-- The state with a huddle replaced. -/
def Sys2Proof.Statements.withHuddle (h : BitVec 12) (g : Huddle) (s : State) : State :=
  s.setDie (h.extractLsb' 10 2) { s.die (h.extractLsb' 10 2) with
    huddles := (s.die (h.extractLsb' 10 2)).huddles.set (h.toNat % 1024) g }

/-- R273, R275, R276: the huddle instructions complete: a registration enters the member in its mode, a signalling one
counting in EXPECT; an arrival is noted with the phase and counted; a drop takes the member out. A member that must wait
keeps its instruction. -/
def Obligations.HuddleMembersComeAndGo : Prop :=
  ∀ (s s1 s2 s3 : State) (d a b : Opnd) (x m : Word) (h : BitVec 12) (g g' : Huddle) (r : HReg),
    Solo s → Reads a s x s1 → x.toNat < 2 ^ 12 → h = x.setWidth 12 → g = s.huddle h → s.ownsHuddle h s.tenant = true →
    (Reads b s1 m s2 → m ≠ 0 → m.toNat ≤ 3 → g.member s.who = none → s.registrations s.who < 256 → s.dieRegistrations (h.extractLsb' 10 2) < 8192 →
      g' = { g with regs := g.regs ++ [⟨s.who, m.setWidth 2, false, false, 0, none, 0⟩], expect := if m = 2 then g.expect else g.expect + 1 } →
      Writes (.hreg d a b) d (g.phase.setWidth 64) (withHuddle h g' s2) s3 →
      exec (.hreg d a b) s = .next (retire s s3 {})) ∧
    (g.member s.who = none → exec (.hdrop a) s = .next ((trapBase s s1.ctx.pops none).takeTrap 0x0F (BitVec.ofNat 64 (h.toNat % 1024)))) ∧
    (g.member s.who = some r →
      (g' = { g with regs := g.regs.filter (·.who != s.who),
                     leaving := if r.mode ≠ 2 ∧ r.arr = true then g.leaving + 1 else g.leaving,
                     expect := if r.mode ≠ 2 ∧ r.arr = false then g.expect - 1 else g.expect } →
        exec (.hdrop a) s = .next (retire s (withHuddle h g' s1) {})) ∧
      (r.mode ≠ 2 → r.held = none → r.arr = false →
        g' = { g with regs := g.regs.map (fun r => if r.who = s.who then { r with arr := true, ap := g.phase } else r),
                      arrived := g.arrived + 1 } →
        Writes (.harr d a) d (g.phase.setWidth 64) (withHuddle h g' s1) s3 →
        exec (.harr d a) s = .next (retire s s3 {})) ∧
      (r.mode ≠ 2 → r.held ≠ none ∨ r.arr = true → exec (.harr d a) s = .next (s.mapCtx fun k => { k with progress := .barrier (.harr d a) h false })) ∧
      (r.mode ≠ 2 → g' = { g with regs := g.regs.filter (·.who != s.who), leaving := g.leaving + 1,
                                  arrived := if r.arr then g.arrived else g.arrived + 1 } →
        Writes (.hdarr d a) d ((if r.arr then r.ap else g.phase).setWidth 64) (withHuddle h g' s1) s3 →
        exec (.hdarr d a) s = .next (retire s s3 {})) ∧
      (Reads b s1 m s2 → r.mode ≠ 1 →
        (r.held = none → (g.phase - m.setWidth 32).toNat < 2 ^ 31 → Writes (.hwait d a b) d (g.phase.setWidth 64) s2 s3 →
          exec (.hwait d a b) s = .next (retire s s3 {})) ∧
        ((r.held ≠ none ∨ 2 ^ 31 ≤ (g.phase - m.setWidth 32).toNat) →
          exec (.hwait d a b) s = .next ((withHuddle h { g with regs := g.regs.map fun r => if r.who = s.who then { r with goal := m.setWidth 32 } else r } s).mapCtx
            fun k => { k with progress := .barrier (.hwait d a b) h false }))) ∧
      (r.mode = 3 →
        (r.held = none → r.wt = false → r.arr = false → exec (.hsync d a) s = .next (withHuddle h
          { g with regs := g.regs.map (fun r => if r.who = s.who then { r with arr := true, ap := g.phase, wt := true } else r), arrived := g.arrived + 1 }
          (s.mapCtx fun k => { k with progress := .barrier (.hsync d a) h false }))) ∧
        (r.held = none → r.wt = true → g.phase ≠ r.ap →
          Writes (.hsync d a) d (g.phase.setWidth 64)
            (withHuddle h { g with regs := g.regs.map fun r => if r.who = s.who then { r with wt := false } else r } s1) s3 →
          exec (.hsync d a) s = .next (retire s s3 {})) ∧
        (r.held ≠ none ∨ r.wt = true ∧ g.phase = r.ap →
          exec (.hsync d a) s = .next (s.mapCtx fun k => { k with progress := .barrier (.hsync d a) h false }))))

/-- R276 to R278: as a cycle ends, the phase of a huddle whose EXPECT members have arrived advances by 1, its arrivals
cleared, those who left no longer expected; the release of the members that wait for it is due after the delay, and each is
held until then. Else nothing changes. The release ends the waits whose time has come. -/
def Obligations.HuddlePhasesComplete : Prop :=
  ∀ (s u : State) (h : BitVec 12) (g : Huddle) (n : Nat) (due : HReg → Bool),
    g = s.huddle h → n = s.cycle.toNat + (if g.regs.all fun r => r.who.core.extractLsb' 11 2 == h.extractLsb' 10 2 then 48 else 320) →
    (∀ r, due r = true ↔ ∃ t, r.held = some t ∧ t ≤ s.cycle.toNat) →
    (g.arrived = g.expect → 0 < g.expect →
      s.testHuddle h = { withHuddle h ⟨g.phase + 1, g.expect - g.leaving, 0, 0,
          g.regs.map fun r => { r with arr := false, held := if r.held = none ∧ s.awaits h r (g.phase + 1) = true then some n else r.held }⟩ s with
        due := s.due ++ [⟨.huddleRelease (h.extractLsb' 10 2) (h.extractLsb' 0 10), some n⟩] }) ∧
    (g.arrived ≠ g.expect ∨ g.expect = 0 → s.testHuddle h = s) ∧
    (Takes (.huddleRelease (h.extractLsb' 10 2) (h.extractLsb' 0 10)) s u →
      ((∀ r ∈ g.regs, due r = false) → ∃ t, exec .huddleRelease s = .next t ∧ t.ctx = s.ctx ∧ t.mem = s.mem ∧ t.huddle h = g) ∧
      (∀ r d a v, g.regs.filter due = [r] → r.who = s.who → s.ctx.follows = false → s.ctx.life = .live → s.core.busy ≤ s.cycle.toNat →
        s.ctx.progress = .barrier (.hsync d a) h false →
        v = withHuddle h { g with regs := g.regs.map fun r => if due r then { r with held := none } else r } u →
        exec .huddleRelease s = exec (.hsync d a) v))

/-- R280 to R285: SSTEP enters a superstep from PHASE 0 with 1, or gives 0 with E, and then moves on at its huddle: from
the compute phase to the exchange phase, from that to the next compute phase, with E out of the superstep. -/
def Sys2Proof.Statements.SuperstepsGoRound : Prop :=
  ∀ (s s1 s2 s3 : State) (d a : Opnd) (e : Bool) (x : Word) (h : BitVec 12) (r : HReg) (p : BitVec 2) (compute : Bool),
    Solo s → Reads a s x s1 → h = x.setWidth 12 → x.toNat < 2 ^ 12 →
    (s.ctx.phase = 0 → Writes (.sstep d a e) d (if e then 0 else 1)
        (if e then s1 else s1.mapCtx fun k => { k with phase := 1, domain := h }) s2 →
      exec (.sstep d a e) s = .next (retire s s2 {})) ∧
    (s.ctx.phase ≠ 0 → h ≠ s.ctx.domain →
      exec (.sstep d a e) s = .next ((trapBase s s1.ctx.pops none).takeTrap 0x0F (BitVec.ofNat 64 (h.toNat % 1024)))) ∧
    (s.ctx.phase ≠ 0 → h = s.ctx.domain → (s.huddle h).member s.who = some r → r.mode = 3 → r.held = none → r.wt = true →
      (s.huddle h).phase ≠ r.ap → (s.ctx.phase = 3 → s.sendsLanded s.who = true) →
      s.ctx.progress = .barrier (.sstep d a e) h compute → p = (if e then 0 else if compute then 3 else 1) →
      s2 = withHuddle h { s.huddle h with regs := (s.huddle h).regs.map fun r => if r.who = s.who then { r with wt := false } else r } s1 →
      Writes (.sstep d a e) d (p.setWidth 64) (s2.mapCtx fun k => { k with
        phase := p, domain := if p = 0 then 0 else k.domain, slotBase := if p = 3 then s.cycle.toNat else k.slotBase }) s3 →
      exec (.sstep d a e) s = .next ((retire s s3 {}).settle s.core.id))

/-- R281, R282, R284: XTAB takes a table of legal slots, and XSEND sends the bytes of its slot in the cycle of the slot,
waits before it and traps where it comes after it, and outside the exchange phase. -/
def Sys2Proof.Statements.ExchangeSlotsAreSent : Prop :=
  ∀ (s s1 s2 s3 : State) (a b : Opnd) (x n : Word) (bs : List Byte) (es : List XSlot) (e : XSlot) (dest : CoreId) (off t : Nat),
    Solo s →
    (s.ctx.phase ≠ 3 → Reads a s x s1 → Reads b s1 n s2 → x.toNat % 16 = 0 → 1 ≤ n.toNat → n.toNat ≤ 256 →
      loadEntries (spans x (16 * n.toNat)) s2 = .ok (bs, s3) → (List.range n.toNat).map (xslotOf bs) = es.map some →
      ∃ u, exec (.xtab a b) s = .next u ∧ u.core.slots = es ∧ u.core.slotTag = some s.ctx.ctxid ∧ u.mem = s3.mem ∧
        u.ctx.pc = (retire s s3 {}).ctx.pc) ∧
    (s.ctx.phase = 3 → exec (.xtab a b) s = .next ((trapBase s s.ctx.pops none).takeTrap 0x0D (BitVec.allOnes 64))) ∧
    (Reads a s x s1 → s.ctx.phase ≠ 3 → exec (.xsend a) s = .next ((trapBase s s1.ctx.pops none).takeTrap 0x0D x)) ∧
    (Reads a s x s1 → s.ctx.phase = 3 → s.core.slotTag = some s.ctx.ctxid → s.core.slots[x.toNat]? = some e →
      dest = e.dst.extractLsb' 16 13 → off = e.dst.toNat % 2 ^ 16 → e.core = s.core.id.extractLsb' 0 4 → off + e.bytes.toNat ≤ 0xC000 →
      s.tenantOf dest = s.tenant → t = s.ctx.slotBase + e.cycle.toNat →
      (s.cycle.toNat < t → exec (.xsend a) s = .next (s.mapCtx fun k => { k with progress := .slot t })) ∧
      (s.cycle.toNat = t ∨ t < s.cycle.toNat ∧ s.ctx.progress = .slot t → s.failing (2 ^ 49 + s.core.id.toNat * 2 ^ 16 + e.src.toNat) e.bytes.toNat = false →
        exec (.xsend a) s = .next (retire s (noted (BitVec.ofNat 64 (2 ^ 49 + dest.toNat * 2 ^ 16 + off)) 2
          { s1 with due := s1.due ++ [⟨.xsendArrival s.who dest (BitVec.ofNat 16 off)
            (s1.view (2 ^ 49 + s.core.id.toNat * 2 ^ 16 + e.src.toNat) e.bytes.toNat), none⟩] }) {})) ∧
      (t < s.cycle.toNat → s.ctx.progress ≠ .slot t → exec (.xsend a) s = .next ((trapBase s s1.ctx.pops none).takeTrap 0x0D x)))

/-- R280 to R285: supersteps and the exchange of a phase. -/
def Obligations.SuperstepsAndExchangesGoRound : Prop := SuperstepsGoRound ∧ ExchangeSlotsAreSent

/-! ## Vectors -/

/-- The generator's state after n draws, and the n-th draw (from 0) of a unit under a rounding mode (R83, R84). -/
def Sys2Proof.Statements.seedAfter : Nat → Word → Word
  | 0, x => x
  | n + 1, x => seedAfter n (nextSeed x)
def Sys2Proof.Statements.drawNo (m : RMode) (s : State) (n : Nat) : Nat :=
  if m = .stochastic then (seedAfter (n + 1) s.core.rngSeed).toNat / 2 ^ 48 else 0
def Sys2Proof.Statements.seedWhen (m : RMode) (s : State) (n : Nat) : Word :=
  if m = .stochastic then seedAfter n s.core.rngSeed else s.core.rngSeed

/-- Lane j is active under mask register m (R60, R121), and the number of active lanes below it. -/
def Sys2Proof.Statements.active (s : State) (m : BitVec 3) (j : Nat) : Bool := m == 0 || (s.ctx.p.get m.toFin).getLsbD j
def Sys2Proof.Statements.activeBelow (s : State) (m : BitVec 3) (j : Nat) : Nat := ((List.range j).filter (active s m)).length

/-- Lane j of a vector register (R120). -/
def Sys2Proof.Statements.lane (s : State) (r : BitVec 5) (t : ElemType) (j : Nat) : Nat :=
  (s.ctx.v.get r.toFin).toNat / 2 ^ (elemWidth t * j) % 2 ^ elemWidth t

/-- A unit that runs on s from s1 retires with vector register d alone changed and the generator at a seed: lane j of d
becomes what f gives, modulo 2^w. -/
def Sys2Proof.Statements.TakesLanes (i : Instr) (s s1 : State) (d : BitVec 5) (t : ElemType) (seed : Word) (f : Nat → Nat) : Prop :=
  ∃ V, exec i s = .next (retire s ((s1.mapCtx fun k => { k with v := V }).mapFocus fun c => { c with rngSeed := seed }) {}) ∧
    (∀ r : BitVec 5, r ≠ d → V.get r.toFin = s.ctx.v.get r.toFin) ∧
    ∀ j, j < elemLanes t → (V.get d.toFin).toNat / 2 ^ (elemWidth t * j) % 2 ^ elemWidth t = f j % 2 ^ elemWidth t

/-- R120 to R125, R135: the floating vector arithmetic and the special functions complete: each active lane takes the
rounded exact result, with one draw of its own under stochastic rounding; another keeps its value. -/
def Sys2Proof.Statements.VectorFloatResults : Prop :=
  ∀ (s : State) (d a b : BitVec 5) (m : BitVec 3) (t : ElemType) (g : Fmt) (rm : RMode) (i : Instr) (f : Machine.Num → Machine.Num → Machine.Num → Machine.Num),
    Solo s → elemFmt t = some g → rm = s.ctx.roundMode →
    (i, f) ∈ ([
      (.vadd d a b m t, fun x y _ => (addN rm x y).1),
      (.vsub d a b m t, fun x y _ => (addN rm x y.negate).1),
      (.vmul d a b m t, fun x y _ => (mulN x y).1),
      (.vfma d a b m t, fun x y z => (fmaN rm x y z).1),
      (.vexp2 d a m t, fun x _ _ => exp2N x),
      (.vrcp d a m t, fun x _ _ => rcpN x),
      (.vrsq d a m t, fun x _ _ => rsqN x),
      (.vlog2 d a m t, fun x _ _ => log2N x)] : List (Instr × (Machine.Num → Machine.Num → Machine.Num → Machine.Num))) →
    TakesLanes i s s d t (seedWhen rm s (activeBelow s m (elemLanes t))) fun j =>
      if active s m j then (Machine.round g rm s.ctx.saturates (drawNo rm s (activeBelow s m j))
          (f (Fmt.value g (lane s a t j)) (Fmt.value g (lane s b t j)) (Fmt.value g (lane s d t j)))).1
      else lane s d t j

/-- The signed value of a lane of width w (R120). -/
def Sys2Proof.Statements.sval (w x : Nat) : Int := (BitVec.ofNat w x).toInt

/-- R125, R126, R128: the integer and bitwise vector instructions, and the floating ones that do not round, complete:
each active lane takes the result, integers modulo 2^w; another keeps its value. -/
def Sys2Proof.Statements.VectorLaneResults : Prop :=
  ∀ (s : State) (d a b : BitVec 5) (m : BitVec 3) (t : ElemType) (w : Nat) (i : Instr) (f : Nat → Nat → Nat → Nat),
    Solo s → w = elemWidth t →
    ((i, f) ∈ ([
        (.vand d a b m t, fun x y _ => x &&& y),
        (.vor d a b m t, fun x y _ => x ||| y),
        (.vxor d a b m t, fun x y _ => x ^^^ y),
        (.vnot d a m t, fun x _ _ => 2 ^ w - 1 - x),
        (.vsll d a b m t, fun x y _ => x <<< (y % w)),
        (.vsrl d a b m t, fun x y _ => x >>> (y % w)),
        (.vsra d a b m t, fun x y _ => ((BitVec.ofNat w x).sshiftRight (y % w)).toNat),
        (.vpopc d a m t, fun x _ _ => ((List.range w).filter x.testBit).length)] : List (Instr × (Nat → Nat → Nat → Nat))) ∨
      elemFmt t = none ∧ (i, f) ∈ ([
        (.vadd d a b m t, fun x y _ => x + y),
        (.vsub d a b m t, fun x y _ => 2 ^ w + x - y),
        (.vmul d a b m t, fun x y _ => x * y),
        (.vfma d a b m t, fun x y z => z + x * y),
        (.vmin d a b m t, fun x y _ => if sval w y < sval w x then y else x),
        (.vmax d a b m t, fun x y _ => if sval w x < sval w y then y else x),
        (.vabs d a m t, fun x _ _ => if sval w x < 0 then 2 ^ w - x else x),
        (.vneg d a m t, fun x _ _ => 2 ^ w - x)] : List (Instr × (Nat → Nat → Nat → Nat))) ∨
      (∃ g, elemFmt t = some g ∧ (i, f) ∈ ([
        (.vmin d a b m t, fun x y _ => Fmt.pick g false x y),
        (.vmax d a b m t, fun x y _ => Fmt.pick g true x y),
        (.vabs d a m t, fun x _ _ => x % 2 ^ (w - 1)),
        (.vneg d a m t, fun x _ _ => if x < 2 ^ (w - 1) then x + 2 ^ (w - 1) else x - 2 ^ (w - 1)),
        (.vclass d a m t, fun x _ _ => Fmt.classBit g x)] : List (Instr × (Nat → Nat → Nat → Nat))))) →
    TakesLanes i s s d t s.core.rngSeed fun j =>
      if active s m j then f (lane s a t j) (lane s b t j) (lane s d t j) else lane s d t j

/-- R120 to R126, R135: lane-wise arithmetic. -/
def Obligations.VectorArithmeticResults : Prop := VectorFloatResults ∧ VectorLaneResults

/-- R127 to R129, R133: comparisons and mask operations complete and write their mask register, but for p0; VSEL, VIOTA,
VPERM and VBCAST write their lanes; MCNT and VEXT write an x register. -/
def Obligations.MasksAndMovements : Prop :=
  ∀ (s s1 s2 : State) (d a b x l : BitVec 5) (m p q : BitVec 3) (t : ElemType) (v : Word),
    Solo s →
    (∀ (i : Instr) (f : Nat → Bool),
      ((∃ c g, elemFmt t = some g ∧ i = .vcmp c a b p t ∧ (c, f) ∈ ([
          (.eq, fun j => decide (j < elemLanes t) && Fmt.eqv g (lane s a t j) (lane s b t j)),
          (.ne, fun j => decide (j < elemLanes t) && !Fmt.eqv g (lane s a t j) (lane s b t j)),
          (.lt, fun j => decide (j < elemLanes t) && Fmt.ltv g (lane s a t j) (lane s b t j)),
          (.le, fun j => decide (j < elemLanes t) && Fmt.lev g (lane s a t j) (lane s b t j)),
          (.un, fun j => decide (j < elemLanes t) && (Fmt.isNan g (lane s a t j) || Fmt.isNan g (lane s b t j)))] : List (VCond × (Nat → Bool)))) ∨
        (∃ c, elemFmt t = none ∧ i = .vcmp c a b p t ∧ (c, f) ∈ ([
          (.eq, fun j => decide (j < elemLanes t ∧ lane s a t j = lane s b t j)),
          (.ne, fun j => decide (j < elemLanes t ∧ lane s a t j ≠ lane s b t j)),
          (.lt, fun j => decide (j < elemLanes t ∧ sval (elemWidth t) (lane s a t j) < sval (elemWidth t) (lane s b t j))),
          (.le, fun j => decide (j < elemLanes t ∧ sval (elemWidth t) (lane s a t j) ≤ sval (elemWidth t) (lane s b t j))),
          (.ltu, fun j => decide (j < elemLanes t ∧ lane s a t j < lane s b t j)),
          (.leu, fun j => decide (j < elemLanes t ∧ lane s a t j ≤ lane s b t j))] : List (VCond × (Nat → Bool)))) ∨
        (i, f) ∈ ([
          (.mand p m q, fun j => active s m j && active s q j),
          (.mor p m q, fun j => active s m j || active s q j),
          (.mnot p m, fun j => !active s m j)] : List (Instr × (Nat → Bool)))) →
      ∃ P, exec i s = .next (retire s (s.mapCtx fun k => { k with p := P }) {}) ∧
        (∀ r : BitVec 3, r ≠ p ∨ p = 0 → P.get r.toFin = s.ctx.p.get r.toFin) ∧
        (p ≠ 0 → ∀ j, j < 128 → (P.get p.toFin).getLsbD j = f j)) ∧
    (TakesLanes (.vsel d a b m t) s s d t s.core.rngSeed fun j => if active s m j then lane s a t j else lane s b t j) ∧
    (TakesLanes (.viota d m t) s s d t s.core.rngSeed fun j => activeBelow s m j) ∧
    (TakesLanes (.vperm d a b m t) s s d t s.core.rngSeed fun j =>
      if active s m j then lane s a t (lane s b t j % elemLanes t) else lane s d t j) ∧
    (Reads (.x x) s v s1 → TakesLanes (.vbcast d x m t) s s1 d t s.core.rngSeed fun j => if active s m j then v.toNat else lane s d t j) ∧
    (Writes (.mcnt x m t) (.x x) (BitVec.ofNat 64 (activeBelow s m (elemLanes t))) s s2 → exec (.mcnt x m t) s = .next (retire s s2 {})) ∧
    (32 * q.toNat + l.toNat < elemLanes t →
      Writes (.vext x a l q t) (.x x) (if elemFmt t = none then BitVec.ofInt 64 (sval (elemWidth t) (lane s a t (32 * q.toNat + l.toNat)))
        else BitVec.ofNat 64 (lane s a t (32 * q.toNat + l.toNat))) s s2 →
      exec (.vext x a l q t) s = .next (retire s s2 {}))

/-- One level of the tree of R131, and its levels; the n-th result takes draw n. -/
def Sys2Proof.Statements.level (f : Nat → Nat → Nat → Nat) : Nat → List Nat → List Nat
  | n, x :: y :: r => f n x y :: level f (n + 1) r
  | _, xs => xs
def Sys2Proof.Statements.tree (f : Nat → Nat → Nat → Nat) : Nat → Nat → List Nat → List Nat
  | 0, _, xs => xs
  | k + 1, n, xs => tree f k (n + xs.length / 2) (level f n xs)

/-- The prefix sums of R132 from lane j on. -/
def Sys2Proof.Statements.sums (f : Nat → Nat → Nat → Nat) (act : Nat → Bool) (x old : Nat → Nat) : Nat → Nat → Nat → Nat → List Nat
  | 0, _, _, _ => []
  | k + 1, j, n, acc =>
    if act j then f n acc (x j) :: sums f act x old k (j + 1) (n + 1) (f n acc (x j)) else old j :: sums f act x old k (j + 1) n acc

/-- R131, R132, R134: the reductions complete with the tree's result in lane 0 and zero above it, the scan with the
prefix sums in its active lanes, VTOPK with the numbers of the greatest candidates, in their order, and all ones in
every other lane. -/
def Sys2Proof.Statements.VectorReductionsAndRanks : Prop :=
  ∀ (s : State) (d a : BitVec 5) (m k : BitVec 3) (t : ElemType) (rm : RMode) (w n : Nat) (leaf : Nat → List Nat),
    Solo s → rm = s.ctx.roundMode → w = elemWidth t → n = elemLanes t →
    (∀ e, leaf e = (List.range n).map fun j => if active s m j then lane s a t j else e) →
    (∀ g, elemFmt t = some g →
      (TakesLanes (.vrsum d a m t) s s d t (seedWhen rm s (n - 1)) fun j =>
        if j = 0 then (tree (fun r x y => (Machine.round g rm s.ctx.saturates (drawNo rm s r) (addN rm (Fmt.value g x) (Fmt.value g y)).1).1) 7 0
          (leaf (2 ^ (w - 1)))).headD 0 else 0) ∧
      (∀ (i : Instr) (up : Bool) (e : Nat), (i, up, e) ∈ ([
          (.vrmax d a m t, true, if t = .e4m3 then 0xFE else 2 ^ (w - 1) + Fmt.infMag g),
          (.vrmin d a m t, false, if t = .e4m3 then 0x7E else Fmt.infMag g)] : List (Instr × Bool × Nat)) →
        TakesLanes i s s d t s.core.rngSeed fun j => if j = 0 then (tree (fun _ x y => Fmt.pick g up x y) 7 0 (leaf e)).headD 0 else 0) ∧
      (TakesLanes (.vscan d a m t) s s d t (seedWhen rm s (activeBelow s m n)) fun j =>
        (sums (fun r x y => (Machine.round g rm s.ctx.saturates (drawNo rm s r) (addN rm (Fmt.value g x) (Fmt.value g y)).1).1) (active s m) (lane s a t)
          (lane s d t) n 0 0 (2 ^ (w - 1))).getD j 0)) ∧
    (elemFmt t = none →
      (∀ v : Int, v = ((leaf 0).map (sval w)).sum →
        TakesLanes (.vrsum d a m t) s s d t s.core.rngSeed fun j =>
          if j = 0 then ((if s.ctx.saturates then max (-2 ^ (w - 1)) (min (2 ^ (w - 1) - 1) v) else v) % 2 ^ w).toNat else 0) ∧
      (TakesLanes (.vrmax d a m t) s s d t s.core.rngSeed fun j =>
        if j = 0 then (((leaf (2 ^ (w - 1))).map (sval w)).foldl max (-2 ^ (w - 1)) % 2 ^ w).toNat else 0) ∧
      (TakesLanes (.vrmin d a m t) s s d t s.core.rngSeed fun j =>
        if j = 0 then (((leaf (2 ^ (w - 1) - 1)).map (sval w)).foldl min (2 ^ (w - 1) - 1) % 2 ^ w).toNat else 0) ∧
      (TakesLanes (.vscan d a m t) s s d t s.core.rngSeed fun j =>
        if active s m j then (((List.range (j + 1)).filter (active s m)).map (lane s a t)).sum else lane s d t j)) ∧
    (∀ (key : Nat → Int) (better : Nat → Nat → Bool),
      (∀ j, key j = match elemFmt t with
        | some g => if Fmt.isNan g (lane s a t j) then -(2 ^ 40) else Fmt.order g (lane s a t j)
        | none => sval w (lane s a t j)) →
      (∀ x y, better x y = (active s m x && decide (key y < key x ∨ key x = key y ∧ x < y))) →
      ∃ f : Nat → Nat, TakesLanes (.vtopk d a k m t) s s d t s.core.rngSeed f ∧
        (∀ c, c < n → active s m c = true → ((List.range n).filter fun x => better x c).length ≤ k.toNat →
          f ((List.range n).filter fun x => better x c).length = c) ∧
        (∀ j, j < n → k.toNat < j ∨ ((List.range n).filter (active s m)).length ≤ j → f j = 2 ^ w - 1))

/-- R79, R80, R86, R130: VCVT completes: a written lane takes the conversion of its source lane, exact where R86 gives it
so, else rounded with a draw of its own; a signalling NaN is quietened, in a lane of the same type too; an integer
saturates where saturation applies, and else wraps. -/
def Sys2Proof.Statements.VectorConversions : Prop :=
  ∀ (s : State) (d a : BitVec 5) (part : BitVec 2) (g t : ElemType) (m : BitVec 3) (rm : RMode) (w nd ns : Nat) (from' : Nat → Option Nat)
    (drawn : Nat → Nat),
    Solo s → rm = s.ctx.roundMode → w = elemWidth t → nd = elemLanes t → ns = elemLanes g →
    (∀ j, from' j = if ns = nd then some j else if nd < ns then some (part.toNat * nd + j)
      else if part.toNat * ns ≤ j ∧ j < (part.toNat + 1) * ns then some (j - part.toNat * ns) else none) →
    (∀ j, drawn j = ((List.range j).filter fun x => active s m x && (from' x).isSome).length) →
    (∀ p q, elemFmt g = some p → elemFmt t = some q →
      (g = t → TakesLanes (.vcvt d a part g m t) s s d t s.core.rngSeed fun j =>
        if active s m j then Fmt.quieten p (lane s a t j) else lane s d t j) ∧
      (g ≠ t → Fmt.widens p q = true → TakesLanes (.vcvt d a part g m t) s s d t s.core.rngSeed fun j =>
        match active s m j, from' j with
        | true, some x => Fmt.widen p q (lane s a g x)
        | _, _ => lane s d t j) ∧
      (g ≠ t → Fmt.widens p q = false → TakesLanes (.vcvt d a part g m t) s s d t (seedWhen rm s (drawn nd)) fun j =>
        match active s m j, from' j with
        | true, some x => (Machine.round q rm s.ctx.saturates (drawNo rm s (drawn j)) (Fmt.value p (lane s a g x))).1
        | _, _ => lane s d t j)) ∧
    (∀ p, elemFmt g = some p → elemFmt t = none →
      TakesLanes (.vcvt d a part g m t) s s d t (seedWhen rm s (drawn nd)) fun j =>
        match active s m j, from' j with
        | true, some x => (roundInt (-2 ^ (w - 1)) (2 ^ (w - 1) - 1) rm (drawNo rm s (drawn j)) (Fmt.value p (lane s a g x)) % 2 ^ w).toNat
        | _, _ => lane s d t j) ∧
    (∀ q, elemFmt g = none → elemFmt t = some q →
      TakesLanes (.vcvt d a part g m t) s s d t (seedWhen rm s (drawn nd)) fun j =>
        match active s m j, from' j with
        | true, some x => (Machine.round q rm s.ctx.saturates (drawNo rm s (drawn j)) (Machine.Num.ofInt (sval (elemWidth g) (lane s a g x)))).1
        | _, _ => lane s d t j) ∧
    (elemFmt g = none → elemFmt t = none →
      TakesLanes (.vcvt d a part g m t) s s d t s.core.rngSeed fun j =>
        match active s m j, from' j with
        | true, some x => ((if s.ctx.saturates then max (-2 ^ (w - 1)) (min (2 ^ (w - 1) - 1) (sval (elemWidth g) (lane s a g x)))
            else sval (elemWidth g) (lane s a g x)) % 2 ^ w).toNat
        | _, _ => lane s d t j)

/-- R130 to R134: reductions, ranks and conversions. -/
def Obligations.VectorReductionsAndConversions : Prop := VectorReductionsAndRanks ∧ VectorConversions

/-! ## Vector memory -/

/-- The addresses of the active lanes (R136): contiguous from base + o × 128, or base plus the lane's index. -/
def Sys2Proof.Statements.nearby (s : State) (base : Word) (o : BitVec 4) (m : BitVec 3) (t : ElemType) : List (Nat × Word) :=
  ((List.range (elemLanes t)).filter (active s m)).map fun j =>
    (j, base + BitVec.ofInt 64 (o.toInt * 128) + BitVec.ofNat 64 (j * (elemWidth t / 8)))
def Sys2Proof.Statements.indexed (s : State) (base : Word) (b : BitVec 5) (m : BitVec 3) (t : ElemType) : List (Nat × Word) :=
  ((List.range (elemLanes t)).filter (active s m)).map fun j =>
    (j, base + BitVec.ofInt 64 ((if elemWidth t = 32 then sval 32 (lane s b t j) else (lane s b t j : Int)) * (elemWidth t / 8 : Nat)))

/-- The trace entry of a vector access (R377): of its lowest active lane that leaves local memory. -/
def Sys2Proof.Statements.tracedLanes (kind : BitVec 2) (ls : List ((Nat × Word) × Phys)) (s : State) : State :=
  match ls.find? fun l => !l.2.own with
  | some l => s.trace 2 l.1.2 (kind ++ 7#3 ++ l.2.infoBits) s.ctx.iaddr
  | none => s

/-- The stores of active lanes, ascending, each performed at once. -/
def Sys2Proof.Statements.LanesStored (n : Nat) (v : Nat → Nat) : List ((Nat × Word) × Phys) → State → State → Prop
  | [], s, s' => s' = s
  | q :: r, s, s' => ∃ t, Stored q.1.2 q.2 (bytesOfNat n (v q.1.1)) s t ∧ LanesStored n v r t s'

/-- The places take their accesses at once: Ready, and no window of a core whose dump is being made. -/
def Sys2Proof.Statements.AllReady (s : State) (ps : List Phys) (n : Nat) : Prop :=
  ∀ p ∈ ps, Ready s p n ∧ ¬(regionOf p.pa = .window ∧ windowCore p.pa ≠ s.core.id ∧ (s.getCore (windowCore p.pa)).holding = true)

/-- The mode of R142 for plain accesses: FWD, or no active lane in a declared region. -/
def Sys2Proof.Statements.Plain (s : State) (n : Nat) (as : List (Nat × Word)) : Prop :=
  s.ctx.diffMode = .fwd ∨ ∀ a ∈ as, ∀ j, j < n → s.ctx.dreg (a.2 + BitVec.ofNat 64 j) = none

/-- R136 to R140: the vector loads complete: every active lane takes the element at its address, another keeps its value;
with F they wait until the lines are full. -/
def Obligations.VectorLoadsReadMemory : Prop :=
  ∀ (s s1 s2 : State) (d x b : BitVec 5) (f : Bool) (o : BitVec 4) (m : BitVec 3) (t : ElemType) (base : Word) (n : Nat) (i : Instr)
    (as : List (Nat × Word)) (ps : List Phys),
    Solo s → n = elemWidth t / 8 → Reads (.x x) s base s1 →
    (i = .vld d x f o m t ∧ as = nearby s base o m t ∨ i = .vldx d x b m t ∧ f = false ∧ as = indexed s base b m t) →
    (∀ a ∈ as, a.2.toNat % n = 0 ∧ (f = true → a.2.toNat < 0xC000)) → Plain s n as →
    checkAll .load false (as.map Prod.snd) s1 = .ok (ps, s2) →
    ((f = true ∧ ∃ a ∈ as, s.core.full.getLsbD (a.2.toNat / 128) = false) → exec i s = .next s) ∧
    ((f = true → ∀ a ∈ as, s.core.full.getLsbD (a.2.toNat / 128) = true) → AllReady s2 ps n → (∀ p ∈ ps, s2.failing p.pa n = false) →
      ∃ V, exec i s = .next (retire s (tracedLanes 0 (as.zip ps) (s2.mapCtx fun k => { k with v := V })) {}) ∧
        (∀ r : BitVec 5, r ≠ d → V.get r.toFin = s.ctx.v.get r.toFin) ∧
        (∀ q ∈ as.zip ps, (V.get d.toFin).toNat / 2 ^ (elemWidth t * q.1.1) % 2 ^ elemWidth t = natOfBytes (s2.view q.2.pa n)) ∧
        ∀ j, j < elemLanes t → active s m j = false → (V.get d.toFin).toNat / 2 ^ (elemWidth t * j) % 2 ^ elemWidth t = lane s d t j)

/-- R136 to R140: the vector stores complete: every active lane is stored at its address, in ascending order; with F
their lines become full. -/
def Obligations.VectorStoresWriteMemory : Prop :=
  ∀ (s s1 s2 s3 : State) (r x b : BitVec 5) (f : Bool) (o : BitVec 4) (m : BitVec 3) (t : ElemType) (base : Word) (n : Nat) (i : Instr)
    (as : List (Nat × Word)) (ps : List Phys),
    Solo s → n = elemWidth t / 8 → Reads (.x x) s base s1 →
    (i = .vst r x f o m t ∧ as = nearby s base o m t ∨ i = .vstx r x b m t ∧ f = false ∧ as = indexed s base b m t) →
    (∀ a ∈ as, a.2.toNat % n = 0 ∧ (f = true → a.2.toNat < 0xC000)) → Plain s n as →
    checkAll .store false (as.map Prod.snd) s1 = .ok (ps, s2) → (∀ p ∈ ps, ¬(s2.ctx.phase = 1 ∧ p.own = false ∧ regionOf p.pa = .window)) →
    AllReady s2 ps n → LanesStored n (lane s r t) (as.zip ps) s2 s3 →
    ∃ F, exec i s = .next (retire s (tracedLanes 1 (as.zip ps) (s3.mapFocus fun c => { c with full := F })) {}) ∧
      ∀ j, j < 384 → F.getLsbD j = (s3.core.full.getLsbD j || f && as.any fun a => a.2.toNat / 128 == j)

/-- R141: VLDBIT and VSTBIT complete: lane i's field of w bits stands at bit address BA + w × i; with the advance form BA
moves past every lane. The words lie in the package; a lane reads and writes its own as LDBIT and STBIT do. -/
def Sys2Proof.Statements.VectorBitFields : Prop :=
  ∀ (s s1 s2 : State) (d : BitVec 5) (adv : Bool) (kn : BitVec 2) (w1 : BitVec 5) (m : BitVec 3) (t : ElemType) (ba : Word) (w : Nat)
    (at' : Nat → Word) (ls : List LaneAt) (val : Nat → Nat),
    Solo s → w = w1.toNat + 1 → ba = s.ctx.ba.get kn.toFin → (∀ j, at' j = ba + BitVec.ofNat 64 (w * j)) → s.ctx.diffMode = .fwd →
    (lanesAt .load (((List.range (elemLanes t)).filter (active s m)).flatMap fun j => (bitWords (at' j) w).map fun a => (j, a)) s = .ok (ls, s1) →
      (∀ l ∈ ls, regionOf l.p.pa ≠ .fabric) → (∀ j, j < elemLanes t → active s m j = true → loadWords (laneWords ls j) s1 = .ok (val j, s1)) →
      ∃ V, exec (.vldbit d adv kn w1 m t) s = .next (retire s (tracedLanes 0 (ls.map fun l => ((l.lane, l.va), l.p))
          ((s1.mapCtx fun k => { k with v := V }).mapCtx fun k => if adv then k.setBa kn (at' (elemLanes t)) else k)) {}) ∧
        (∀ r : BitVec 5, r ≠ d → V.get r.toFin = s.ctx.v.get r.toFin) ∧
        ∀ j, j < elemLanes t → (V.get d.toFin).toNat / 2 ^ (elemWidth t * j) % 2 ^ elemWidth t =
          (if active s m j then val j / 2 ^ ((at' j).toNat % 32) % 2 ^ w else lane s d t j) % 2 ^ elemWidth t) ∧
    (lanesAt .store (((List.range (elemLanes t)).filter (active s m)).flatMap fun j => (bitWords (at' j) w).map fun a => (j, a)) s = .ok (ls, s1) →
      mergeLanes (s.ctx.v.get d.toFin) t ba w ls ((List.range (elemLanes t)).filter (active s m)) s1 = .ok ([], s2) →
      exec (.vstbit d adv kn w1 m t) s = .next (retire s (tracedLanes 1 (ls.map fun l => ((l.lane, l.va), l.p))
        (s2.mapCtx fun k => if adv then k.setBa kn (at' (elemLanes t)) else k)) {}))

/-- The updates of active lanes at the bank ALU, ascending: what each found (R146). -/
def Sys2Proof.Statements.LanesUpdated (fn : BankFn) (t : BankType) (v : Nat → Nat) : List ((Nat × Word) × Phys) → State → (Nat → Nat) → State → Prop
  | [], s, _, s' => s' = s
  | q :: r, s, old, s' => old q.1.1 = natOfBytes (s.bytes (canon q.2.pa) t.bytes) ∧
      LanesUpdated fn t v r (s.poke (canon q.2.pa) (bytesOfNat t.bytes (bankOp fn t (old q.1.1) (v q.1.1) 0).1)) old s'

/-- R145, R146: the vector atomics complete: the active lanes update their elements in ascending order, and the returning
ones take the old values. -/
def Sys2Proof.Statements.VectorAtomicsUpdateMemory : Prop :=
  ∀ (s s1 s2 s3 : State) (d x b : BitVec 5) (o : BitVec 4) (m : BitVec 3) (t : ElemType) (base : Word) (n : Nat)
    (as : List (Nat × Word)) (ps : List Phys) (old : Nat → Nat) (bt : BankType),
    Solo s → n = elemWidth t / 8 → Reads (.x x) s base s1 → bt = (if t = .bf16 then .bf16 else if t = .f32 then .f32 else .int n) →
    (∀ a ∈ as, a.2.toNat % n = 0) → Plain s n as → checkAll .atomic false (as.map Prod.snd) s1 = .ok (ps, s2) →
    (∀ p ∈ ps, Ready s2 p n ∧ s2.failing p.pa n = false ∧ ¬(s2.ctx.phase = 1 ∧ p.own = false ∧ regionOf p.pa = .window) ∧
      ¬(regionOf p.pa = .window ∧ windowCore p.pa ≠ s2.core.id ∧
        ((s2.getCore (windowCore p.pa)).computing = true ∨ (s2.getCore (windowCore p.pa)).holding = true))) →
    (as = indexed s base b m t → ∀ i fn, (i, fn) ∈ ([(.vaadd d x b m t, .add), (.vaor d x b m t, .or), (.vamax d x b m t, .max)] : List (Instr × BankFn)) →
      LanesUpdated fn bt (lane s d t) (as.zip ps) s2 old s3 →
      ∃ V, exec i s = .next (retire s (tracedLanes 2 (as.zip ps) (s3.mapCtx fun k => { k with v := V })) {}) ∧
        (∀ r : BitVec 5, r ≠ d → V.get r.toFin = s.ctx.v.get r.toFin) ∧
        ∀ j, j < elemLanes t → (V.get d.toFin).toNat / 2 ^ (elemWidth t * j) % 2 ^ elemWidth t = if active s m j then old j else lane s d t j) ∧
    (as = nearby s base o m t → LanesUpdated .add bt (lane s d t) (as.zip ps) s2 old s3 →
      exec (.vredadd d x o m t) s = .next (retire s (tracedLanes 2 (as.zip ps) s3) {}))

/-- R136 to R146: bit fields and atomics of vectors. -/
def Obligations.VectorBitFieldsAndAtomics : Prop := VectorBitFields ∧ VectorAtomicsUpdateMemory

/-! ## The matrix unit -/

/-- Element (i, j) of a tile (R59). -/
def Sys2Proof.Statements.elem (t : Tile) (i j : Nat) : Nat := (t.getD i 0).toNat / 2 ^ (32 * j) % 2 ^ 32

/-- The unit retires from s1 with tile d, its flags and the generator alone changed. -/
def Sys2Proof.Statements.TakesTile (i : Instr) (s s1 : State) (d : BitVec 3) (seed : Word) (f : Nat → Nat → Nat) (fl : TileFlags) : Prop :=
  ∃ T, exec i s = .next (retire s ((s1.mapCtx fun k => { k with t := k.t.set d.toNat T d.isLt, tf := k.tf.set d.toNat fl d.isLt }).mapFocus
      fun c => { c with rngSeed := seed }) {}) ∧
    ∀ r j, r < 16 → j < 32 → elem T r j = f r j

/-- The or of two records, and what it takes from conditions (R186). -/
def Sys2Proof.Statements.joined (f g : TileFlags) : TileFlags :=
  ⟨f.bits ||| g.bits, if f.bits.getLsbD 4 then f.errAddr else if g.bits.getLsbD 4 then g.errAddr else 0⟩
def Sys2Proof.Statements.withConds (f : TileFlags) (cs : List Conds) : TileFlags :=
  { f with bits := f.bits ||| (BitVec.ofBool (cs.any (·.nx)) ++ BitVec.ofBool (cs.any (·.uf)) ++ BitVec.ofBool (cs.any (·.of)) ++
      BitVec.ofBool (cs.any (·.nv))).setWidth 6 }

/-- R184, R186: the register-only tile instructions complete. A floating MADD rounds its elements in row-major order,
each with a draw of its own under stochastic rounding, and its flags are those of both sources and of its roundings. -/
def Sys2Proof.Statements.TileRegisterResults : Prop :=
  ∀ (s : State) (d a b : BitVec 3) (h : Bool) (x y : Tile) (m : RMode) (sum : Nat → Nat → Machine.Num × Bool),
    Solo s → x = s.ctx.t.get a.toFin → y = s.ctx.t.get b.toFin → m = s.ctx.roundMode →
    (∀ i j, sum i j = addN m (Fmt.value .fp32 (elem x i j)) (Fmt.value .fp32 (elem y i j))) →
    TakesTile (.mzero d) s s d s.core.rngSeed (fun _ _ => 0) ⟨0, 0⟩ ∧
    TakesTile (.mmov d a) s s d s.core.rngSeed (elem x) (s.ctx.tf.get a.toFin) ∧
    TakesTile (.madd d a b true) s s d s.core.rngSeed (fun i j => (elem x i j + elem y i j) % 2 ^ 32)
      (joined (s.ctx.tf.get a.toFin) (s.ctx.tf.get b.toFin)) ∧
    TakesTile (.madd d a b false) s s d (seedWhen m s 512)
      (fun i j => (Machine.round .fp32 m false (drawNo m s (32 * i + j)) (sum i j).1).1)
      (withConds (joined (s.ctx.tf.get a.toFin) (s.ctx.tf.get b.toFin)) ((List.range 512).map fun e =>
        (Machine.round .fp32 m false (drawNo m s e) (sum (e / 32) (e % 32)).1).2.or ⟨(sum (e / 32) (e % 32)).2, false, false, false⟩)) ∧
    TakesTile (.mxpose d a b h) s s d s.core.rngSeed
      (fun i j => if j < 16 then elem x j (i + if h then 16 else 0) else elem y (j - 16) (i + if h then 16 else 0))
      (joined (s.ctx.tf.get a.toFin) (s.ctx.tf.get b.toFin))

/-- R189: BTS goes to its target where some flag of the tile that the mask names is set, or with the other sense where
none is; the flags stay. -/
def Sys2Proof.Statements.TileBranches : Prop :=
  ∀ (s : State) (a : BitVec 3) (m : BitVec 8) (sense : Bool) (off : BitVec 14) (hit : Bool),
    Solo s → hit = decide ((s.ctx.tf.get a.toFin).bits.toNat &&& m.toNat ≠ 0) →
    exec (.bts a m sense off) s = .next (retire s s
      (if hit ≠ sense then { target := some (s.ctx.iaddr + BitVec.ofInt 64 (off.toInt * 4)), branch := true } else {}))

/-- R183, R184, R186, R189: tile registers and the branch on their status. -/
def Obligations.TilesComputeAndBranch : Prop := TileRegisterResults ∧ TileBranches

/-- R185, R177: MLD and MST complete where the rows are aligned and translate. MLD widens BF16 elements and clears the
flags; a row that meets an uncorrectable error is NaN, and ME and ERRADDR say so of the first. MST stores the 16 rows, or those that its index vector names, converting to BF16 with one draw for each
element under stochastic rounding, and then the status word with the flags. -/
def Sys2Proof.Statements.TilesMoveToAndFromMemory : Prop :=
  ∀ (s s1 s2 s3 s4 : State) (r v : BitVec 3) (a b : Opnd) (f g : Bool) (x y stride : Word) (n : Nat) (as : List Word)
    (places : List (List Piece)) (got : Nat → Except Word (List Byte)),
    Solo s → Reads a s x s1 → Reads b s1 y s2 → n = (if f then 64 else 128) → (y = 0 ∨ n ≤ y.toNat) →
    stride = (if y = 0 then BitVec.ofNat 64 n else y) →
    (as = (List.range 16).map (fun i => x + BitVec.ofNat 64 i * stride) → (∀ p ∈ as, p.toNat % 64 = 0) →
      matPlaces .load (as.map fun p => (p, n)) s2 = .ok (places, s3) → matModes (as.map fun p => (p, n)) places s3 = .ok ((), s3) →
      (∀ i, i < 16 → readRange (places.getD i []) s3 = .ok (got i, s3)) →
      ∃ T u, exec (.mld r a b f) s = .next (retire s u {}) ∧ u.ctx = { s3.ctx with
          t := s3.ctx.t.set r.toNat T r.isLt
          tf := s3.ctx.tf.set r.toNat (match (List.range 16).find? fun i => !(got i).isOk with
            | some i => ⟨0x10, match got i with
              | .error e => e
              | .ok _ => 0⟩
            | none => ⟨0, 0⟩) r.isLt } ∧ u.mem = s3.mem ∧ u.bad = s3.bad ∧
        ∀ i j, i < 16 → j < 32 → elem T i j = match got i with
          | .error _ => 0x7FC00000
          | .ok bs => if f then Fmt.widen .bf16 .fp32 (natOfBytes bs / 2 ^ (16 * j) % 2 ^ 16) else natOfBytes bs / 2 ^ (32 * j) % 2 ^ 32) ∧
    (∀ (rows : List Nat) (m : RMode) (fl : TileFlags) (e : Nat → Nat → Nat × Conds) (status : Word),
      rows = (List.range 16).filter (fun i => !g || lane s (v.setWidth 5) .bf16 i != 0xFFFF) →
      as = rows.map (fun i => x + (if g then BitVec.ofNat 64 (lane s (v.setWidth 5) .bf16 i) else BitVec.ofNat 64 i) * stride) →
      status = (if g then x - 4 else x + 16 * stride) → m = s.ctx.roundMode →
      (∀ q j, e q j = if f then Machine.round .bf16 m s.ctx.saturates (drawNo m s (32 * q + j)) (Fmt.value .fp32 (elem (s.ctx.t.get r.toFin) (rows.getD q 0) j))
        else (elem (s.ctx.t.get r.toFin) (rows.getD q 0) j, ⟨false, false, false, false⟩)) →
      fl = withConds (s.ctx.tf.get r.toFin) ((List.range (32 * rows.length)).map fun n => (e (n / 32) (n % 32)).2) →
      (∀ p ∈ as, p.toNat % 64 = 0) → status.toNat % 4 = 0 →
      matPlaces .store (as.map (fun p => (p, n)) ++ [(status, 4)]) s2 = .ok (places, s3) →
      matModes (as.map (fun p => (p, n)) ++ [(status, 4)]) places s3 = .ok ((), s3) →
      writeRows places ((List.range rows.length).map (fun q => (List.range 32).flatMap fun j => bytesOfNat (n / 32) (e q j).1) ++
          [bytesOfNat 4 (fl.bits.setWidth 32).toNat])
        (s3.mapFocus fun c => { c with rngSeed := if f then seedWhen m s (32 * rows.length) else c.rngSeed }) = .ok ((), s4) →
      ∃ u, exec (.mst r v a b f g) s = .next (retire s u {}) ∧ u.ctx = { s4.ctx with tf := s4.ctx.tf.set r.toNat fl r.isLt } ∧ u.mem = s4.mem)

/-- A state whose context has taken what an instruction popped on the way to s', and holds it while it waits past its checks
(R45, R175); in a handler the values stay where they were. -/
def Sys2Proof.Statements.holdsPops (s s' : State) : State :=
  if s.ctx.trapBit then s else s.mapCtx fun k => k.holdPops s'.ctx.pops (k.dropPops s'.ctx.pops)

/-- R175, R178, R191, R192: MLDW copies n + 1 units of 128 bytes into the weight buffer, which are then the context's; it
begins where MSEQ says. It stops at a unit that reads a line of local memory that is not full, and at an interruption point
where a swap is due: the units up to the last multiple of 16 stay, MSEQ counts them, and it waits. A unit that meets an
uncorrectable error traps with cause 0x0A, and the units written are not valid. -/
def Sys2Proof.Statements.WeightsLoad : Prop :=
  ∀ (s s1 s2 : State) (a : Opnd) (w n : BitVec 7) (x : Word) (places : List (List Piece)) (bs : Nat → List Byte) (rs : List (Word × Nat))
    (start stop : Nat),
    Solo s → Reads a s x s1 → x.toNat % 128 = 0 → w.toNat + n.toNat < 128 →
    rs = (List.range (n.toNat + 1)).map (fun u => (x + BitVec.ofNat 64 (128 * u), 128)) →
    matPlaces .load rs s1 = .ok (places, s2) → matModes rs places s2 = .ok ((), s2) →
    (s.ctx.mseq = 0 ∧ start = 0 ∨ 0 < start ∧ start % 16 = 0 ∧ start ≤ n.toNat ∧ s.ctx.mseq = 1#1 ++ 4#3 ++ BitVec.ofNat 8 start ∧
      ∀ u, u < start → (s.core.wbuf.getD (w.toNat + u) default).tag = some s.ctx.ctxid) →
    start ≤ stop → (s.core.interrupts = true → ∀ u, start < u → u < stop → u % 16 ≠ 0) →
    (∀ u, start ≤ u → u < stop → u ≤ n.toNat → readRange (places.getD u []) s2 = .ok (.ok (bs u), s2) ∧ s2.core.unitReady (places.getD u []) = true) →
    (stop = n.toNat + 1 → ∃ t, exec (.mldw a w n) s = .next t ∧ t.mem = s2.mem ∧ t.ctx.x = s.ctx.x ∧ t.ctx.mseq = 0 ∧ t.ctx.pc = (retire s s2 {}).ctx.pc ∧
      ∀ u : Fin 128, t.core.wbuf.get u = if w.toNat + start ≤ u.val ∧ u.val ≤ w.toNat + n.toNat then
        ⟨BitVec.ofNat 1024 (natOfBytes (bs (u.val - w.toNat))), some s.ctx.ctxid, 0⟩ else s.core.wbuf.get u) ∧
    (stop ≤ n.toNat → (s.core.interrupts = true ∧ start < stop ∧ stop % 16 = 0 ∨
        (s.core.interrupts = true → stop = start ∨ stop % 16 ≠ 0) ∧ s2.core.unitReady (places.getD stop []) = false) →
      ∃ t, exec (.mldw a w n) s = .next t ∧ t.mem = s.mem ∧ t.ctx.x = (holdsPops s s2).ctx.x ∧ t.ctx.hold = (holdsPops s s2).ctx.hold ∧
        t.ctx.pc = s.ctx.pc ∧ t.ctx.mseq = (if stop < 16 then 0 else 1#1 ++ 4#3 ++ BitVec.ofNat 8 (stop / 16 * 16)) ∧
        ∀ u : Fin 128, t.core.wbuf.get u = if w.toNat + start ≤ u.val ∧ u.val < w.toNat + stop / 16 * 16 then
          ⟨BitVec.ofNat 1024 (natOfBytes (bs (u.val - w.toNat))), some s.ctx.ctxid, 0⟩ else s.core.wbuf.get u) ∧
    (∀ e, stop ≤ n.toNat → (s.core.interrupts = true → stop = start ∨ stop % 16 ≠ 0) → s2.core.unitReady (places.getD stop []) = true →
      readRange (places.getD stop []) s2 = .ok (.error e, s2) →
      ∃ t, exec (.mldw a w n) s = .next t ∧ (s.ctx.trapBit = false → s.ctx.tvec ≠ 0 → t.ctx.ecause = 0x0A ∧ t.ctx.epc = s.ctx.pc ∧
          t.ctx.evalue = e ∧ t.ctx.mseq = 0) ∧
        ∀ u : Fin 128, (w.toNat ≤ u.val → u.val < w.toNat + stop → (t.core.wbuf.get u).tag = none) ∧
          (u.val < w.toNat ∨ w.toNat + stop ≤ u.val → t.core.wbuf.get u = s.core.wbuf.get u))

/-- R188: MCB copies the codebook table, which is then the context's; one that meets an uncorrectable error traps with cause
0x0A, and the table is not valid. -/
def Sys2Proof.Statements.CodebooksLoad : Prop :=
  ∀ (s s1 s2 : State) (a : Opnd) (x : Word) (places : List (List Piece)) (bs : List Byte) (e : Word),
    Solo s → Reads a s x s1 → x.toNat % 128 = 0 → matPlaces .load [(x, 1024)] s1 = .ok (places, s2) →
    matModes [(x, 1024)] places s2 = .ok ((), s2) →
    (readRange places.flatten s2 = .ok (.ok bs, s2) →
      ∃ t, exec (.mcb a) s = .next t ∧ t.mem = s2.mem ∧ t.ctx.x = s.ctx.x ∧ t.core.vqTable = BitVec.ofNat 8192 (natOfBytes bs) ∧
        t.core.vqTag = some s.ctx.ctxid ∧ t.core.wbuf = s.core.wbuf ∧ t.ctx.pc = (retire s s2 {}).ctx.pc) ∧
    (readRange places.flatten s2 = .ok (.error e, s2) →
      ∃ t, exec (.mcb a) s = .next t ∧ t.core.vqTag = none ∧ t.core.wbuf = s.core.wbuf ∧ t.mem = s2.mem ∧
        (s.ctx.trapBit = false → s.ctx.tvec ≠ 0 → t.ctx.ecause = 0x0A ∧ t.ctx.epc = s.ctx.pc ∧ t.ctx.evalue = e))

/-- R178, R188: the weight buffer and the codebook table. -/
def Obligations.WeightsAndCodebooksLoad : Prop := WeightsLoad ∧ CodebooksLoad

/-- The products: their kind in MSEQ, the shape of their B, and the rows of A from base x. -/
def Sys2Proof.Statements.ProductForm (s : State) (t : BitVec 3) (a : Opnd) (w : BitVec 7) (k : KSize) (f : Pair) (x : Word) (n : Nat)
    (i : Instr) (kind : BitVec 3) (b : BShape) (as : List Word) : Prop :=
  (i = .mm t a w k f ∧ kind = 1 ∧ b = ⟨f, k.k, 12⟩ ∧ as = (List.range 16).map fun r => x + BitVec.ofNat 64 (r * n)) ∨
  (∃ half, i = .mms t a w k f half ∧ kind = 2 ∧ b = ⟨f, k.k, if half then 6 else 4⟩ ∧ as = (List.range 16).map fun r => x + BitVec.ofNat 64 (r * n)) ∨
  (∃ v : BitVec 4, i = .mmg t a w k f v ∧ kind = 3 ∧ b = ⟨f, k.k, 12⟩ ∧
    as = (List.range 16).map fun r => x + BitVec.ofNat 64 (lane s (v.setWidth 5) .bf16 r * n))

/-- A product begins at step `start`, as MSEQ says: afresh with the accumulator and +0, or from the partial sums (R192). -/
def Sys2Proof.Statements.Begins (s : State) (t : BitVec 3) (kind : BitVec 3) (k start : Nat) (c0 : Nat → Nat → Chains) (met : List Conds) : Prop :=
  (s.ctx.mseq = 0 ∧ start = 0 ∧ met = [] ∧ ∀ r j, c0 r j = ⟨elem (s.ctx.t.get t.toFin) r j, 0, ⟨false, false, false, false⟩⟩) ∨
  (0 < start ∧ start ≤ k ∧ s.ctx.mseq = 1#1 ++ kind ++ BitVec.ofNat 8 start ∧ met = [Conds.ofBits (s.ctx.sums.getD 1024 0)] ∧
    ∀ r j, c0 r j = ⟨(s.ctx.sums.getD (32 * r + j) 0).toNat, (s.ctx.sums.getD (512 + 32 * r + j) 0).toNat, ⟨false, false, false, false⟩⟩)

/-- The two chains of element (r, j) from step `start` up to step `stop`, over the rows of A and the columns of B. -/
def Sys2Proof.Statements.chainsTo (s : State) (f : Pair) (k n w : Nat) (b : BShape) (as : List Word) (start stop : Nat) (c0 : Nat → Nat → Chains)
    (r j : Nat) : Chains :=
  Chains.run f.aFmt.isNone (c0 r j) start ((((List.range k).drop start).take (stop - start)).map fun p => termOf f
    (natOfBytes (((s.view (2 ^ 49 + s.core.id.toNat * 2 ^ 16 + (as.getD r 0).toNat) n).drop (p * f.aBytes)).take f.aBytes))
    ((s.core.denseColumn b (s.core.stream w b.units) j).getD p none))

/-- Is the line of local memory full that step p of row a reads? -/
def Sys2Proof.Statements.stepReady (s : State) (f : Pair) (a : Word) (p : Nat) : Bool := s.core.full.getLsbD ((a.toNat + p * f.aBytes) / 128)

/-- R93, R172 to R182, R190 to R195: a product whose weights are the context's, whose rows of A lie in local memory and which
meets no error begins where MSEQ says. Where the lines of A are full up to its last step, and no interruption point is due,
it completes: each element takes the result of its even and its odd chain, with its terms in ascending position; the
tile's flags take the conditions met. Else it stops where a line is not full, or at the next interruption point where a swap
is due, keeps the work of the whole stretches of 16 steps in MSEQ and the partial sums, and waits. -/
def Sys2Proof.Statements.ProductsAccumulate : Prop :=
  ∀ (s s1 s2 : State) (t : BitVec 3) (a : Opnd) (w : BitVec 7) (k : KSize) (f : Pair) (x : Word) (b : BShape) (i : Instr) (kind : BitVec 3)
    (as : List Word) (rs : List (Word × Nat)) (places : List (List Piece)) (n start : Nat) (c0 : Nat → Nat → Chains) (met : List Conds)
    (ends : Nat → Nat → Nat × Conds),
    Solo s → Reads a s x s1 → x.toNat % 64 = 0 → n = k.k * f.aBytes → ProductForm s t a w k f x n i kind b as →
    rs = as.map (fun p => (p, n)) → matPlaces .load rs s1 = .ok (places, s2) → (∀ p ∈ as, p.toNat + n ≤ 0xC000) →
    matModes rs places s2 = .ok ((), s2) →
    (∀ u, u < b.units → (s.core.wbuf.getD (w.toNat + u) default).tag = some s.ctx.ctxid) → (f.isVq = true → s.core.vqTag = some s.ctx.ctxid) →
    b.metaFault (s.core.stream w.toNat b.units) = none → Begins s t kind k.k start c0 met →
    ((∀ p ∈ as, ∀ j, start ≤ j → j < k.k → stepReady s f p j = true) → (s.core.interrupts = false ∨ k.k ≤ start + 16) → s.core.safe = false →
      (∀ p ∈ places, s2.failIn p = none) → (∀ j, j < 32 → s.core.columnBad b w.toNat j = false) →
      (∀ r j, ends r j = Chains.finish f.aFmt.isNone (chainsTo s f k.k n w.toNat b as start k.k c0 r j)) →
      TakesTile i s (s2.mapCtx fun k => { k with mseq := 0, sums := [] }) t s.core.rngSeed (fun r j => (ends r j).1)
        (withConds (s.ctx.tf.get t.toFin) (met ++ (List.range 512).map fun e => (ends (e / 32) (e % 32)).2))) ∧
    (∀ stop, start ≤ stop → stop < k.k → (∀ p ∈ as, ∀ j, start ≤ j → j < stop → stepReady s f p j = true) →
      (s.core.interrupts = true ∧ stop = start + 16 ∨
        (∃ p ∈ as, stepReady s f p stop = false) ∧ (s.core.interrupts = true → stop ≤ start + 16)) →
      (stop / 16 * 16 ≤ start → exec i s = .next (holdsPops s s2)) ∧
      (start < stop / 16 * 16 → ∃ sums, exec i s = .next ((holdsPops s s2).mapCtx fun c =>
          { c with mseq := 1#1 ++ kind ++ BitVec.ofNat 8 (stop / 16 * 16), sums := sums }) ∧
        ∀ r j, r < 16 → j < 32 →
          (sums.getD (32 * r + j) 0).toNat = (chainsTo s f k.k n w.toNat b as start (stop / 16 * 16) c0 r j).even % 2 ^ 32 ∧
          (sums.getD (512 + 32 * r + j) 0).toNat = (chainsTo s f k.k n w.toNat b as start (stop / 16 * 16) c0 r j).odd % 2 ^ 32))

/-- R182: a product whose weights are not the context's traps with cause 0x13 and the first such unit; the partial sums are
released. -/
def Sys2Proof.Statements.ProductsTrap : Prop :=
  ∀ (s s1 s2 : State) (t : BitVec 3) (a : Opnd) (w : BitVec 7) (k : KSize) (f : Pair) (x : Word) (b : BShape) (i : Instr) (kind : BitVec 3)
    (as : List Word) (rs : List (Word × Nat)) (places : List (List Piece)) (n u : Nat),
    Solo s → Reads a s x s1 → x.toNat % 64 = 0 → n = k.k * f.aBytes → ProductForm s t a w k f x n i kind b as →
    rs = as.map (fun p => (p, n)) → matPlaces .load rs s1 = .ok (places, s2) → (∀ p ∈ as, p.toNat + n ≤ 0xC000) →
    matModes rs places s2 = .ok ((), s2) → u < b.units → (s.core.wbuf.getD (w.toNat + u) default).tag ≠ some s.ctx.ctxid →
    (∀ u', u' < u → (s.core.wbuf.getD (w.toNat + u') default).tag = some s.ctx.ctxid) →
    ∃ v, exec i s = .next v ∧ (s.ctx.trapBit = false → s.ctx.tvec ≠ 0 → v.ctx.ecause = 0x13 ∧ v.ctx.epc = s.ctx.pc ∧
      v.ctx.evalue = BitVec.ofNat 64 (1 + 256 * (w.toNat + u)) ∧ v.ctx.t = s.ctx.t ∧ v.ctx.x = s.ctx.x ∧ v.ctx.mseq = 0)

/-- R177 to R182, R190 to R195: the products. -/
def Obligations.ProductsAccumulateWaitOrTrap : Prop := ProductsAccumulate ∧ ProductsTrap

/-- An uncorrectable error enters a record: the first one's address stands (R186). -/
def Sys2Proof.Statements.errored (f : TileFlags) (e : Option Word) : TileFlags :=
  match e with
  | some a => if f.bits.getLsbD 4 then f else ⟨f.bits ||| 0x10, a⟩
  | none => f

/-- R187: MSCALE completes: each element adds its partial sum times 2^(sa + sb − 254), with one rounding to nearest even; a
scale of 0xFF gives the canonical NaN. A scale that meets an uncorrectable error makes its row or column NaN, and ME and
ERRADDR say so. -/
def Sys2Proof.Statements.ScalesApply : Prop :=
  ∀ (s s1 s2 s3 s4 s5 : State) (d a : BitVec 3) (x y : Opnd) (pa pb : Word) (ps qs : List Piece) (sa sb : Nat → Option Byte) (ea eb : Option Word)
    (out : Nat → Nat → Nat × Conds),
    Solo s → Reads x s pa s1 → Reads y s1 pb s2 → matPlaces .load [(pa, 16), (pb, 32)] s2 = .ok ([ps, qs], s3) →
    matModes [(pa, 16), (pb, 32)] [ps, qs] s3 = .ok ((), s3) →
    scaleBytes ps s3 = .ok (((List.range 16).map sa, ea), s4) → scaleBytes qs s4 = .ok (((List.range 32).map sb, eb), s5) →
    (∀ i j e f p, sa i = some e → sb j = some f → (p = match Fmt.value .fp32 (elem (s.ctx.t.get a.toFin) i j) with
        | .fin sg m x k => Machine.Num.fin sg m (x + e.toNat + f.toNat - 254) k
        | v => v) →
      out i j = if e = 0xFF ∨ f = 0xFF then (0x7FC00000, ⟨true, false, false, false⟩)
        else ((Machine.round .fp32 .nearest false 0 (addN .nearest (Fmt.value .fp32 (elem (s.ctx.t.get d.toFin) i j)) p).1).1,
          (Machine.round .fp32 .nearest false 0 (addN .nearest (Fmt.value .fp32 (elem (s.ctx.t.get d.toFin) i j)) p).1).2.or
            ⟨(addN .nearest (Fmt.value .fp32 (elem (s.ctx.t.get d.toFin) i j)) p).2, false, false, false⟩)) →
    (∀ i j, sa i = none ∨ sb j = none → out i j = (0x7FC00000, ⟨false, false, false, false⟩)) →
    ∃ T u, exec (.mscale d a x y) s = .next (retire s u {}) ∧ u.mem = s5.mem ∧ u.ctx = { s5.ctx with
        t := s5.ctx.t.set d.toNat T d.isLt
        tf := s5.ctx.tf.set d.toNat (withConds (errored (joined (s.ctx.tf.get d.toFin) (s.ctx.tf.get a.toFin)) (ea.or eb))
          ((List.range 512).map fun e => (out (e / 32) (e % 32)).2)) d.isLt } ∧
      ∀ i j, i < 16 → j < 32 → elem T i j = (out i j).1

/-- R185, R187, R188: tiles in memory, and scales. -/
def Obligations.TilesMoveAndScale : Prop := TilesMoveToAndFromMemory ∧ ScalesApply

/-! ## The end of a strand, hints, words that are no instruction -/

/-- No posted store to the fabric awaits its response, and none has failed (R351). -/
def Sys2Proof.Statements.Answered (s : State) : Prop :=
  s.fabric.reqs.any (fun q => q.2.who == s.who && q.2.use == .posted) = false ∧ s.ctx.failed = none

/-- R118, R119, R213, R292: YIELD retires, and gives the core up where the shadow context is ready. HALT ends its context:
its slot is idle where none of its work is outstanding, and a ready shadow context comes in; a task that halts has failed,
and leaves its queue. -/
def Sys2Proof.Statements.StrandsEnd : Prop :=
  ∀ (s : State) (r : TaskRef) (g : Stage) (k : Task),
    Solo s → s.ctx.life = .live →
    ((s.core.shadow.life ≠ .live ∨ s.core.spilling ≠ none ∨ s.ctx.gang.gang = true) → exec .yield s = .next (retire s s {})) ∧
    (s.core.shadow.life = .live → s.core.spilling = none → s.core.shadow.gang.gang = false → s.ctx.gang.gang = false →
      ∃ t, exec .yield s = .next t ∧ t.core.front = s.core.shadow ∧ t.core.shadow = (retire s s {}).ctx.parked ∧ t.mem = s.mem ∧
        t.core.frontSlot = !s.core.frontSlot ∧ t.core.busy = s.cycle.toNat + 16) ∧
    (Answered s → s.ctx.task = none →
      (s.core.shadow.life = .idle →
        ∃ t, exec .halt s = .next t ∧ t.ctx.life = (if s.ctx.pend = 0 ∧ s.outstanding s.who = false then .idle else .draining) ∧
          t.ctx.x = s.ctx.x ∧ t.mem = s.mem) ∧
      (s.core.shadow.life = .live → s.core.spilling = none → s.core.shadow.gang.gang = false →
        ∃ t, exec .halt s = .next t ∧ t.core.front = s.core.shadow ∧ t.mem = s.mem)) ∧
    (Answered s → s.core.shadow.life = .idle → s.ctx.task = some r → s.taskOf r = some (g, k) → (g.tasks.map Prod.fst).Nodup →
      ∃ t, exec .halt s = .next t ∧ t.taskOf r = none ∧ ((t.stageAt r.die r.stage.toNat).map (·.fails)) = some (g.fails + 1) ∧ t.mem = s.mem)

/-- R48, R49, R57: a hint word binds to the next word, and nothing else changes. A word that is no instruction traps with
cause 0x02 where its opcode is reserved, else with 0x01, and the word as its value. -/
def Sys2Proof.Statements.HintsBind : Prop :=
  ∀ (s : State) (i : Instr) (w : BitVec 32) (reserved : Bool),
    Solo s →
    (((∃ p, i = .hintImm p) ∨ (∃ b r, i = .hintSched b r) ∨ (∃ m t p c, i = .hintMod m t p c) ∨
        i = .illegalInstruction w reserved ∧ w.toNat / 2 ^ 26 = 63) →
      exec i s = .next { s with core := { s.core with front := { s.core.front with hints := s.core.front.hints ++ [encode i] } } }) ∧
    (w.toNat / 2 ^ 26 ≠ 63 → exec (.illegalInstruction w reserved) s =
      .next ((trapBase s s.ctx.pops none).takeTrap (if reserved then 0x02 else 0x01) (w.setWidth 64)))

/-- R49 to R52: the hints bound to a legal instruction are in order where there are at most two, of two kinds, each well formed
and accepted by the instruction, and none ends the body of an active loop; else one of them is the offending word. A
HINT.MOD that carries nothing is a misuse before an instruction that takes none (log entries 10 and 93). -/
def Sys2Proof.Statements.HintsAreJudged : Prop :=
  (∀ (k : Ctx) (i : Instr),
    (k.hintMisuse i = none ↔ k.hints.length ≤ 2 ∧ (k.hints.map fun w => w.toNat / 2 ^ 24 % 4).Nodup ∧
      (∀ w ∈ k.hints, ∃ h, decHint w = some h ∧ acceptsHint i h = true) ∧
      ∀ n, n < k.hints.length → ∀ l ∈ k.loops.toList, l.active = true → l.last ≠ k.pc + BitVec.ofNat 64 (4 * n)) ∧
    ∀ w, k.hintMisuse i = some w → w ∈ k.hints) ∧
  ∀ (d a b : Opnd) (k : BitVec 4) (e : Bool) (sc : Scope) (f : FenceKind) (m : DiffMode) (i : Instr),
    i ∈ ([.wait d k b, .send a b, .ctrset k a b, .gang d a, .gjoin d a, .gleave a, .xptab a, .fence e sc f, .hwait d a b, .sstep d a e, .stdeclFree a,
      .tret, .tabort, .dmode d m, .dregset d a b, .dombar d a] : List Instr) →
    acceptsHint i (.hintMod none false false .default) = false

/-- R48, R57, R118, R119, R213, R292: the ends of a strand, hint words, and words that are no instruction. -/
def Obligations.StrandsEndAndHintsBind : Prop := StrandsEnd ∧ HintsBind ∧ HintsAreJudged

/-! ## Tasks -/

/-- R286, R289: STDECL takes the descriptor at its address into the lowest free stage of its die; a stage that holds no
task is freed, and one that does makes the strand wait. -/
def Sys2Proof.Statements.StagesAreDeclared : Prop :=
  ∀ (s s1 s2 s3 s4 : State) (d a : Opnd) (x : Word) (bs : List Byte) (die : BitVec 2) (g : Stage) (n : Nat),
    Solo s → Reads a s x s1 →
    (x.toNat % 64 ≠ 0 → exec (.stdecl d a) s = .next ((trapBase s s1.ctx.pops none).takeTrap 0x03 x)) ∧
    (x.toNat % 64 = 0 → memLoad x 64 false s1 = .ok (bs, s2) →
      (stageOk bs = false → exec (.stdecl d a) s = .next ((trapBase s s2.ctx.pops none).takeTrap 0x1A x)) ∧
      (stageOk bs = true → die = s2.core.id.extractLsb' 11 2 →
        g = ⟨dwordAt bs 0, dwordAt bs 8, dwordAt bs 16, dwordAt bs 24, dwordAt bs 32, s2.tenant, s2.core.id.extractLsb' 4 9, [], [], [], 0⟩ →
        (g.kl = true → s2.ctx.isUser = false) → (∀ c, g.clLo ≤ c → c ≤ g.clHi → (s2.cluster (die ++ BitVec.ofNat 7 c)).xten = s2.tenant) →
        n < 16 → s2.stageAt die n = none → (∀ m, m < n → s2.stageAt die m ≠ none) →
        Writes (.stdecl d a) d (BitVec.ofNat 64 n)
          ((s2.setDie die { s2.die die with stages := (s2.die die).stages.set n g }).assignLater die) s3 →
        traceCommandVa x s3 = .ok ((), s4) → exec (.stdecl d a) s = .next (retire s s4 {}))) ∧
    (die = s1.core.id.extractLsb' 11 2 →
      (x.toNat < 16 → s1.stageAt die x.toNat = some g → g.tenant = s1.tenant → g.tasks ≠ [] → exec (.stdeclFree a) s = .next s) ∧
      (x.toNat < 16 → s1.stageAt die x.toNat = some g → g.tenant = s1.tenant → g.tasks = [] →
        exec (.stdeclFree a) s = .next (retire s (noted 0 0 (s1.setDie die { s1.die die with
          stages := (s1.die die).stages.erase x.toNat
          assign := (s1.die die).assign.filter fun e => e.2.toNat != x.toNat })) {})) ∧
      (16 ≤ x.toNat ∨ s1.stageAt die x.toNat = none ∨ (∃ g, s1.stageAt die x.toNat = some g ∧ g.tenant ≠ s1.tenant) →
        exec (.stdeclFree a) s = .next ((trapBase s s1.ctx.pops none).takeTrap 0x1A x)))

/-- R287, R290, R291: TSPAWN enters the task of its descriptor into a free place of its stage's queue, READY where no
earlier task of the die and tenant that has not retired overlaps its footprints in a byte that one of them writes, and no
further count is asked for; d takes its identity. With no free place it waits. -/
def Sys2Proof.Statements.TasksAreSpawned : Prop :=
  ∀ (s s1 s2 s3 s4 t : State) (d a : Opnd) (x id : Word) (bs : List Byte) (die : BitVec 2) (n e extra slot : Nat) (g : Stage) (fs : List Footprint)
    (preds : List Nat),
    Solo s → Reads a s x s1 → x.toNat % 32 = 0 → memLoad x 96 false s1 = .ok (bs, s2) →
    n = (dwordAt bs 0).toNat % 16 → extra = (dwordAt bs 0).toNat / 2 ^ 16 % 2 ^ 16 → e = (dwordAt bs 0).toNat / 2 ^ 32 % 2 ^ 16 →
    fs = (List.range ((dwordAt bs 0).toNat / 2 ^ 8 % 8)).map (footAt bs) → die = s2.core.id.extractLsb' 11 2 →
    (taskOk bs = false → exec (.tspawn d a) s = .next ((trapBase s s2.ctx.pops none).takeTrap 0x1A x)) ∧
    (taskOk bs = true → s2.stageAt die n = some g → g.tenant = s2.tenant → (e = 0xFFFF ∨ g.extab ≠ 0) →
      ((∀ i, i < g.depth → g.tasks.find? i ≠ none) → exec (.tspawn d a) s = .next s) ∧
      (s2.inFlight die < 4096 → slot < g.depth → g.tasks.find? slot = none → (∀ i, i < slot → g.tasks.find? i ≠ none) →
        id = BitVec.ofNat 64 (slot + 2 ^ 8 * n + 2 ^ 16 * (g.gens.get slot 0).toNat) →
        (∀ o, o ∈ preds ↔ ∃ g' ∈ (s2.die die).stages, g'.2.tenant = g.tenant ∧ ∃ k ∈ g'.2.tasks, k.2.order = o ∧
          ∃ f ∈ k.2.foots, ∃ f' ∈ fs, (f.write = true ∨ f'.write = true) ∧
            f.base.toNat < f'.base.toNat + f'.len ∧ f'.base.toNat < f.base.toNat + f.len) →
        ∃ p : List Nat, (∀ o, o ∈ p ↔ o ∈ preds) ∧
          (t = (s2.setDie die { s2.die die with
              spawned := (s2.die die).spawned + 1
              stages := (s2.die die).stages.set n { g with
                tasks := g.tasks.set slot ⟨g.gens.get slot 0, if preds = [] ∧ extra = 0 then .ready else .waiting, (s2.die die).spawned, p, extra,
                  if e = 0xFFFF then none else some e, dwordAt bs 8, dwordAt bs 16, fs, x, none⟩
                gens := g.gens.set slot (g.gens.get slot 0 + 1) } }).offer die →
            Writes (.tspawn d a) d id t s3 → traceCommandVa x s3 = .ok ((), s4) → exec (.tspawn d a) s = .next (retire s s4 {}))))

/-- R294, R295: TRET, once the strand's engines and its posted stores are done, leaves its task committing and its context
at an end; TABORT gives the task back, READY, to another core where there is one. Outside a task both trap with cause
0x1A, as TABORT does where the stage is DIRECT or the mode is not FWD. -/
def Sys2Proof.Statements.TasksEnd : Prop :=
  ∀ (s : State) (r : TaskRef) (g : Stage) (k : Task),
    Solo s →
    (s.ctx.task = none →
      exec .tret s = .next ((trapBase s s.ctx.pops none).takeTrap 0x1A 0) ∧
      exec .tabort s = .next ((trapBase s s.ctx.pops none).takeTrap 0x1A 0)) ∧
    (s.ctx.task = some r → s.taskOf r = some (g, k) →
      (s.ctx.pend ≠ 0 ∨ s.outstanding s.who = true → exec .tret s = .next s) ∧
      (s.ctx.pend = 0 → s.outstanding s.who = false → Answered s → s.core.shadow.life = .idle →
        ∃ t, exec .tret s = .next t ∧ t.ctx.life = .draining ∧ t.ctx.task = some r ∧ t.ctx.x = s.ctx.x ∧ t.mem = s.mem ∧
          (t.taskOf r).map Prod.snd = some { k with state := .committing } ∧ ⟨.taskCommit s.core.id, none⟩ ∈ t.due) ∧
      (g.direct = true ∨ s.ctx.mode ≠ .fwd → exec .tabort s = .next ((trapBase s s.ctx.pops none).takeTrap 0x1A k.desc)) ∧
      (g.direct = false → s.ctx.mode = .fwd → s.ctx.pend = 0 → s.outstanding s.who = false → s.core.shadow.life = .idle →
        ∃ t, exec .tabort s = .next t ∧ t.ctx.life = .idle ∧ t.ctx.task = none ∧ t.mem = s.mem ∧
          (t.taskOf r).map Prod.snd = some { k with state := .ready, avoid := some s.core.id } ∧
          t.core.commit = s.core.commit.filter fun l => l.owner != s.ctx.self))

/-- R286 to R295: the task instructions (log entry 19). -/
def Obligations.TasksAreDeclaredSpawnedAndEnded : Prop := StagesAreDeclared ∧ TasksAreSpawned ∧ TasksEnd

/-! ## The Work Scheduler -/

/-- R295: at its commit point a task leaves its queue and its staged bytes are in memory, a later line before an earlier
one of the same address; all else of memory is as before. -/
def Sys2Proof.Statements.TasksCommit : Prop :=
  ∀ (s u : State) (r : TaskRef) (g : Stage) (k : Task) (ls : List StagedLine),
    Takes (.taskCommit s.core.id) s u → s.Inv → s.core.front.life = .draining → s.core.front.task = some r → s.taskOf r = some (g, k) →
    k.state = .committing → (g.tasks.map Prod.fst).Nodup → s.core.shadow.life = .idle →
    ls = s.core.commit.filter (fun l => l.owner == s.core.front.self) →
    ∃ t, exec .taskCommit s = .next t ∧ t.taskOf r = none ∧ t.core.commit = s.core.commit.filter (fun l => l.owner != s.core.front.self) ∧
      t.core.front.task = none ∧
      ∀ a, t.byte a = (((ls.reverse.find? fun l => decide (l.addr ≤ a ∧ a < l.addr + 64) && l.mask.getLsbD (a - l.addr)).map
        fun l => l.data.getD (a - l.addr) 0).getD (s.byte a))

/-- A placement of a stage on a core is taken up, and (slot, k) is the task it is for: the core is the stage's and runs no task
of it, and k is its oldest READY task, which the core may have (R293, R295, R296). -/
def Sys2Proof.Statements.Places (s : State) (d : BitVec 2) (n : BitVec 4) (id : CoreId) (g : Stage) (slot : Nat) (k : Task) : Prop :=
  (s.die d).assign.find? id.toNat = some n ∧
    (∀ p x r, (s.getCore id).ctxAt p = some x → x.task = some r → r.die = d → r.stage ≠ n) ∧
    s.stageAt d n.toNat = some g ∧ g.tasks.find? slot = some k ∧ slot < 256 ∧ k.state = .ready ∧ k.avoid ≠ some id ∧
    ∀ e ∈ g.tasks, e.2.state = .ready → e = (slot, k) ∨ k.order < e.2.order

/-- The context that a placement starts: at the entry of the stage, with its two arguments and its identity in x1 to x3. -/
def Sys2Proof.Statements.taskStart (d : BitVec 2) (n : BitVec 4) (g : Stage) (slot : Nat) (k : Task) (ctx : BitVec 32)
    (life : Life) : Ctx :=
  { Ctx.reset ctx with
    x := (((Vector.replicate 32 0).set 1 k.arg1).set 2 k.arg2).set 3 (BitVec.ofNat 64 (slot + 2 ^ 8 * n.toNat + 2 ^ 16 * k.gen.toNat))
    pc := g.entry, status := if g.kl then 2 else 0, life := life, task := some ⟨d, n, BitVec.ofNat 8 slot⟩ }

/-- The identity that the next context of a slot of a core takes (R61). -/
def Sys2Proof.Statements.nextCtx (s : State) (id : CoreId) (b : Bool) : BitVec 32 :=
  ((if b then (s.getCore id).gen1 else (s.getCore id).gen0) + 1) ++ s.pkgid ++ id ++ BitVec.ofBool b

/-- R293, R296, R298: a placement starts the oldest READY task of its stage in the idle front slot of its core; it does
nothing where the core is no longer the stage's. Where the task's expert is still to be filled, or drains, the context goes to
the shadow slot and is not ready until it is, and the task is FILLING; with that slot taken, nothing is placed. -/
def Sys2Proof.Statements.TasksArePlaced : Prop :=
  ∀ (s u : State) (d : BitVec 2) (n : BitVec 4) (id : CoreId) (c : Core) (g : Stage) (slot : Nat) (k : Task) (b : Bool) (e : Nat) (x : Expert) (w : Who),
    s.Named → Takes (.taskPlacement d n id) s u → c = s.getCore id → b = c.frontSlot →
    ((s.die d).assign.find? id.toNat ≠ some n → exec .taskPlacement s = .next u) ∧
    (Places s d n id g slot k → c.front.life = .idle → k.expert = none →
      ∃ t, exec .taskPlacement s = .next t ∧ t.mem = s.mem ∧
        (t.getCore id).front = taskStart d n g slot k (nextCtx s id b) .live ∧
        (t.taskOf ⟨d, n, BitVec.ofNat 8 slot⟩).map Prod.snd = some { k with state := .running, avoid := none }) ∧
    (Places s d n id g slot k → k.expert = some e → x = g.experts.get e ⟨.absent, []⟩ → x.state ≠ .resident →
      (x.state = .draining ∨ g.stream = false) → w = ⟨id, nextCtx s id (!b)⟩ →
      (c.front.life = .idle → c.shadow.life ≠ .idle ∨ c.filling ≠ none → exec .taskPlacement s = .next u) ∧
      (c.shadow.life = .idle → c.filling = none →
        ∃ t, exec .taskPlacement s = .next t ∧ t.mem = s.mem ∧ (t.getCore id).shadow = taskStart d n g slot k w.ctx .notReady ∧
          (t.taskOf ⟨d, n, BitVec.ofNat 8 slot⟩).map Prod.snd = some { k with state := .filling, avoid := none } ∧
          ⟨.expertFillComplete w, none⟩ ∈ t.due ∧
          (t.stageAt d n.toNat).map (fun g => (g.experts.get e ⟨.absent, []⟩).state) = some (if x.state = .absent then .filling else x.state)))

/-- R296: core assignment gives every core of the die at most to one stage of its tenant whose clusters take it in, no
stage with limits more than MAXCORES; it is due again at the next multiple of 4,096 cycles. -/
def Sys2Proof.Statements.CoresAreAssigned : Prop :=
  ∀ (s u : State) (d : BitVec 2),
    Takes (.coreAssignment d) s u →
    ((s.die d).stages = [] → exec .coreAssignment s = .next (u.setDie d { u.die d with assign := [] })) ∧
    ((s.die d).stages ≠ [] → (∀ e ∈ (s.die d).stages, e.1 < 16) → ((s.die d).stages.map Prod.fst).Nodup →
      (∀ x ∈ u.due, x.act ≠ .coreAssignment d) →
      ∃ t, exec .coreAssignment s = .next t ∧ t.mem = s.mem ∧ ((t.die d).assign.map Prod.fst).Nodup ∧
        ⟨.coreAssignment d, some ((s.cycle.toNat / 4096 + 1) * 4096)⟩ ∈ t.due ∧
        (∀ a ∈ (t.die d).assign, a.1 / 2048 = d.toNat ∧ ∃ g, (s.die d).stages.find? a.2.toNat = some g ∧
          g.clLo ≤ a.1 / 16 % 128 ∧ a.1 / 16 % 128 ≤ g.clHi ∧ g.tenant = s.tenantOf (BitVec.ofNat 13 a.1)) ∧
        ∀ e ∈ (s.die d).stages, e.2.exp = true → ((t.die d).assign.filter fun a => a.2.toNat == e.1).length ≤ e.2.maxCores)

/-- R297 to R299: the experts. A RESIDENT one makes its task run; a FILLING one is filled first, and one that drains is
awaited; a slice of a stream lands in the window, its lines full, and the next is due; one whose pins are gone is drained;
EVICT marks its expert and returns 0 once it is ABSENT. -/
def Sys2Proof.Statements.ExpertsComeAndGo : Prop :=
  ∀ (s u v : State) (w : Who) (r : TaskRef) (g : Stage) (k : Task) (e n ns size off : Nat) (bs : List Byte) (x : Expert) (ws : List Word) (d : BitVec 2)
    (m : BitVec 4),
    (Takes (.expertFillComplete w) s u →
      (s.expertTask w = none → exec .expertFillComplete s = .next u) ∧
      (s.expertTask w = some (r, g, e) → x = g.experts.get e ⟨.absent, []⟩ →
        (x.state = .draining → exec .expertFillComplete s = .next s) ∧
        (x.state = .resident → s.taskOf r = some (g, k) → ∃ t, exec .expertFillComplete s = .next t ∧
          (t.taskOf r).map Prod.snd = some { k with state := .running } ∧
          (t.stageAt r.die r.stage.toNat).map (fun g => (g.experts.get e ⟨.absent, []⟩)) = some ⟨.resident, x.pins.map (· + 1)⟩) ∧
        (x.state = .filling → g.stream = false → u.fillExpert r g w e = .ok v →
          exec .expertFillComplete s = .next ((v.pinAll r e).readyTask w r)))) ∧
    (Takes (.streamSliceArrival w n) s u →
      ((s.getCore w.core).holding = true → exec .streamSliceArrival s = .next s) ∧
      ((s.getCore w.core).holding = false → s.expertTask w = none → exec .streamSliceArrival s = .next u) ∧
      ((s.getCore w.core).holding = false → s.expertTask w = some (r, g, e) →
        (runE (do
          let (src, _, ns, size) ← expertEntry g w e
          return (← eRead (g.eng w) (src + BitVec.ofNat 64 (n * size)) size, ns, size)) u = .ok ((bs, ns, size), v)) →
        off = g.sbuf.toNat + (n - g.resident) * size → v.Named →
        ∃ F : BitVec 384, (∀ j, j < 384 → F.getLsbD j =
            if off / 128 ≤ j ∧ j < off / 128 + size / 128 then true else (v.getCore w.core).full.getLsbD j) ∧
          exec .streamSliceArrival s = .next (let t := (v.poke (2 ^ 49 + w.core.toNat * 2 ^ 16 + off) bs).modCore w.core fun c => { c with full := F }
            if n + 1 < ns then { t with due := t.due ++ [⟨.streamSliceArrival w (n + 1), none⟩] } else t))) ∧
    (Takes (.expertDrained d m e) s u →
      (s.stageAt d m.toNat = none → exec .expertDrained s = .next u) ∧
      (s.stageAt d m.toNat = some g → x = g.experts.get e ⟨.absent, []⟩ →
        (x.state ≠ .draining ∨ (∃ p ∈ x.pins, p ≠ 0) → exec .expertDrained s = .next u) ∧
        (x.state = .draining → (∀ p ∈ x.pins, p = 0) → (∀ y ∈ u.due, ∀ w ws, y.act ≠ .evict w ws) →
          exec .expertDrained s = .next (u.setDie d { u.die d with
            stages := (u.die d).stages.set m.toNat { g with experts := g.experts.set e ⟨.absent, x.pins⟩ } })))) ∧
    (Takes (.evict w ws) s u →
      (s.evictAt w ws = none → exec .evict s = .next ((u.portResult w 1 0).settle w.core)) ∧
      (s.evictAt w ws = some (d, m, e, x) →
        (x.state = .draining → exec .evict s = .next s) ∧
        (x.state = .absent → (∀ p ∈ x.pins, p = 0) → exec .evict s = .next ((u.portResult w 1 0).settle w.core)) ∧
        (x.state = .resident → s.stageAt d m.toNat = some g →
          exec .evict s = .next (let t := s.setDie d { s.die d with
              stages := (s.die d).stages.set m.toNat { g with experts := g.experts.set e ⟨.draining, x.pins⟩ } }
            if x.pins.all (· == 0) then { t with due := t.due ++ [⟨.expertDrained d m e, none⟩] } else t))))

/-- R299: TREL lowers the further count of the task it names by 1, where the task is the tenant's, of the generation named
and has such a count; STAT returns the occupancy, the cores, FAILS and the running tasks of its stage, 0 of another
tenant's. -/
def Sys2Proof.Statements.CountsAreReleasedAndRead : Prop :=
  ∀ (s u : State) (w : Who) (ws : List Word) (r : TaskRef) (g : Stage) (k : Task) (d : BitVec 2) (n : Nat),
    d = w.core.extractLsb' 11 2 →
    (Takes (.trel w ws) s u → r = ⟨d, (ws.headD 0).extractLsb' 8 4, (ws.headD 0).extractLsb' 0 8⟩ →
      ((s.taskOf r = none ∨ ∃ g k, s.taskOf r = some (g, k) ∧ (k.gen ≠ (ws.headD 0).extractLsb' 16 16 ∨ k.extra = 0 ∨ g.tenant ≠ s.tenantOf w.core)) →
        exec .trel s = .next (u.settle w.core)) ∧
      (s.taskOf r = some (g, k) → k.gen = (ws.headD 0).extractLsb' 16 16 → 0 < k.extra → g.tenant = s.tenantOf w.core →
        ∃ t, exec .trel s = .next t ∧ (t.taskOf r).map Prod.snd = some { k with
          extra := k.extra - 1, state := if k.state = .waiting ∧ k.preds = [] ∧ k.extra = 1 then .ready else k.state })) ∧
    (Takes (.stat w ws) s u → n = (ws.headD 0).toNat % 16 →
      (s.stageAt d n = some g → g.tenant = s.tenantOf w.core →
        exec .stat s = .next ((u.portResult w 1 (BitVec.ofNat 16 (g.tasks.filter fun k => k.2.state == .running).length ++ g.fails ++
          BitVec.ofNat 16 ((s.die d).assign.filter fun a => a.2.toNat == n).length ++
          BitVec.ofNat 16 (g.tasks.filter fun k => k.2.state != .committing).length)).settle w.core)) ∧
      ((s.stageAt d n = none ∨ ∃ g, s.stageAt d n = some g ∧ g.tenant ≠ s.tenantOf w.core) →
        exec .stat s = .next ((u.portResult w 1 0).settle w.core)))

/-- R293 to R299: the acts of the Work Scheduler (log entries 18, 20 and 37). -/
def Obligations.TheSchedulerActs : Prop :=
  TasksCommit ∧ TasksArePlaced ∧ CoresAreAssigned ∧ ExpertsComeAndGo ∧ CountsAreReleasedAndRead

/-! ## The routing core -/

/-- The state with a die's routing core changed. -/
def Sys2Proof.Statements.withRouting (d : BitVec 2) (f : Routing → Routing) (s : State) : State :=
  s.setDie d { s.die d with routing := f (s.die d).routing }

/-- R300 to R303: the commands of q2. RCFG sets the configuration, RFAULT returns the record and clears it, RREL returns
the counts of the ROUTEs done and faulted and clears the configuration. ROUTE and FLUSH make one access at a time, and keep
what it gave; a ROUTE that has made all of them is counted as done, one that a fault ends as faulted, the count saturating
and the first fault recorded. A release by management discards what is due, counts a ROUTE that has begun as faulted, and
leaves no request of it outstanding (log entries 50 and 51). -/
def Obligations.TheRoutingCoreActs : Prop :=
  ∀ (s u v : State) (w : Who) (ws : List Word) (d : BitVec 2) (r : Routing) (cfg : RouteCfg) (res : Word),
    d = w.core.extractLsb' 11 2 → r = (s.die d).routing → res = BitVec.ofNat 64 (r.done.toNat + 2 ^ 32 * r.faulted.toNat) →
    (Takes (.rcfg w ws) s u → (∀ c, r.cfg = some c → c.tenant = s.tenantOf w.core) → r.cfg ≠ none →
      exec .rcfg s = .next ((withRouting d (fun r => { r with
        cfg := some ⟨ws, s.tenantOf w.core, w.core.extractLsb' 4 9⟩, record := 0 }) u).settle w.core)) ∧
    (Takes (.rfault w ws) s u →
      exec .rfault s = .next (((withRouting d (fun r => { r with record := 0 }) u).portResult w 2 r.record).settle w.core)) ∧
    (Takes (.rrel w ws) s u →
      exec .rrel s = .next (((withRouting d (fun r => { r with cfg := none, done := 0, faulted := 0 }) u).portResult w 2 res).settle w.core)) ∧
    (Takes (.route w ws) s u →
      (r.cfg = none → exec .route s = .next (u.settle w.core)) ∧
      (r.cfg = some cfg → r.tag.isSome = true → exec .route s = .next s) ∧
      (r.cfg = some cfg → r.tag = none → r.got = [] → ∀ bs p, eRead (cfg.eng w) (ws.getD 1 0) 2 (s, []) = .ok (bs, (v, p)) →
        exec .route s = .next (withRouting d (fun r => { r with got := r.got ++ [.data bs] }) v)) ∧
      (r.cfg = some cfg → r.tag = none → ∀ p, routeWork cfg w d s ws r.got = .ok ((), p) →
        exec .route s = .next ((withRouting d (fun r => { r with got := [], done := r.done + 1 }) u).settle w.core)) ∧
      (r.cfg = some cfg → r.tag = none → ∀ c va, routeWork cfg w d s ws r.got = .error (.ended c va) →
        exec .route s = .next ((withRouting d (fun r => { r with
          got := []
          faulted := if r.faulted = 0xFFFF then r.faulted else r.faulted + 1
          record := if r.record = 0 then BitVec.ofNat 64 (va.toNat % 2 ^ 53 + 2 ^ 53 * c.toNat) else r.record }) u).settle w.core))) ∧
    (Takes (.flush w ws) s u →
      ((r.cfg = none ∨ ∃ c, r.cfg = some c ∧ c.spawns = false ∧ r.tag = none) → r.got = [] →
        exec .flush s = .next (((withRouting d (fun r => { r with done := 0, faulted := 0 }) u).portResult w 2 res).settle w.core)) ∧
      (r.cfg = some cfg → cfg.spawns = true → r.tag = none → r.got = [] → ∀ bs p, eRead (cfg.eng w) (cfg.word 5) 1 (s, []) = .ok (bs, (v, p)) →
        exec .flush s = .next (withRouting d (fun r => { r with got := r.got ++ [.data bs] }) v))) ∧
    (∀ x, Takes (.routingRelease d x) s u →
      (x.toNat % 2 = 0 → exec .routingRelease s = .next u) ∧
      (x.toNat % 2 = 1 → (∀ y ∈ u.due, y.act.onQ2 d = false) →
        exec .routingRelease s = .next (withRouting d (fun r => { r with cfg := none, admitted := none, got := [], tag := none }) u)) ∧
      (∀ y rest, x.toNat % 2 = 1 → u.due = y :: rest → (∃ v vs, y.act = .route v vs ∧ v.core.extractLsb' 11 2 = d) →
        (∀ z ∈ rest, z.act.onQ2 d = false) → r.got ≠ [] ∨ r.tag ≠ none →
        exec .routingRelease s = .next (withRouting d (fun r => { r with
          cfg := none, admitted := none, got := [], tag := none, faulted := if r.faulted = 0xFFFF then r.faulted else r.faulted + 1 })
          { u with due := rest })))

/-! ## Differentiable memory -/

/-- Two ranges of bytes share none. -/
def Sys2Proof.Statements.Apart (a n b m : Nat) : Prop := n = 0 ∨ m = 0 ∨ a + n ≤ b ∨ b + m ≤ a

/-- Region i of a context: its base, its bytes, the bytes of an element, and the base and bytes of its adjoint range (R304). -/
def Sys2Proof.Statements.dbase (k : Ctx) (i : Nat) : Nat := (k.dbase.getD i 0).toNat
def Sys2Proof.Statements.dlen (k : Ctx) (i : Nat) : Nat := (k.dlen.getD i 0).toNat
def Sys2Proof.Statements.esize (k : Ctx) (i : Nat) : Nat := if k.esz.getLsbD i then 2 else 4
def Sys2Proof.Statements.dadj (k : Ctx) (i : Nat) : Word := k.dadj.getD i 0

/-- n bytes from a share none with any declared region but one, or with its adjoint range. -/
def Sys2Proof.Statements.ApartFromRegions (k : Ctx) (a n : Nat) (but : Option Nat) : Prop :=
  ∀ i, i < 8 → some i ≠ but → Apart a n (Statements.dbase k i) (Statements.dlen k i) ∧
    Apart a n (Statements.dadj k i).toNat (Statements.dlen k i / Statements.esize k i * 4)

/-- A store of the strand to a declared region or an adjoint range is on its way to another package (R63, R309). -/
def Sys2Proof.Statements.Late (s : State) : Prop :=
  ∃ q ∈ s.fabric.reqs, q.2.who = s.who ∧ q.2.use = .posted ∧ ¬ApartFromRegions s.ctx q.2.va.toNat q.2.len none

/-- R307, R309, R63: DMODE takes the new mode, and gives the old one; TAPE and REV ask for a tape that lies between its
bounds, above 0xFFFF and clear of every region. DREGSET declares a region or, with length 0, undeclares it: KERNEL level, which
is judged before the operands are read, and FWD mode, and ranges that do not wrap, lie above 0xFFFF and meet neither each other
nor another region. Both wait for the strand's stores to declared regions that are still on their way; earlier accesses else
have been performed (log entries 6 and 12). -/
def Sys2Proof.Statements.ModesAndRegionsAreSet : Prop :=
  ∀ (s s1 s2 s3 : State) (d j a b : Opnd) (m : DiffMode) (adj base c : Word) (i n es : Nat) (tapeOk : Prop),
    Solo s →
    (tapeOk = (s.ctx.tapeBase.toNat ≤ s.ctx.tapePos.toNat ∧ s.ctx.tapePos.toNat ≤ s.ctx.tapeLim.toNat ∧ 0x10000 ≤ s.ctx.tapeBase.toNat ∧
        ApartFromRegions s.ctx s.ctx.tapeBase.toNat (s.ctx.tapeLim.toNat - s.ctx.tapeBase.toNat) none) →
      ((m = .fwd ∨ tapeOk) → ¬Late s →
        Writes (.dmode d m) d (match s.ctx.mode with | .fwd => 0 | .tape => 1 | .rev => 2) (s.mapCtx fun k => { k with mode := m }) s1 →
        exec (.dmode d m) s = .next (retire s s1 {})) ∧
      ((m = .fwd ∨ tapeOk) → Late s → exec (.dmode d m) s = .next s) ∧
      (m ≠ .fwd → ¬tapeOk → exec (.dmode d m) s = .next ((trapBase s s.ctx.pops none).takeTrap 0x1A s.ctx.tapePos))) ∧
    (s.ctx.pl = 0 → exec (.dregset j a b) s = .next ((trapBase s s.ctx.pops none).takeTrap 0x06 (wordOf (.dregset j a b)))) ∧
    (s.ctx.pl ≠ 0 → Reads j s adj s1 → Reads a s1 base s2 → Reads b s2 c s3 → i = c.toNat % 8 → n = c.toNat / 2 ^ 8 % 2 ^ 40 →
      es = (if c.getLsbD 3 then 2 else 4) →
      ((c.toNat / 16 % 16 ≠ 0 ∨ 2 ^ 48 ≤ c.toNat) →
        exec (.dregset j a b) s = .next ((trapBase s s3.ctx.pops none).takeTrap 0x01 (wordOf (.dregset j a b)))) ∧
      (c.toNat / 16 % 16 = 0 → c.toNat < 2 ^ 48 → s3.ctx.mode ≠ .fwd →
        exec (.dregset j a b) s = .next ((trapBase s s3.ctx.pops none).takeTrap 0x1A s3.ctx.dstatWord)) ∧
      (c.toNat / 16 % 16 = 0 → c.toNat < 2 ^ 48 → s3.ctx.mode = .fwd →
        (n = 0 → ¬Late s3 → ∃ D L J E, exec (.dregset j a b) s = .next (retire s (s3.mapCtx fun k => { k with dbase := D, dlen := L, dadj := J, esz := E }) {}) ∧
          L.getD i 0 = 0 ∧ ∀ r, r < 8 → r ≠ i →
            D.getD r 0 = s3.ctx.dbase.getD r 0 ∧ L.getD r 0 = s3.ctx.dlen.getD r 0 ∧ J.getD r 0 = s3.ctx.dadj.getD r 0 ∧ E.getLsbD r = s3.ctx.esz.getLsbD r) ∧
        (n = 0 → Late s3 → exec (.dregset j a b) s = .next s) ∧
        (n ≠ 0 → base.toNat % es ≠ 0 ∨ n % es ≠ 0 → exec (.dregset j a b) s = .next ((trapBase s s3.ctx.pops none).takeTrap 0x03 base)) ∧
        (n ≠ 0 → base.toNat % es = 0 → n % es = 0 → adj.toNat % 4 ≠ 0 →
          exec (.dregset j a b) s = .next ((trapBase s s3.ctx.pops none).takeTrap 0x03 adj)) ∧
        (∀ apart : Prop, n ≠ 0 → base.toNat % es = 0 → n % es = 0 → adj.toNat % 4 = 0 →
          apart = (base.toNat + n ≤ 2 ^ 64 ∧ 0x10000 ≤ base.toNat ∧ adj.toNat + n / es * 4 ≤ 2 ^ 64 ∧ 0x10000 ≤ adj.toNat ∧
            Apart base.toNat n adj.toNat (n / es * 4) ∧ ApartFromRegions s3.ctx base.toNat n (some i) ∧
            ApartFromRegions s3.ctx adj.toNat (n / es * 4) (some i)) →
          (¬apart → exec (.dregset j a b) s = .next ((trapBase s s3.ctx.pops none).takeTrap 0x1A base)) ∧
          (apart → Late s3 → exec (.dregset j a b) s = .next s) ∧
          (apart → ¬Late s3 →
            ∃ D L J E, exec (.dregset j a b) s = .next (retire s (s3.mapCtx fun k => { k with dbase := D, dlen := L, dadj := J, esz := E }) {}) ∧
              D.getD i 0 = base ∧ (L.getD i 0).toNat = n ∧ J.getD i 0 = adj ∧ E.getLsbD i = c.getLsbD 3 ∧ ∀ r, r < 8 → r ≠ i →
                D.getD r 0 = s3.ctx.dbase.getD r 0 ∧ L.getD r 0 = s3.ctx.dlen.getD r 0 ∧ J.getD r 0 = s3.ctx.dadj.getD r 0 ∧
                  E.getLsbD r = s3.ctx.esz.getLsbD r))))

/-- An inverted, pushed or accumulated access of n bytes at a: its place lies in the pool or the stacks (R305), R246 does not
refuse it, and it is performed at once. -/
def Sys2Proof.Statements.Plainly (s : State) (p : Phys) (a : Word) (n : Nat) : Prop :=
  p.own = false ∧ (regionOf p.pa = .pool ∨ regionOf p.pa = .stackMem) ∧ s.inStep p.pa n = false ∧
    (s.ctx.diffMode = .fwd ∨ p.dh = true ∨ firstOverlap s.ctx.regions a.toNat n = none)

/-- Cell c is the adjoint cell of a in region r: the lowest region that holds a, at a boundary of its elements (R9, R305). -/
def Sys2Proof.Statements.CellOf (k : Ctx) (a c : Word) (r : Nat) : Prop :=
  r < 8 ∧ Statements.dbase k r ≤ a.toNat ∧ a.toNat < Statements.dbase k r + Statements.dlen k r ∧
    (∀ q, q < r → a.toNat < Statements.dbase k q ∨ Statements.dbase k q + Statements.dlen k q ≤ a.toNat) ∧
    c = Statements.dadj k r + BitVec.ofNat 64 ((a.toNat - Statements.dbase k r) / Statements.esize k r * 4)

/-- R305, R315, R307, R246: LDADJ, STADJ and ACCADJ complete on the adjoint cell of their primal address: a read, a write and
an FP32 sum rounded to nearest even. An address in no region traps with cause 0x1A, one inside an element with 0x03; so does,
with 0x1A, a cell outside the pool and the stacks, and one that TAPE and REV mode do not let be used. -/
def Sys2Proof.Statements.AdjointCellsAreReached : Prop :=
  ∀ (s s1 s2 s3 s4 : State) (d a : Opnd) (o : Order) (x c v : Word) (r : Nat) (p : Phys) (m : Nat) (i : Instr) (kind : AccKind),
    Solo s → Reads a s x s1 → (i, kind) ∈ ([(.ldadj d a, .load), (.stadj d a, .store), (.accadj d a o, .atomic)] : List (Instr × AccKind)) →
    ((∀ r, r < 8 → x.toNat < Statements.dbase s1.ctx r ∨ Statements.dbase s1.ctx r + Statements.dlen s1.ctx r ≤ x.toNat) →
      exec i s = .next ((trapBase s s1.ctx.pops none).takeTrap 0x1A x)) ∧
    (CellOf s1.ctx x c r →
      ((x.toNat - Statements.dbase s1.ctx r) % Statements.esize s1.ctx r ≠ 0 → exec i s = .next ((trapBase s s1.ctx.pops none).takeTrap 0x03 x)) ∧
      ((x.toNat - Statements.dbase s1.ctx r) % Statements.esize s1.ctx r = 0 → Goes kind false c s1 p s2 →
        (p.own = true ∨ regionOf p.pa ≠ .pool ∧ regionOf p.pa ≠ .stackMem → exec i s = .next ((trapBase s s2.ctx.pops none).takeTrap 0x1A c)) ∧
        (∀ lo, p.own = false → regionOf p.pa = .pool ∨ regionOf p.pa = .stackMem → s.ctx.diffMode ≠ .fwd → p.dh = false →
          firstOverlap s2.ctx.regions c.toNat 4 = some lo → exec i s = .next ((trapBase s s2.ctx.pops none).takeTrap 0x1A (BitVec.ofNat 64 lo))) ∧
        (Plainly s2 p c 4 →
          (i = .ldadj d a → s2.failing p.pa 4 = false → Writes (.ldadj d a) d (BitVec.ofNat 64 (natOfBytes (s2.view p.pa 4))) s2 s3 →
            exec i s = .next (retire s (tracedResult d 0 2 c p s3) {})) ∧
          (i = .stadj d a → Reads d s2 v s3 → Stored c p (bytesOfNat 4 v.toNat) s3 s4 → exec i s = .next (retire s (traced 1 2 c p s4) {})) ∧
          (i = .accadj d a o → s2.failing p.pa 4 = false → Reads d s2 v s3 → m = natOfBytes (s3.bytes (canon p.pa) 4) →
            exec i s = .next (retire s (traced 2 2 c p
              (s3.poke (canon p.pa) (bytesOfNat 4 (Machine.round .fp32 .nearest false 0 (addN .nearest (Fmt.value .fp32 m) (val v)).1).1))) {})))))

/-- R45, R114, R310 to R314: in TAPE mode an ST into a region pushes the old value, with its address, kind and width, and then
stores; with no room for the entry it traps with cause 0x10, before the value of the store is taken. In REV mode an ST pops
its entry, puts the old value back and takes the cell's adjoint into its register, the cell then 0; an entry of another store
traps with cause 0x11; and an LD adds its register into the cell, the register then 0. -/
def Sys2Proof.Statements.AccessesInvert : Prop :=
  ∀ (s s1 s2 s3 s4 s5 s6 : State) (g : BitVec 5) (b : Opnd) (o : Opnd) (w : StWidth) (wl : LdWidth) (imm : BitVec 11) (base a v c pos : Word) (p q t : Phys)
    (n r m : Nat) (logw : BitVec 3) (entry : List Byte),
    Solo s → Reads b s base s1 → a = base + BitVec.ofInt 64 (imm.toInt * n) → a.toNat % n = 0 → CellOf s1.ctx a c r → p.dh = true →
    ((w, n, logw) ∈ storeWidths → Goes .store (decide (n = 8)) a s1 p s2 → Plainly s2 p a n →
      (s.ctx.diffMode = .tape → pos = s2.ctx.tapePos → pos.toNat % 16 = 0 →
        (s2.ctx.tapeLim.toNat < pos.toNat + 16 → exec (.st o b w imm) s = .next ((trapBase s s2.ctx.pops none).takeTrap 0x10 a)) ∧
        (pos.toNat + 16 ≤ s2.ctx.tapeLim.toNat → Goes .store false pos s2 t s3 → Plainly s3 t pos 16 → s3.failing p.pa n = false →
          Reads o s3 v s4 →
          Stored a p (bytesOfNat n v.toNat) ((s4.poke (canon t.pa) (bytesOfNat 8 (a.toNat % 2 ^ 53 + 2 ^ 53 * logw.toNat + 2 ^ 56) ++
            bytesOfNat 8 (natOfBytes (s3.view p.pa n)))).mapCtx fun k => { k with tapePos := pos + 16 }) s5 →
          exec (.st o b w imm) s = .next (retire s (traced 1 logw a p s5) {}))) ∧
      (s.ctx.diffMode = .rev → n = Statements.esize s1.ctx r → pos = s2.ctx.tapePos - 16 → pos.toNat % 16 = 0 →
        (s2.ctx.tapePos.toNat < s2.ctx.tapeBase.toNat + 16 →
          exec (.st (.x g) b w imm) s = .next ((trapBase s s2.ctx.pops none).takeTrap 0x11 s2.ctx.tapePos)) ∧
        (s2.ctx.tapeBase.toNat + 16 ≤ s2.ctx.tapePos.toNat → Goes .load false pos s2 t s3 → Plainly s3 t pos 16 → s3.failing t.pa 16 = false →
          entry = s3.bytes (canon t.pa) 16 →
          (natOfBytes (entry.take 8) ≠ a.toNat % 2 ^ 53 + 2 ^ 53 * logw.toNat + 2 ^ 56 →
            exec (.st (.x g) b w imm) s = .next ((trapBase s s3.ctx.pops none).takeTrap 0x11 a)) ∧
          (natOfBytes (entry.take 8) = a.toNat % 2 ^ 53 + 2 ^ 53 * logw.toNat + 2 ^ 56 → Reads (.x g) s3 v s3 →
            Goes .atomic false c s3 q s4 → Plainly s4 q c 4 → s4.failing q.pa 4 = false → m = natOfBytes (s4.bytes (canon q.pa) 4) →
            Stored a p ((entry.drop 8).take n) (s4.poke (canon q.pa) (bytesOfNat 4 0)) s5 →
            Writes (.st (.x g) b w imm) (.x g)
              (BitVec.ofNat 64 (Machine.round .fp32 .nearest false 0 (addN .nearest (val v) (Fmt.value .fp32 m)).1).1)
              (s5.mapCtx fun k => { k with tapePos := s5.ctx.tapePos - 16 }) s6 →
            exec (.st (.x g) b w imm) s = .next (retire s (traced 1 logw a p s6) {}))))) ∧
    ((∃ ext, (wl, n, logw, ext) ∈ loadWidths) → Goes .load (decide (n = 8)) a s1 p s2 → Plainly s2 p a n → s.ctx.diffMode = .rev →
      n = Statements.esize s1.ctx r → Reads (.x g) s2 v s2 → Goes .atomic false c s2 q s3 → Plainly s3 q c 4 → s3.failing q.pa 4 = false →
      m = natOfBytes (s3.bytes (canon q.pa) 4) →
      Writes (.ld (.x g) b wl imm) (.x g) 0
        (s3.poke (canon q.pa) (bytesOfNat 4 (Machine.round .fp32 .nearest false 0 (addN .nearest (Fmt.value .fp32 m) (val v)).1).1)) s4 →
      exec (.ld (.x g) b wl imm) s = .next (retire s (traced 0 logw a p s4) {}))

/-- R304 to R315: the differentiable-memory instructions, and the accesses that TAPE and REV mode change (log entries 12 and 67). -/
def Obligations.DifferentiableMemory : Prop := ModesAndRegionsAreSet ∧ AdjointCellsAreReached ∧ AccessesInvert

/-! ## Stack engines -/

/-- The doublewords of a descriptor. -/
def Sys2Proof.Statements.words (bs : List Byte) (n : Nat) : List Word :=
  (List.range n).map fun i => BitVec.ofNat 64 (natOfBytes ((bs.drop (8 * i)).take 8))

/-- What every stack-engine command asks for (R316, R344): its token is not pending, the core has fewer than 8 such commands
outstanding, and in REV mode without PRIMAL its footprint meets no declared region. -/
def Sys2Proof.Statements.MayIssue (s : State) (t : BitVec 5) (foot : List (Word × Nat)) : Prop :=
  s.ctx.pend.getLsbD t.toNat = false ∧ (s.cmds.filter fun c => c.who.core == s.core.id && c.kind.isStack).length < 8 ∧
    (s.ctx.diffMode = .rev → s.ctx.modPrimal = false → lowestRegion s.ctx.regions foot = none)

/-- A stack stands in RANK mode with no switch in progress (R329). -/
def Sys2Proof.Statements.InRankMode (s : State) (n : Nat) : Prop := (s.stack n).mode = true ∧ (s.stack n).swp = false

/-- Does the tenant own the bank column: the stack rows of R235 that R242 gives it? -/
def Sys2Proof.Statements.OwnsColumn (s : State) (c : Nat) : Prop :=
  (s.sown.get (c % 64) 0).getLsbD 7 = true ∧ (s.sown.get (c % 64) 0).extractLsb' 0 6 = s.tenant

/-- The bytes of some ranges as a footprint (R268). -/
def Sys2Proof.Statements.ranges (rs : List (Word × Nat)) : List Foot := rs.map fun r => .va r.1 r.2

/-- R268, R169, R344: it is a command's turn where no earlier command of its strand that is outstanding shares a byte of its
footprint, and no earlier store of the strand that is on its way to another package does. -/
def Sys2Proof.Statements.TurnsFollowTheFootprints : Prop :=
  ∀ (s : State) (c : Cmd),
    s.cmdTurn c = true ↔
      (∀ d ∈ s.cmds, d.id < c.id → d.who = c.who → ∀ p ∈ s.footprint d, ∀ q ∈ s.footprint c, ¬(p.1 < q.1 + q.2 ∧ q.1 < p.1 + p.2)) ∧
      ∀ r ∈ s.fabric.reqs, r.2.who = c.who → r.2.use = .posted → ∀ va n, Foot.va va n ∈ c.foot →
        ¬(r.2.va.toNat < va.toNat + n ∧ va.toNat < r.2.va.toNat + r.2.len)

/-- R340, R342 to R345: UPDT, FMT, RKLOAD and RKRUN are issued where their descriptors are legal, each with the bytes it may
touch; RKRUN starts every member of its group at its entry, which runs once it is the command's turn (log entries 52 to 54). RKSTAT gives the status of a rank and may clear a failed one. SMODE issues a switch, and gives 0
at once where the stack is in that mode already. -/
def Sys2Proof.Statements.StackCommandsStart : Prop :=
  ∀ (s s1 s2 s3 : State) (t : BitVec 5) (d a b : Opnd) (x w : Word) (bs : List Byte) (n : Nat) (r : StepCtx),
    Solo s → Reads a s x s1 →
    (x.toNat % 8 = 0 → memLoad x 64 s1.ctx.modPrimal s1 = .ok (bs, s2) → updtOk (words bs 8) = true →
      ∀ rs, rs = [((words bs 8).getD 0 0, 16 * ((words bs 8).getD 1 0).toNat),
        ((words bs 8).getD 2 0, (if ((words bs 8).getD 3 0).getLsbD 0 then 4 else 2) * ((words bs 8).getD 1 0).toNat)] → MayIssue s2 t rs →
      Issues (.updt t a) t (.updt (words bs 8)) (ranges rs) .updtComplete s s2) ∧
    (∀ f, x.toNat % 8 = 0 → memLoad x 48 s1.ctx.modPrimal s1 = .ok (bs, s2) → fmtDesc (words bs 6) = some f → fmtConfOk ((words bs 6).getD 3 0) = true → f.ok = true →
      MayIssue s2 t f.foot → Issues (.fmt t a) t (.fmt (words bs 6)) (ranges f.foot) .fmtComplete s s2) ∧
    (∀ st first count : Nat, ∀ cols : List Nat, Reads b s1 w s2 → x.toNat % 4 = 0 → w.toNat < 2 ^ 32 →
      st = w.toNat / 2 ^ 6 % 16 → first = w.toNat / 2 ^ 10 % 1024 → count = w.toNat / 2 ^ 20 % 2048 →
      cols = (if w.getLsbD 31 then List.range 64 else [w.toNat % 64]) →
      st ≤ 11 → 1 ≤ count → first + count ≤ 1024 → (∀ c ∈ cols, OwnsColumn s2 c) → InRankMode s2 st →
      (∀ r ∈ s2.ranks, r.1 / 1024 = st → r.1 / 16 % 64 ∈ cols → r.2.state.isLive = false) → MayIssue s2 t [(x, 4 * count)] →
      Issues (.rkload t a b) t (.rkload x w) (ranges [(x, 4 * count)]) .rkloadComplete s s2) ∧
    (∀ d ms, x.toNat % 8 = 0 → memLoad x 64 s1.ctx.modPrimal s1 = .ok (bs, s2) → d = words bs 8 → runOk d = true → ms = (runGroup d).members →
      (∀ m ∈ ms, OwnsColumn s2 (m / 16 % 64) ∧ InRankMode s2 (m / 1024) ∧ (s2.rank m).state.isLive = false ∧ (s2.rank m).state ≠ .failed) →
      MayIssue s2 t [] →
      Issues (.rkrun t a) t (.rkrun d ms) (ms.map fun m => .pa (2 ^ 50 + m * 2 ^ 26 + 1024 * ((d.getD 3 0).toNat % 2 ^ 16))
        (1024 * ((d.getD 3 0).toNat / 2 ^ 16 % 2 ^ 16))) .rankProgramComplete s s2 ∧
      ∀ u, exec (.rkrun t a) s = .next u →
        (∀ m ∈ ms, u.rank m = { StepCtx.reset with
          state := .running, spc := (d.getD 0 0).toNat / 2 ^ 16 % 1024, group := runGroup d, wrow := (d.getD 3 0).toNat % 2 ^ 16
          wrows := (d.getD 3 0).toNat / 2 ^ 16 % 2 ^ 16, tmo := if (d.getD 4 0).toNat % 2 ^ 16 = 0 then 100 else (d.getD 4 0).toNat % 2 ^ 16
          run := some s2.nextCmd, tenant := s2.tenant, overBudget := (s2.rank m).overBudget }) ∧
        ∀ m, m ∉ ms → u.rank m = s2.rank m) ∧
    (x.toNat < 12288 → OwnsColumn s1 (x.toNat / 16 % 64) → r = s1.rank x.toNat →
      ∀ clear, Writes (.rkstat d a clear) d (BitVec.ofNat 64 ((match r.state with | .idle => 0 | .running => 1 | .inStep => 2 | .halted => 4 | .failed => 5) +
          (if r.wt then 8 else 0) + 16 * r.reason.toNat + 2 ^ 8 * (r.spc % 1024) + 2 ^ 32 * r.steps.toNat)) s1 s2 →
        exec (.rkstat d a clear) s = .next (retire s (if clear = true ∧ (s2.rank x.toNat).state = .failed then
          s2.setRank x.toNat { s2.rank x.toNat with state := .idle } else s2) {})) ∧
    (s.ctx.pl = 0 → exec (.smode t a) s = .next ((trapBase s s.ctx.pops none).takeTrap 0x06 (wordOf (.smode t a)))) ∧
    (∀ to', s.ctx.pl ≠ 0 → n = x.toNat % 16 → to' = x.getLsbD 4 → n ≤ 11 → x.toNat / 32 % 2 ^ 11 = 0 → x.toNat < 2 ^ 32 →
      (s1.ctx.pl = 3 ∨ (∃ c, c < 64 ∧ OwnsColumn s1 c) ∧ ∀ c, c < 64 → (s1.sown.get c 0).getLsbD 7 = true → OwnsColumn s1 c) →
      (s1.stack n).swp = false → s1.ctx.pend.getLsbD t.toNat = false →
      (s1.cmds.filter fun c => c.who.core == s1.core.id && c.kind.isStack).length < 8 →
      ((s1.stack n).mode = to' → s3 = noted 0 0 s1 →
        exec (.smode t a) s = .next (retire s (s3.mapCtx fun k => { k with x := if t = 0 then k.x else k.x.set t.toNat 0 t.isLt }) {})) ∧
      ((s1.stack n).mode ≠ to' →
        ∃ u, exec (.smode t a) s = .next u ∧ u.ctx.pend = s1.ctx.pend ||| (1#32 <<< t.toNat) ∧ u.ctx.x = s1.ctx.x ∧ u.mem = s1.mem ∧
          (u.stack n) = { s1.stack n with swp := true, smode := some s1.nextCmd } ∧ (∃ c, u.cmds = s1.cmds ++ [c] ∧ c.id = s1.nextCmd ∧ c.token = t ∧ c.who = s1.who) ∧
          u.due = s1.due ++ ⟨.modeSwitchComplete (BitVec.ofNat 4 n), none⟩ ::
            (if to' then [] else [⟨.switchDeadline (BitVec.ofNat 4 n),
              some (s1.cycle.toNat + 1400 * if x.toNat / 2 ^ 16 % 2 ^ 16 = 0 then 100 else x.toNat / 2 ^ 16 % 2 ^ 16)⟩])))

/-- R268, R340, R342 to R345: stack commands are issued, and take their turns. -/
def Obligations.StackCommandsAreIssued : Prop := TurnsFollowTheFootprints ∧ StackCommandsStart

/-- RoundNE32 (R9), and the FP32 arithmetic of R340, each with one rounding. -/
def Sys2Proof.Statements.rn (x : Machine.Num × Bool) : Nat := (Machine.round .fp32 .nearest false 0 x.1).1
def Sys2Proof.Statements.plus (a b : Nat) : Nat := Statements.rn (addN .nearest (Fmt.value .fp32 a) (Fmt.value .fp32 b))
def Sys2Proof.Statements.minus (a b : Nat) : Nat := Statements.rn (addN .nearest (Fmt.value .fp32 a) (Fmt.value .fp32 b).negate)
def Sys2Proof.Statements.times (a b : Nat) : Nat := Statements.rn (mulN (Fmt.value .fp32 a) (Fmt.value .fp32 b))

/-- R340, R341: an act of the optimiser unit commits one row of records; the update of one is R340's, its gradient scaled
first; a gradient that is then no finite number counts the record as skipped, saturating. -/
def Sys2Proof.Statements.RecordsAreUpdated : Prop :=
  ∀ (r : ParamRec) (d : List Word) (grad g m v u : Nat) (lo hi : Nat → Nat),
    (∀ i, lo i = (d.getD i 0).toNat % 2 ^ 32) → (∀ i, hi i = (d.getD i 0).toNat / 2 ^ 32) → g = times (hi 6) grad →
    (Fmt.isNan .fp32 g = true ∨ Fmt.isInf .fp32 g = true → r.update d grad = ({ r with skip := min (r.skip + 1) 0xFFFF }, true)) ∧
    (Fmt.isNan .fp32 g = false → Fmt.isInf .fp32 g = false →
      m = plus (times (lo 5) r.m) (times (minus 0x3F800000 (lo 5)) g) →
      v = plus (times (hi 5) r.v) (times (minus 0x3F800000 (hi 5)) (times g g)) →
      u = plus (Statements.rn (divN (Fmt.value .fp32 (times m (lo 7)))
            (Fmt.value .fp32 (plus (Statements.rn (sqrtN (Fmt.value .fp32 (times v (hi 7))))) (lo 6))))) (times (hi 4) r.w) →
      ∃ w, w = minus r.w (times (lo 4) u) ∧
        r.update d grad = (⟨w, m, v, (Machine.round .bf16 .nearest false 0 (Fmt.value .fp32 w)).1, r.skip⟩, false))

/-- R268, R340 to R344: the completions of the stack-engine commands, each once it is its command's turn. UPDT and FMT do a row
at each act; the last one lands the token with the bytes done, a fault its error record. RKLOAD's words stand in the step
stores of its columns. RKRUN's token lands once no member of its run is live, with the number of members, or cause 0x17 and
the lowest that failed; the counter that its descriptor names is raised. -/
def Sys2Proof.Statements.StackCommandsComplete : Prop :=
  ∀ (s u v : State) (id n rows : Nat) (c : Cmd) (p : List RemoteVal) (cause : BitVec 8) (d : List Word) (f : FmtDesc),
    s.cmd? id = some c → c.tag = none →
    (∀ (i : Instr) (act : Act) (work : E Nat), u = { s with due := u.due } →
      (i = .updtComplete ∧ act = .updtComplete id ∧ c.kind = .updt d ∧ rows = ((d.getD 1 0).toNat % 2 ^ 32 + 63) / 64 ∧ work = updtRow (u.engOf c) d c.step ∨
        i = .fmtComplete ∧ act = .fmtComplete id ∧ c.kind = .fmt d ∧ fmtDesc d = some f ∧ rows = f.dstRows ∧ work = fmtStep (u.engOf c) f c.step) →
      (∃ y, s.due = ⟨act, y⟩ :: u.due) →
      (s.cmdTurn c = false → exec i s = .next s) ∧
      (s.cmdTurn c = true → work (u, c.got) = .ok (n, (v, p)) →
        (rows ≤ c.step + 1 → exec i s = .next (v.finish c (BitVec.ofNat 64 (c.moved + n)))) ∧
        (c.step + 1 < rows → exec i s = .next { v with
          cmds := v.cmds.map fun d => if d.id = c.id then { d with step := c.step + 1, moved := c.moved + n, got := [] } else d,
          due := v.due ++ [⟨act, none⟩] })) ∧
      (s.cmdTurn c = true → work (u, c.got) = .error (.fault cause) → exec i s = .next (u.finish c (1#1 ++ 0#7 ++ cause ++ BitVec.ofNat 48 c.moved)))) ∧
    (Takes (.rkloadComplete id) s u → u.cmdTurn c = false → exec .rkloadComplete s = .next { u with due := u.due ++ [⟨.rkloadComplete id, none⟩] }) ∧
    (∀ x w bs, Takes (.rkloadComplete id) s u → u.cmdTurn c = true → c.kind = .rkload x w → eRead (u.engOf c) x (4 * (w.toNat / 2 ^ 20 % 2048)) (u, c.got) = .ok (bs, (v, p)) →
      ∃ z : State, exec .rkloadComplete s = .next (z.finish c (BitVec.ofNat 64 (4 * (w.toNat / 2 ^ 20 % 2048)))) ∧ z = { v with seqs := z.seqs } ∧
        ∀ col i, i < 1024 → ((z.sequencer col).counters = (v.sequencer col).counters) ∧ (z.sequencer col).store.get i 0 =
          if col / 64 = w.toNat / 2 ^ 6 % 16 ∧ (w.getLsbD 31 = true ∨ col % 64 = w.toNat % 64) ∧ w.toNat / 2 ^ 10 % 1024 ≤ i ∧
              i < w.toNat / 2 ^ 10 % 1024 + w.toNat / 2 ^ 20 % 2048 then
            BitVec.ofNat 32 (natOfBytes ((bs.drop (4 * (i - w.toNat / 2 ^ 10 % 1024))).take 4))
          else (v.sequencer col).store.get i 0) ∧
    (∀ ms mine : List Nat, Takes (.rankProgramComplete id) s u → c.kind = .rkrun d ms → mine = ms.filter (fun m => (s.rank m).run == some id) →
      ((∃ m ∈ mine, (s.rank m).state.isLive = true) → exec .rankProgramComplete s = .next s) ∧
      ((d.getD 5 0).getLsbD 17 = true → (s.getCore ((d.getD 5 0).extractLsb' 0 13)).holding = true → exec .rankProgramComplete s = .next s) ∧
      ((∀ m ∈ mine, (s.rank m).state.isLive = false) →
        ((d.getD 5 0).getLsbD 17 = false ∧ v = u ∨ (d.getD 5 0).getLsbD 17 = true ∧ (s.getCore ((d.getD 5 0).extractLsb' 0 13)).holding = false ∧
          v = u.raiseAt ((d.getD 5 0).extractLsb' 0 13) ((d.getD 5 0).extractLsb' 13 4)) →
        ((∀ m ∈ mine, (s.rank m).state ≠ .failed) → exec .rankProgramComplete s = .next (v.finish c (BitVec.ofNat 64 ms.length))) ∧
        (∀ m ∈ mine, (s.rank m).state = .failed → (∀ q ∈ mine, (s.rank q).state = .failed → m ≤ q) →
          exec .rankProgramComplete s = .next (v.finish c (1#1 ++ 0#7 ++ 0x17#8 ++ BitVec.ofNat 48 m)))))

/-- R329, R337, R346: a switch completes once no rank of the stack is in a step, and fails at its deadline; ACTCFG sets
the budget and the window, SCADD adds to a counter, an alert is counted, and one over the budget fails the rank's next
collective step, with a window's start due; WIN begins anew with each window (log entries 52, 54, 55 and 87). -/
def Sys2Proof.Statements.StackRegistersChange : Prop :=
  ∀ (s u : State) (st : BitVec 4) (k : Stack) (c : Cmd) (id : Nat) (w : Who) (ws : List Word) (rank : BitVec 14) (x : Word),
    k = s.stack st.toNat →
    (Takes (.modeSwitchComplete st) s u → k.swp = true →
      (k.mode = true → (∃ r ∈ s.ranks, r.1 / 1024 = st.toNat ∧ r.2.state = .inStep) → exec .modeSwitchComplete s = .next s) ∧
      ((k.mode = false ∨ ∀ r ∈ s.ranks, r.1 / 1024 = st.toNat → r.2.state ≠ .inStep) → k.smode = some id → s.cmd? id = some c →
        ∃ v : State, exec .modeSwitchComplete s = .next (v.finish c 0) ∧
          v = { u with stackRegs := v.stackRegs, tick := v.tick, due := u.due.filter fun d => d.act != .modeSwitchComplete st && d.act != .switchDeadline st } ∧
          v.stack st.toNat = { k with mode := !k.mode, swp := false, swdone := true, swcnt := k.swcnt + 1, smode := none, scr := (v.stack st.toNat).scr } ∧
          ∀ n, n ≠ st.toNat → v.stack n = s.stack n)) ∧
    (Takes (.switchDeadline st) s u →
      (k.swp = false → exec .switchDeadline s = .next u) ∧
      (k.swp = true → k.smode = some id → s.cmd? id = some c →
        ∃ v : State, exec .switchDeadline s = .next (v.finish c (1#1 ++ 0#7 ++ 0x1A#8 ++ 0#48)) ∧
          v = { u with stackRegs := v.stackRegs, due := u.due.filter fun d => d.act != .modeSwitchComplete st && d.act != .switchDeadline st } ∧
          v.stack st.toNat = { k with swp := false, swf := true, smode := none } ∧ ∀ n, n ≠ st.toNat → v.stack n = s.stack n)) ∧
    (x = ws.headD 0 →
      (Takes (.actcfg w ws) s u → st.toNat = x.toNat % 16 →
        exec .actcfg s = .next ((u.setStack st.toNat { k with budget := x.extractLsb' 8 8, winus := x.extractLsb' 16 16 }).settle w.core)) ∧
      (Takes (.scadd w ws) s u →
        (s.fabric.reqs.any (fun r => r.2.who == w && r.2.use == .posted) = true → exec .scadd s = .next s) ∧
        (s.fabric.reqs.any (fun r => r.2.who == w && r.2.use == .posted) = false →
          ∃ v : State, exec .scadd s = .next (v.settle w.core) ∧ v = { u with seqs := v.seqs } ∧
            ∀ q j, (v.sequencer q).store = (u.sequencer q).store ∧ (v.sequencer q).counters.get j 0 =
              (u.sequencer q).counters.get j 0 + if q = x.toNat % 1024 ∧ j = x.toNat / 2 ^ 10 % 16 then x.extractLsb' 16 16 else 0))) ∧
    (Takes (.activationAlert rank) s u → st.toNat = rank.toNat / 1024 →
      ((s.rank rank.toNat).state = .inStep → exec .activationAlert s = .next s) ∧
      ((s.rank rank.toNat).state ≠ .inStep →
        ∃ v, exec .activationAlert s = .next v ∧ v.mem = s.mem ∧
          v.stack st.toNat = { k with alerts := k.alerts + 1, win := if k.win = 255 then 255 else k.win + 1 } ∧
          v.rank rank.toNat = { s.rank rank.toNat with
            overBudget := (s.rank rank.toNat).overBudget || decide (k.budget ≠ 0 ∧ k.budget.toNat < min 255 (k.win.toNat + 1)) } ∧
          ∃ y ∈ v.due, y.act = .alertWindowStart st)) ∧
    (Takes (.alertWindowStart st) s u →
      exec .alertWindowStart s = .next { u.setStack st.toNat { k with win := 0 } with
        due := u.due ++ [⟨.alertWindowStart st, some (s.cycle.toNat + 1400 * k.winus.toNat)⟩] })

/-- R329, R337, R340 to R346: what the stack engines complete (log entries 52 to 55). -/
def Obligations.StackEnginesComplete : Prop := RecordsAreUpdated ∧ StackCommandsComplete ∧ StackRegistersChange

/-! ## Step words -/

/-- Context u, which is k, runs the word in hand (R330). -/
def Sys2Proof.Statements.Running (u : StepUnit) (k : StepCtx) (s : State) : Prop :=
  s.unit = some u ∧ s.stepCtx u = some k ∧ k.state = .running ∧ s.fragmentRefused u = false

/-- The context goes on at a word, changed, its wait over. -/
def Sys2Proof.Statements.onward (u : StepUnit) (f : StepCtx → StepCtx) (i : Nat) (s : State) : State :=
  (s.modStep u fun k => { f k with wt := false, since := none }).stepTo u i

/-- R330, R333, R334: the control words complete. A wait that is met goes on to the next word, and one that is not stands,
its time-out due. Control past the last word of the store fails the context with reason 5, and a context of which a fragment was
refused fails at its next word with reason 7 (R359). A signal wakes a core that sleeps (R366; log entries 57 and 60). -/
def Obligations.ControlWordsGoOn : Prop :=
  ∀ (s : State) (u : StepUnit) (k : StepCtx),
    Running u k s →
    exec .sHalt s = .next (onward u (fun k => { k with state := .halted, inbox := [] }) k.spc s) ∧
    (∀ (d : BitVec 2) (n : BitVec 6),
      (k.group.peer (s.memberId u) d n.toInt = none → exec (.sWaitPeer d n) s = .next (s.failStep u 5)) ∧
      (∀ p, k.group.peer (s.memberId u) d n.toInt = some p →
        ((s.peerSteps u k p - k.steps).toNat < 2 ^ 15 → exec (.sWaitPeer d n) s = .next (onward u id (k.spc + 1) s)) ∧
        (2 ^ 15 ≤ (s.peerSteps u k p - k.steps).toNat → exec (.sWaitPeer d n) s = .next (s.stepWait u)))) ∧
    (∀ (n : BitVec 4) (t : BitVec 16),
      (∀ c, u = .coll c → exec (.sWaitCounter n t) s = .next (s.failStep u 5)) ∧
      (∀ id v, u = .rank id → v = ((s.seqs.get (id.toNat / 16) ⟨[], []⟩).counters.get n.toNat 0) →
        ((v - t).toNat < 2 ^ 15 → exec (.sWaitCounter n t) s = .next (onward u (fun x => x) (k.spc + 1) s)) ∧
        (2 ^ 15 ≤ (v - t).toNat → exec (.sWaitCounter n t) s = .next (s.stepWait u)))) ∧
    (∀ (v : Bool) (l l' : StepLoop) (set : StepLoop → StepCtx → StepCtx), l = (if v then k.loops[1] else k.loops[0]) →
      (∀ x c, set x c = { c with loops := if v then #v[c.loops[0], x] else #v[x, c.loops[1]] }) →
      (∀ (e : BitVec 10) (c : BitVec 16),
        (l.active = true → exec (.sLoop v e c) s = .next (s.failStep u 5)) ∧
        (l.active = false → c = 0 → exec (.sLoop v e c) s = .next (onward u id (k.spc + e.toNat + 1) s)) ∧
        (l.active = false → c ≠ 0 → exec (.sLoop v e c) s = .next (onward u (set ⟨true, c.toNat, k.spc + 1, k.spc + e.toNat⟩) (k.spc + 1) s))) ∧
      (l.active = false ∨ l.last ≠ k.spc → exec (.sEndl v) s = .next (s.failStep u 5)) ∧
      (l.active = true → l.last = k.spc →
        (1 < l.count → l' = { l with count := l.count - 1 } → exec (.sEndl v) s = .next (onward u (set l') l.first s)) ∧
        (l.count ≤ 1 → l' = { l with active := false, count := 0 } → exec (.sEndl v) s = .next (onward u (set l') (k.spc + 1) s)))) ∧
    (∀ (a : BitVec 3) (i : BitVec 24),
      exec (.sSeta a i) s = .next (onward u (fun k => { k with a := k.a.set a.toNat (BitVec.ofNat 26 (4 * i.toNat)) a.isLt }) (k.spc + 1) s) ∧
      exec (.sAdda a i) s = .next (onward u (fun k => { k with
        a := k.a.set a.toNat (BitVec.ofInt 26 ((k.a.get a.toFin).toNat + 4 * i.toInt)) a.isLt }) (k.spc + 1) s)) ∧
    (∀ (c : BitVec 13) (n : BitVec 4),
      (s.tenantOf c ≠ k.tenant → exec (.sSignal c n) s = .next (s.failStep u 5)) ∧
      (s.tenantOf c = k.tenant → (s.getCore c).holding = true → exec (.sSignal c n) s = .next (onward u id k.spc s)) ∧
      (s.tenantOf c = k.tenant → (s.getCore c).holding = false → exec (.sSignal c n) s = .next (onward u id (k.spc + 1)
        ((s.rouse (.core c)).modCore c fun x => { x with
          counters := x.counters.set n.toNat ⟨(x.counters.get n.toFin).val + 1, (x.counters.get n.toFin).tag⟩ n.isLt })))) ∧
    (∀ (s' : State) (i : Instr), s'.unit = some u → s'.stepCtx u = some k → k.state = .running → s'.fragmentRefused u = true →
      (∃ v, i = .sEndl v) ∨ (∃ a w, i = .sSeta a w) ∨ i = .sHalt → exec i s' = .next (s'.failStep u 7)) ∧
    (∀ id i, u = .rank id →
      (i < 1024 → s.stepTo u i = s.setRank id.toNat { s.rank id.toNat with spc := i }) ∧
      (1024 ≤ i → ((s.stepTo u i).rank id.toNat).state = .failed ∧ ((s.stepTo u i).rank id.toNat).reason = 5))

/-- Context u, which is k, may run the collective step in hand (R330, R336, R337, R359); s0 is s with it in the step. -/
def Sys2Proof.Statements.MayStep (u : StepUnit) (k : StepCtx) (s s0 : State) : Prop :=
  s.unit = some u ∧ s.stepCtx u = some k ∧ k.state = .running ∧ k.advance = false ∧ s0 = s.modStep u (fun k => { k with state := .inStep }) ∧
    (∀ id, u = .rank id → InRankMode s (id.toNat / 1024) ∧ k.overBudget = false) ∧ (∀ n, u = .coll n → s.fragmentRefused u = false)

/-- The step has done its work, and its boundary is due. -/
def Sys2Proof.Statements.stepped (u : StepUnit) (f : StepCtx → StepCtx) (s : State) : State :=
  { s.modStep u (fun k => { f k with wt := false, since := none, taken := none, given := 0, advance := true }) with
    due := s.due ++ [⟨.stepBoundary u, none⟩] }

/-- R333, R357: SEND, RECV, RRS, RRED and COPY do their work where the range lies in the window: a delivery that has room,
a fragment of the right length, bytes staged. A range outside fails with reason 3; a full buffer, and a fragment that
has not come, make the step wait. -/
def Sys2Proof.Statements.FragmentsMove : Prop :=
  ∀ (s s0 t t' : State) (u : StepUnit) (k : StepCtx) (a b : BitVec 3) (d : BitVec 2) (j : BitVec 6) (l : BitVec 10) (ty : RankType) (f : RankOp)
    (x y n p q : Nat) (v g : List Byte),
    MayStep u k s s0 → x = (k.a.get a.toFin).toNat → n = 4 * (l.toNat + 1) →
    (x % 4 ≠ 0 ∨ s0.wsize u < x + n →
      ∀ i, i ∈ ([.sSend a d j l, .sRecv a d j l, .sRrs a d j ty f l, .sRred a d j ty f l, .sCopy a b l] : List Instr) →
        exec i s = .next (s0.failStep u 3)) ∧
    (x % 4 = 0 → x + n ≤ s0.wsize u →
      (k.group.peer (s.memberId u) d j.toInt = some p →
        (s0.stepFailing u x n = false →
          (s0.deliver u 1 p (s0.stepRead u x n) = .sent t → exec (.sSend a d j l) s = .next (stepped u id t)) ∧
          (s0.deliver u 1 p (s0.stepRead u x n) = .full → exec (.sSend a d j l) s = .next (s0.stepWait u))) ∧
        (k.taken = none →
          (s0.takeFrom u k p n = .got g t → exec (.sRecv a d j l) s = .next (stepped u (fun k => { k with staged := k.staged ++ [(x, g)] }) t)) ∧
          (s0.takeFrom u k p n = .nothing → exec (.sRecv a d j l) s = .next (s0.stepWait u)) ∧
          (s0.takeFrom u k p n = .wrongLength → exec (.sRecv a d j l) s = .next (s0.failStep u 5)) ∧
          (s0.takeFrom u k p n = .got g t → t.stepFailing u x n = false →
            exec (.sRred a d j ty f l) s =
              .next (stepped u (fun k => { k with staged := k.staged ++ [(x, rankOps ty f g (t.stepRead u x n))] }) t)))) ∧
      (k.group.peer (s.memberId u) d (-j.toInt) = some q → k.group.peer (s.memberId u) d j.toInt = some p → k.taken = none →
        s0.takeFrom u k q n = .got g t → t.stepFailing u x n = false →
        (t.modStep u fun k => { k with taken := some g, wt := false, since := none }).deliver u 3 p (rankOps ty f g (t.stepRead u x n)) = .sent t' →
        t.wsize u = s0.wsize u → exec (.sRrs a d j ty f l) s = .next (stepped u id t')) ∧
      (y = (k.a.get b.toFin).toNat → y % 4 = 0 → y + n ≤ s0.wsize u → s0.stepFailing u y n = false →
        exec (.sCopy a b l) s = .next (stepped u (fun k => { k with staged := k.staged ++ [(x, s0.stepRead u y n)] }) s0))) ∧
    (∀ id m c, u = .rank id →
      ((s.rank p).state.isLive = true → ((s.rank p).inbox.map fun f => f.2.length).sum + v.length ≤ 4096 →
        s.deliver u m p v = .sent (s.setRank p { s.rank p with inbox := (s.rank p).inbox ++ [(id.toNat, v)] })) ∧
      ((s.rank p).state.isLive = false ∨ 4096 < ((s.rank p).inbox.map fun f => f.2.length).sum + v.length → s.deliver u m p v = .full) ∧
      (∀ before after, c = s.rank id.toNat → c.inbox = before ++ (p, v) :: after → (∀ f ∈ before, f.1 ≠ p) →
        s.takeFrom u c p n = if v.length = n then .got v (s.setRank id.toNat { c with inbox := before ++ after }) else .wrongLength))

/-- Bit j of row i of a stretch of rows (R335). -/
def Sys2Proof.Statements.bitOf (bs : List Byte) (i j : Nat) : Bool := (bs.getD (1024 * i + j / 8) 0).getLsbD (j % 8)
/-- The number in lane j of w rows: bit i from row i (R335). -/
def Sys2Proof.Statements.laneOf (w : Nat) (bs : List Byte) (j : Nat) : Nat := ((List.range w).map fun i => if bitOf bs i j then 2 ^ i else 0).sum

/-- R335: the row steps stage their rows: BOP bit by bit, BSADD, BSSUB and BSMUL lane by lane modulo 2^w; MCAST delivers to
the other members of its stack and column. In a fabric collective they fail with reason 5 (R357). -/
def Sys2Proof.Statements.RowsCombine : Prop :=
  ∀ (s s0 t : State) (u : StepUnit) (k : StepCtx) (d x y z : BitVec 3) (r : BitVec 6) (w : BitVec 5) (l : BitVec 10) (n : Nat) (at' : BitVec 3 → Nat)
    (rows : BitVec 3 → List Byte) (id : BitVec 14),
    MayStep u k s s0 → (∀ a, at' a = (k.a.get a.toFin).toNat) → (∀ a, rows a = s0.stepRead u (at' a) (1024 * n)) →
    (∀ c, u = .coll c → ∀ g i, i ∈ ([.sBop g d x y z r, .sBsadd d x y w, .sBssub d x y w, .sBsmul d x y w, .sMcast x l] : List Instr) →
      exec i s = .next (s.failStep u 5)) ∧
    (u = .rank id → n = r.toNat + 1 →
      ∀ g from' f, (g, from', f) ∈ ([(.and, [x, y], fun a b _ => a && b), (.or, [x, y], fun a b _ => a || b),
          (.maj, [x, y, z], fun a b c => (a && b) || (a && c) || (b && c)), (.not, [x], fun a _ _ => !a), (.xor, [x, y], fun a b _ => a != b),
          (.copy, [x], fun a _ _ => a)] : List (BopFn × List (BitVec 3) × (Bool → Bool → Bool → Bool))) →
        (∀ a ∈ d :: from', at' a % 1024 = 0 ∧ at' a + 1024 * n ≤ s0.wsize u) → (∀ a ∈ from', s0.stepFailing u (at' a) (1024 * n) = false) →
        ∃ v, exec (.sBop g d x y z r) s = .next (stepped u (fun k => { k with staged := k.staged ++ [(at' d, v)] }) s0) ∧ v.length = 1024 * n ∧
          ∀ i j, i < n → j < 8192 → bitOf v i j = f (bitOf (rows x) i j) (bitOf (rows y) i j) (bitOf (rows z) i j)) ∧
    (u = .rank id → n = w.toNat + 1 → (∀ a ∈ [d, x, y], at' a % 1024 = 0 ∧ at' a + 1024 * n ≤ s0.wsize u) →
      (∀ a ∈ [x, y], s0.stepFailing u (at' a) (1024 * n) = false) →
      ∀ i f, (i, f) ∈ ([(.sBsadd d x y w, fun a b => a + b), (.sBssub d x y w, fun a b => 2 ^ n + a - b),
          (.sBsmul d x y w, fun a b => a * b)] : List (Instr × (Nat → Nat → Nat))) →
        ∃ v, exec i s = .next (stepped u (fun k => { k with staged := k.staged ++ [(at' d, v)] }) s0) ∧ v.length = 1024 * n ∧
          ∀ j, j < 8192 → laneOf n v j = f (laneOf n (rows x) j) (laneOf n (rows y) j) % 2 ^ n) ∧
    (u = .rank id → k.given = 0 → at' x % 4 = 0 → at' x + 4 * (l.toNat + 1) ≤ s0.wsize u → s0.stepFailing u (at' x) (4 * (l.toNat + 1)) = false →
      ∀ ps, ps = k.group.members.filter (fun p => p / 16 == id.toNat / 16 && p != id.toNat) →
        (ps = [] → exec (.sMcast x l) s = .next (stepped u (fun k => k) s0)) ∧
        (mcastFrom u (s0.stepRead u (at' x) (4 * (l.toNat + 1))) ps 0 s0 = .done t → exec (.sMcast x l) s = .next (stepped u (fun k => k) t)))

/-- R333, R336, R357: at its boundary a step publishes what it has staged, STEPS counts up and the context goes on at the
next word; a wait longer than its time-out fails the step with reason 1, an invalid word with reason 5. -/
def Sys2Proof.Statements.StepsEnd : Prop :=
  ∀ (s v : State) (u : StepUnit) (k : StepCtx) (c : CollCtx) (w : BitVec 32) (since : Nat),
    s.stepCtx u = some k →
    (Takes (.stepBoundary u) s v →
      (k.state ≠ .inStep ∨ k.advance = false → exec .stepBoundary s = .next v) ∧
      (k.state = .inStep → k.advance = true →
        (∀ id, u = .rank id → exec .stepBoundary s = .next (((k.staged.foldl (fun s p => s.stepWrite u p.1 p.2) v).modStep u fun k => { k with
          state := .running, staged := [], advance := false, steps := k.steps + 1 }).stepTo u (k.spc + 1))) ∧
        (∀ n, u = .coll n → s.fabric.colls.find? n.toNat = some c → (k.staged = [] ∨ (s.getCore c.who.core).holding = false) →
          exec .stepBoundary s = .next ((((v.publishColl n c).reportSteps c).modStep u fun k => { k with
            state := .running, staged := [], advance := false, steps := k.steps + 1 }).stepTo u (k.spc + 1))))) ∧
    (Takes (.peerTimeout u) s v →
      (k.since = none → exec .peerTimeout s = .next v) ∧
      (k.since = some since → (k.state = .running ∨ k.state = .inStep) → since + 1400 * k.tmo ≤ s.cycle.toNat → exec .peerTimeout s = .next (v.failStep u 1)) ∧
      (k.since = some since → s.cycle.toNat < since + 1400 * k.tmo → exec .peerTimeout s = .next v)) ∧
    (Takes (.invalidStep u w) s v →
      (k.state = .running ∨ k.state = .inStep → exec .invalidStep s = .next (v.failStep u 5)) ∧
      (k.state ≠ .running → k.state ≠ .inStep → exec .invalidStep s = .next v))

/-- R329, R330, R337, R359: a collective step of a rank in a stack that is not in RANK mode, or that a switch is about to leave,
fails with reason 6, one over its activation budget with reason 4; one of a fabric context whose fragment was refused with
reason 7. -/
def Sys2Proof.Statements.StepsAreRefused : Prop :=
  ∀ (s : State) (u : StepUnit) (k : StepCtx) (a b : BitVec 3) (d : BitVec 2) (j : BitVec 6) (l : BitVec 10) (ty : RankType) (f : RankOp) (i : Instr),
    s.unit = some u → s.stepCtx u = some k → k.state = .running →
    i ∈ ([.sSend a d j l, .sRecv a d j l, .sRrs a d j ty f l, .sRred a d j ty f l, .sCopy a b l, .sMcast a l] : List Instr) →
    (∀ id, u = .rank id →
      (¬InRankMode s (id.toNat / 1024) → exec i s = .next (s.failStep u 6)) ∧
      (InRankMode s (id.toNat / 1024) → k.overBudget = true →
        exec i s = .next ((s.modStep u fun k => { k with overBudget := false }).failStep u 4))) ∧
    (∀ n, u = .coll n → s.fragmentRefused u = true → exec i s = .next (s.failStep u 7))

/-- R333 to R336: the collective steps, the row steps, and their ends (log entries 56 and 58). -/
def Obligations.StepsAreTaken : Prop := FragmentsMove ∧ RowsCombine ∧ StepsEnd ∧ StepsAreRefused

/-! ## The fabric: instructions and q3 -/

/-- R356, R359: COLL is issued where its descriptor and image are legal, this package is a member, no context of its COLLID
and tenant runs, and one of the 16 is free; the context then runs from its first word. Its token lands once it has ended,
with the bytes written into the window. -/
def Sys2Proof.Statements.CollectivesRun : Prop :=
  ∀ (s s1 s2 s3 u : State) (t : BitVec 5) (a : Opnd) (x : Word) (bs image : List Byte) (d : List Word) (n nw id : Nat) (c : Cmd) (k : CollCtx) (f : Nat × CollCtx → Bool),
    (Solo s → Reads a s x s1 → x.toNat % 8 = 0 → memLoad x 64 s1.ctx.modPrimal s1 = .ok (bs, s2) → d = words bs 8 → (d.getD 3 0).toNat % 4 = 0 → collOk d = true →
      nw = (if (d.getD 0 0).toNat / 2 ^ 16 % 1024 = 0 then 1024 else (d.getD 0 0).toNat / 2 ^ 16 % 1024) →
      s2.pkgid.toNat ∈ (collGroup d).members → s2.collOf (collId d) s2.tenant = none →
      (s2.ctx.diffMode = .rev → s2.ctx.modPrimal = false →
        lowestRegion s2.ctx.regions [((collWbase d).setWidth 64, 128 * collWlines d), (d.getD 3 0, 4 * nw)] = none) →
      s2.ctx.pend.getLsbD t.toNat = false → (s2.cmds.filter fun c => c.who.core == s2.core.id && (c.kind.isStack || c.kind.isColl)).length < 8 →
      s2.freeColl (collId d) s2.tenant = some n → memLoad (d.getD 3 0) (4 * nw) s2.ctx.modPrimal s2 = .ok (image, s3) →
      Issues (.coll t a) t .coll (ranges [((collWbase d).setWidth 64, 128 * collWlines d)]) .collComplete s s3 ∧
      ∀ v, exec (.coll t a) s = .next v → ∃ c, v.fabric.colls.find? n = some c ∧ c.cx.state = .running ∧ c.cx.spc = 0 ∧ c.cx.steps = 0 ∧
        c.nw = nw ∧ c.who = s3.who ∧ c.cmd = s3.nextCmd ∧ c.cx.group = collGroup d ∧
        ∀ i, i < nw → c.store.getD i 0 = BitVec.ofNat 32 (natOfBytes ((image.drop (4 * i)).take 4))) ∧
    ((∀ e, f e = (e.2.cmd == id)) → Takes (.collComplete id) s u → s.cmd? id = some c → List.find? f s.fabric.colls = some (n, k) →
      (k.cx.state = .running ∨ k.cx.state = .inStep → exec .collComplete s = .next s) ∧
      (k.cx.state = .halted → exec .collComplete s = .next (u.finish c (BitVec.ofNat 64 k.written))) ∧
      (k.cx.state = .failed → exec .collComplete s =
        .next (u.finish c (1#1 ++ 0#7 ++ (if k.cx.reason = 7 then 0x15#8 else 0x17#8) ++ BitVec.ofNat 48 k.written))))

/-- R360, R363: DOMBAR gives KGEN once it has reached its generation, and waits for the pending one, the package having
arrived where none of its requests or messages is under way, whereupon a leader that has every member's arrival announces;
another generation traps with cause 0x1A. FSTAT gives the fabric's status by its selector. -/
def Sys2Proof.Statements.DomainIsAwaitedAndRead : Prop :=
  ∀ (s s1 s2 : State) (d a : Opnd) (x r : Word) (f : Fabric),
    Solo s → Reads a s x s1 → f = s1.fabric →
    (s.ctx.pl = 0 → exec (.dombar d a) s = .next ((trapBase s s.ctx.pops none).takeTrap 0x06 (wordOf (.dombar d a)))) ∧
    (s.ctx.pl ≠ 0 →
      ((f.kgen - x.setWidth 32).toNat < 2 ^ 31 → Writes (.dombar d a) d (f.kgen.setWidth 64) s1 s2 → exec (.dombar d a) s = .next (retire s s2 {})) ∧
      (2 ^ 31 ≤ (f.kgen - x.setWidth 32).toNat → f.target = some (x.setWidth 32) →
        (s.fabric.reqs = [] → (∀ y ∈ s.due, ∀ w ws, y.act ≠ .rsend w ws ∧ y.act ≠ .rlaunch w ws) →
          (s.fabric.leader = false → exec (.dombar d a) s = .next { s with fabric := { s.fabric with arrived := true } }) ∧
          (s.fabric.leader = true → exec (.dombar d a) s = .next { s with
            fabric := { s.fabric with arrived := true }
            due := s.due ++ if (∀ m ∈ s.fabric.members, m = 0#2 ++ s.pkgid ∨ m ∈ s.fabric.reported) ∧
              (∀ y ∈ s.due, y.act ≠ .generationAnnounce (x.setWidth 32)) then [⟨.generationAnnounce (x.setWidth 32), none⟩] else [] })) ∧
        (s.fabric.reqs ≠ [] ∨ (∃ y ∈ s.due, ∃ w ws, y.act = .rsend w ws ∨ y.act = .rlaunch w ws) → exec (.dombar d a) s = .next s)) ∧
      (2 ^ 31 ≤ (f.kgen - x.setWidth 32).toNat → f.target ≠ some (x.setWidth 32) →
        exec (.dombar d a) s = .next ((trapBase s s1.ctx.pops none).takeTrap 0x1A (BitVec.ofNat 64 (x.toNat % 2 ^ 32))))) ∧
    ((x = 0 ∧ r = BitVec.ofNat 64 (s1.pkgid.toNat + (if f.member then 2 ^ 10 else 0) + (if f.leader then 2 ^ 11 else 0) +
          (if f.target = none then 0 else 2 ^ 12) + 2 ^ 32 * f.kgen.toNat) ∨
        x = 1 ∧ r = BitVec.ofNat 64 ((match f.target with | some t => t.toNat | none => f.kgen.toNat) + 2 ^ 32 * (f.members.length % 2 ^ 16)) ∨
        x = 2 ∧ r = BitVec.ofNat 64 (f.drops.toNat + 2 ^ 32 * f.timeouts.toNat) ∨
        x = 3 ∧ r = BitVec.ofNat 64 f.ports.toNat ∨
        x.toNat % 2 ^ 16 = 0x100 ∧ x.toNat < 2 ^ 32 ∧ r = s1.collStatus (x.extractLsb' 16 16) s1.tenant) →
      Writes (.fstat d a) d r s1 s2 → exec (.fstat d a) s = .next (retire s s2 {})) ∧
    (3 < x.toNat → (x.toNat % 2 ^ 16 ≠ 0x100 ∨ 2 ^ 32 ≤ x.toNat) → exec (.fstat d a) s = .next ((trapBase s s1.ctx.pops none).takeTrap 0x1A x))

/-- R162: the outcomes of a port's commands enter it in the order of the pushes: those at the head of its flight do, one that
comes early stands until then, and an outcome goes to the oldest command of its number that has none. -/
def Sys2Proof.Statements.ResultsKeepTheirOrder : Prop :=
  ∀ (p : Port) (fl before after : List (Nat × Option Word)) (n : Nat) (v : Word),
    ((p.land fl).results = p.results ++ (fl.takeWhile (·.2.isSome)).filterMap (·.2) ∧ (p.land fl).flight = fl.dropWhile (·.2.isSome) ∧
      (p.land fl).reserved = p.reserved - (fl.takeWhile (·.2.isSome)).length ∧ (p.land fl).part = p.part) ∧
    ((∀ x ∈ before, x ≠ (n, none)) → settleFlight n v (before ++ (n, none) :: after) = before ++ (n, some v) :: after)

/-- A command of q3 with its outcome at once, and an error record (R168, R354). -/
def Sys2Proof.Statements.answered3 (w : Who) (v : Word) (s : State) : State := (s.fly w 3 0 (some v)).settle w.core
def Sys2Proof.Statements.refused3 (c : BitVec 8) : Word := 1#1 ++ 0#7 ++ c ++ 0#48

/-- R354, R355, R371: the commands of q3. RSEND whose bytes meet an uncorrectable error gives an error record with cause 0x0A,
one to a package that is no member, or an RLAUNCH, one with cause 0x15; within the own package the message lands and the launch
is taken as any other; to another package the packets of one request are formed, of at most 512 bytes each, and its outcome is
the result. RWIN opens a window at a place of the pool or the stacks, and closes one; DKGRANT lets the key of one dump go, once
(log entries 27, 28, 31, 66 and 77). -/
def Sys2Proof.Statements.FabricCommandsAct : Prop :=
  ∀ (s u v : State) (w : Who) (ws : List Word) (w0 : Word) (pkg : BitVec 10) (r : LaunchRec) (bs : List Byte) (off n : Nat) (dest : CoreId) (pa tag : Nat)
    (win : RedWindow) (p : Packet) (n4 : BitVec 4) (fails : Bool),
    w0 = ws.headD 0 → n4 = w0.extractLsb' 23 4 → pkg = w0.extractLsb' 0 10 → dest = w0.extractLsb' 10 13 →
    (Takes (.rsend w ws) s u → off = (ws.getD 1 0).toNat % 2 ^ 16 → bs = (ws.drop 3).flatMap (fun v => bytesOfNat 8 v.toNat) →
      fails = s.failing (2 ^ 49 + w.core.toNat * 2 ^ 16 + (ws.getD 2 0).toNat) (64 * (w0.toNat / 2 ^ 28 % 64 + 1)) →
      (fails = true → exec .rsend s = .next (answered3 w (refused3 0x0A) u)) ∧
      (fails = false → s.reachable pkg = false → exec .rsend s = .next (answered3 w (refused3 0x15) u)) ∧
      (fails = false → s.reachable pkg = true → pkg = s.pkgid →
        (0xC000 < off + bs.length → exec .rsend s = .next (answered3 w (refused3 0x1A) u)) ∧
        (off + bs.length ≤ 0xC000 → s.tenantOf dest ≠ s.tenantOf w.core → exec .rsend s = .next (answered3 w (refused3 0x06) u)) ∧
        (off + bs.length ≤ 0xC000 → s.tenantOf dest = s.tenantOf w.core →
          ((s.getCore dest).holding = true → exec .rsend s = .next s) ∧
          ((s.getCore dest).holding = false → s.Named → w.core ≠ dest → (s.getCore dest).computing = true →
            exec .rsend s = .next (answered3 w 0 (u.modCore dest fun c => { c with discards := c.discards + 1 }))) ∧
          ((s.getCore dest).holding = false → 0 < bs.length → s.Named → (w.core = dest ∨ (s.getCore dest).computing = false) →
            ∃ F, exec .rsend s = .next (answered3 w 0 ((u.poke (2 ^ 49 + dest.toNat * 2 ^ 16 + off) bs).modCore dest fun c =>
                { c with full := F, counters := c.counters.set n4.toNat ⟨(c.counters.get n4.toFin).val + 1, (c.counters.get n4.toFin).tag⟩ n4.isLt })) ∧
              ∀ j, j < 384 → F.getLsbD j = if w0.getLsbD 27 = true ∧ off / 128 ≤ j ∧ j ≤ (off + bs.length - 1) / 128 then true
                else (s.getCore dest).full.getLsbD j))) ∧
      (fails = false → s.reachable pkg = true → pkg ≠ s.pkgid →
        (s.held = true ∨ s.freeTag = none → exec .rsend s = .next s) ∧
        (s.held = false → s.freeTag = some tag → 0 < bs.length →
          (bs.length ≤ 512 → p = s.packet 7 pkg 0 (BitVec.ofNat 12 tag) 2 false
              (0#24 ++ w0.extractLsb' 28 6 ++ BitVec.ofBool (w0.getLsbD 27) ++ n4 ++ dest ++ BitVec.ofNat 16 off) (s.tenantOf w.core) bs →
            exec .rsend s = .next ((u.request tag ⟨w, 0, 0, 0, .rsend 3 tag⟩ p).fly w 3 tag none)) ∧
          ∃ t, exec .rsend s = .next t ∧ t.fabric.sent.length = s.fabric.sent.length + (bs.length + 511) / 512 ∧
            ∀ i, 512 * i < bs.length → ∃ q, t.fabric.sent[s.fabric.sent.length + i]? = some q ∧ q.type = 7 ∧ q.tag = BitVec.ofNat 12 tag ∧
              q.data = (bs.drop (512 * i)).take 512 ∧ q.daddr = (off + 512 * i) % 2 ^ 16 ∧ q.core = dest ∧ q.ctr = n4 ∧ q.full = w0.getLsbD 27))) ∧
    (Takes (.rlaunch w ws) s u → r = launchRecOf (ws.drop 2) →
      (s.reachable pkg = false → exec .rlaunch s = .next (answered3 w (refused3 0x15) u)) ∧
      (s.reachable pkg = true → pkg = s.pkgid →
        (s.tenantOf r.target ≠ s.tenantOf w.core → exec .rlaunch s = .next (answered3 w (refused3 0x06) u)) ∧
        (s.tenantOf r.target = s.tenantOf w.core → u.acceptLaunch r = some v → exec .rlaunch s = .next (answered3 w 0 v)) ∧
        (s.tenantOf r.target = s.tenantOf w.core → u.acceptLaunch r = none → exec .rlaunch s = .next s)) ∧
      (s.reachable pkg = true → pkg ≠ s.pkgid →
        (s.held = true ∨ s.freeTag = none → exec .rlaunch s = .next s) ∧
        (s.held = false → s.freeTag = some tag →
          exec .rlaunch s = .next ((u.request tag ⟨w, 0, 0, 0, .rsend 3 tag⟩ (s.packet 8 pkg 0 (BitVec.ofNat 12 tag) 2 false 0 (s.tenantOf w.core)
            ((ws.drop 2).flatMap fun v => bytesOfNat 8 v.toNat))).fly w 3 tag none)))) ∧
    (n = w0.toNat % 16 →
      (Takes (.rwin w ws) s u →
        (w0.getLsbD 6 = false → exec .rwin s = .next (let t := u.fly w 3 (4096 + n) none
          { t with due := t.due ++ [⟨.rwinComplete w ws, none⟩] })) ∧
        (∀ c, w0.getLsbD 6 = true → eXlate (u.portEng w) .atomic (ws.getD 1 0) (u, []) = .error (.fault c) →
          exec .rwin s = .next (answered3 w (refused3 c) u)) ∧
        (∀ q got, w0.getLsbD 6 = true → eXlate (u.portEng w) .atomic (ws.getD 1 0) (u, []) = .ok (q, (v, got)) →
          ((regionOf q.pa ≠ .pool ∧ regionOf q.pa ≠ .stackMem ∧ regionOf q.pa ≠ .rank) → exec .rwin s = .next (answered3 w (refused3 0x1A) u)) ∧
          ((regionOf q.pa = .pool ∨ regionOf q.pa = .stackMem ∨ regionOf q.pa = .rank) → pa = canon q.pa →
            win = ⟨true, w0.extractLsb' 4 2, pa, (ws.getD 2 0).toNat % 2 ^ 32, (ws.getD 3 0).extractLsb' 0 13, (ws.getD 3 0).extractLsb' 13 4⟩ →
            exec .rwin s = .next (let t := ({ v with fabric := { v.fabric with windows := v.fabric.windows.set n win } } : State).fly w 3 (4096 + n) none
              { t with due := t.due ++ [⟨.rwinComplete w ws, none⟩] })))) ∧
      (Takes (.rwinComplete w ws) s u →
        (w0.getLsbD 6 = true → exec .rwinComplete s = .next ((u.alight w 3 (4096 + n) 0).settle w.core)) ∧
        (w0.getLsbD 6 = false → u.fabric.windows.find? n = some win → exec .rwinComplete s = .next (((
          { u with fabric := { u.fabric with windows := u.fabric.windows.set n { win with opened := false } } } : State).alight w 3 (4096 + n) 0).settle w.core)))) ∧
    (Takes (.dkgrant w ws) s u →
      exec .dkgrant s = .next (({ u with grants := u.grants ++ [⟨s.tenantOf w.core, ws.getD 1 0, ws.getD 3 0 ++ ws.getD 2 0⟩] } : State).settle w.core)) ∧
    (∀ dseq salt g, Takes (.dumpKeyRelease dseq salt) s u →
      ((∀ g ∈ s.grants, g.dseq ≠ dseq ∨ g.salt ≠ salt) → exec .dumpKeyRelease s = .next u) ∧
      (s.grants.find? (fun g => g.dseq == dseq && g.salt == salt) = some g →
        exec .dumpKeyRelease s = .next { u with
          grants := s.grants.erase g
          released := s.released ++ [(dseq, hkdf (Config.dumpKey g.tenant) ([0x45, 0x57, 0x45, 0x53, 0x59, 0x4E, 0x20, 0x44, 0x55, 0x4D, 0x50] ++
            bytesOfNat 16 salt.toNat ++ bytesOfNat 8 dseq.toNat))] }))

/-- R354 to R360, R363, R371: the fabric's instructions and commands. -/
def Obligations.TheFabricEngineActs : Prop := CollectivesRun ∧ DomainIsAwaitedAndRead ∧ ResultsKeepTheirOrder ∧ FabricCommandsAct

/-! ## The fabric: packets -/

/-- A received packet passes (R355, R362): both ends are members, its sender encrypted it, or, of a contribution to a reduction, a
switch that is a member, its tag and its key are right, KGEN is the one in force, and its SEQ lies above every one accepted for
its pair and virtual channel. -/
def Sys2Proof.Statements.Passes (s : State) (p : Packet) : Prop :=
  s.fabric.member = true ∧ (0#2 ++ p.src) ∈ s.fabric.members ∧ (p.via = 0#2 ++ p.src ∨ p.red = true ∧ p.via ∈ s.fabric.members) ∧
    p.mac = (sealPacket (hkdf s.fabric.key ([0x43, 0x4C, 0x45, 0x41, 0x53, 0x48, 0x20, 0x50, 0x41, 0x49, 0x52] ++ bytesOfNat 4 s.fabric.kgen.toNat ++
      bytesOfNat 2 p.via.toNat ++ bytesOfNat 2 s.pkgid.toNat)) p).2 ∧
    p.kgen = s.fabric.kgen ∧ p.keyid = 0#2 ++ s.pkgid ∧ s.fabric.seen.get (p.via.toNat * 4 + p.vc.toNat) 0 < p.seq

/-- The state that accepts a packet. -/
def Sys2Proof.Statements.accepting (p : Packet) (s : State) : State :=
  { s with traffic := s.cycle.toNat, fabric := { s.fabric with seen := s.fabric.seen.set (p.via.toNat * 4 + p.vc.toNat) p.seq } }

/-- A response to a packet: its type, its status and its bytes (R352); the member that encrypted the packet decrypts it. -/
def Sys2Proof.Statements.answering (p : Packet) (type : Nat) (status : BitVec 8) (bs : List Byte) (s : State) : State :=
  s.send (s.packetFor p.via type p.src 1 p.tag 0 false (BitVec.ofNat 64 (2 ^ 48 * status.toNat)) p.tenant bs)

/-- A packet that does not pass is dropped, counted and logged (R362). -/
def Sys2Proof.Statements.dropping (p : Packet) (s : State) : State :=
  { s with fabric := { s.fabric with
      drops := if s.fabric.drops = 0xFFFFFFFF then s.fabric.drops else s.fabric.drops + 1, dropLog := s.fabric.dropLog ++ [p] } }

/-- The element type of a packet and its bytes (R352). -/
def Sys2Proof.Statements.etypes : List (BitVec 3 × BankType) := [(0, .int 8), (1, .int 4), (2, .f32), (3, .bf16)]

/-- The elements of a payload, and what a function that takes one more operand makes of them (R250, R352; log entry 25). -/
def Sys2Proof.Statements.elems (n : Nat) (bs : List Byte) : List Nat := (List.range (bs.length / n)).map fun i => natOfBytes ((bs.drop (i * n)).take n)
def Sys2Proof.Statements.operands (fn : BankFn) (n : Nat) (bs : List Byte) : List Nat × Nat :=
  if fn = .cas ∨ fn = .badd then ((elems n bs).take 1, (elems n bs).getD 1 0) else (elems n bs, 0)

/-- R350 to R353, R355, R362: a request that passes is served, once no step holds its bytes (R336): its outcome goes back
as its response, a failure with its cause; a function code that is none is answered with cause 0x15. A packet that does not
pass is dropped, counted, logged and answered with cause 0x15; one of another TYPE is dropped and logged. A contribution that a
switch merged counts as many as it says, any other once (log entries 22, 25, 26, 69 and 90). -/
def Sys2Proof.Statements.RequestsAreServed : Prop :=
  ∀ (s u t : State) (p : Packet) (i : Instr) (act : Act) (type asked : Nat) (op : RemoteOp) (et : BankType) (fn : BankFn) (count : BitVec 32) (v : RemoteVal),
    ((p.etype, et) ∈ etypes ∨ i = .readRequest ∨ i = .write) → Takes act s u →
    (i = .readRequest ∧ act = .readRequest p ∧ asked = 0 ∧ type = 1 ∧ op = .read (min 512 (natOfBytes p.data)) ∧ count = 1 ∨
      i = .write ∧ act = .write p ∧ asked = 2 ∧ type = 3 ∧ op = .write p.data ∧ count = 1 ∨
      i = .atomic ∧ act = .atomic p ∧ asked = 4 ∧ type = 5 ∧ BankFn.ofCode p.opc = some fn ∧ count = 1 ∧
        op = .bank fn et (operands fn et.bytes p.data).1 (operands fn et.bytes p.data).2 true ∨
      i = .reduction ∧ act = .reduction p ∧ asked = 6 ∧ type = 3 ∧ BankFn.ofCode p.opc = some fn ∧
        (p.via = 0#2 ++ p.src ∧ count = 1 ∧ op = .bank fn et (operands fn et.bytes p.data).1 (operands fn et.bytes p.data).2 false ∨
          p.via ≠ 0#2 ++ p.src ∧ count = BitVec.ofNat 32 (natOfBytes (p.data.drop et.bytes)) ∧
            op = .bank fn et (operands fn et.bytes (p.data.take et.bytes)).1 (operands fn et.bytes (p.data.take et.bytes)).2 false)) →
    (p.type = asked → Passes s p → s.inStep p.target op.len = false → (accepting p u).serve p.tenant p.offset op count = (v, t) →
      (∀ bs, v = .data bs → exec i s = .next (answering p type 0 bs t)) ∧ (∀ c, v = .fail c → exec i s = .next (answering p 11 c [] t))) ∧
    (p.type = asked → Passes s p → s.inStep p.target op.len = true → exec i s = .next s) ∧
    (p.type = asked → ¬Passes s p → exec i s = .next
      (if s.fabric.member = true ∧ (0#2 ++ p.src) ∈ s.fabric.members then answering p 11 0x15 [] (dropping p u) else dropping p u)) ∧
    (p.type ≠ asked → exec i s = .next { u with fabric := { u.fabric with dropLog := u.fabric.dropLog ++ [p] } })

/-- Elements from a on are updated at the bank ALU in rising order; `olds` is what each gave: its old value, or all ones where an
ABADD refused (R250). -/
def Sys2Proof.Statements.ElemsUpdated (fn : BankFn) (t : BankType) (d : Nat) : Nat → List Nat → State → List Nat → State → Prop
  | _, [], s, olds, s' => olds = [] ∧ s' = s
  | a, x :: xs, s, olds, s' => ∃ old rest, old = natOfBytes (s.bytes a t.bytes) ∧
      olds = (if (bankOp fn t old x d).2 = true then old else 256 ^ t.bytes - 1) :: rest ∧
      ElemsUpdated fn t d (a + t.bytes) xs (if (bankOp fn t old x d).2 = true then s.poke a (bytesOfNat t.bytes (bankOp fn t old x d).1) else s) rest s'

/-- R350, R351, R355: what serving does: a read gives the bytes, a write changes them, an atomic gives the old elements, and
a reduction that is an addition raises the counter of the window it falls in. Another tenant's bytes give cause 0x06. -/
def Sys2Proof.Statements.ServingReachesMemory : Prop :=
  ∀ (s t : State) (tenant : BitVec 6) (off n a : Nat) (op : RemoteOp) (bs : List Byte) (et : BankType) (fn : BankFn) (xs olds : List Nat) (d : Nat) (count : BitVec 32),
    a = (if off < 2 ^ 40 then off else 2 ^ 48 + off % 2 ^ 40) →
    n = (match op with | .read n => n | .write bs => bs.length | .bank _ t xs _ _ => xs.length * t.bytes) →
    ((s.owns tenant a = false ∨ s.owns tenant (a + n - 1) = false) → s.serve tenant off op count = (.fail 0x06, s)) ∧
    (fabricOffsetOk off = true → s.owns tenant a = true → s.owns tenant (a + n - 1) = true → s.stagingRow a = false → s.stagingRow (a + n - 1) = false →
      (op = .read n → s.failing a n = true → s.serve tenant off op count = (.fail 0x0A, s)) ∧
      (op = .write bs → s.serve tenant off op count = (.data [], s.poke a bs)) ∧
      (s.failing a n = false →
        (op = .read n → s.serve tenant off op count = (.data (s.bytes a n), s)) ∧
        (op = .bank fn et xs d true → ElemsUpdated fn et d a xs s olds t →
          s.serve tenant off op count = (.data (olds.flatMap (bytesOfNat et.bytes)), t)) ∧
        (op = .bank .add et xs d false → ElemsUpdated .add et d a xs s olds t → ∀ win : Option (Nat × RedWindow),
          win = List.find? (fun (w : Nat × RedWindow) => w.2.opened && decide (w.2.home ≤ a) && decide (a < w.2.home + w.2.len) && w.2.type.setWidth 3 == et.etype)
            t.fabric.windows →
          (win = none → (s.serve tenant off op count).2 = t) ∧
          ∀ k w, win = some (k, w) → (s.serve tenant off op count).2 = (t.rouse (.core w.core)).modCore w.core fun c =>
            { c with counters := c.counters.set w.ctr.toNat ⟨(c.counters.get w.ctr.toFin).val + count, (c.counters.get w.ctr.toFin).tag⟩ w.ctr.isLt })))

/-- The state with the packets of a message so far (R371). -/
def Sys2Proof.Statements.withParts (ms : List PartMsg) (s : State) : State := { s with fabric := { s.fabric with parts := ms } }

/-- R285, R354, R356, R357, R371, R378: a message lands packet by packet; with its last byte come its lines and its counter, and
it is acknowledged. One to a core that computes is discarded whole, and counted once. A launch is taken as any other; a fragment
enters the buffer of its context where it fits, else it waits; a report of STEPS is kept. -/
def Sys2Proof.Statements.PacketsArrive : Prop :=
  ∀ (s u v : State) (p : Packet) (r : LaunchRec) (n at' : Nat) (c : CollCtx) (m : PartMsg),
    Passes s p → s.Named → at' = 2 ^ 49 + p.core.toNat * 2 ^ 16 + p.daddr →
    (Takes (.message p) s u → p.type = 7 →
      ((s.getCore p.core).holding = true → exec .message s = .next s) ∧
      ((s.getCore p.core).holding = false → (∀ m ∈ s.fabric.parts, m.src ≠ p.src ∨ m.tag ≠ p.tag) →
        (p.data.length = p.mlen →
          (0xC000 < p.daddr + p.mlen → exec .message s = .next (answering p 11 0x1A [] (accepting p u))) ∧
          (p.daddr + p.mlen ≤ 0xC000 → s.tenantOf p.core ≠ p.tenant → exec .message s = .next (answering p 11 0x06 [] (accepting p u))) ∧
          (p.daddr + p.mlen ≤ 0xC000 → s.tenantOf p.core = p.tenant → (s.getCore p.core).computing = true →
            exec .message s = .next (answering p 3 0 [] ((accepting p u).modCore p.core fun c => { c with discards := c.discards + 1 }))) ∧
          (p.daddr + p.mlen ≤ 0xC000 → s.tenantOf p.core = p.tenant → (s.getCore p.core).computing = false →
            ∃ F, exec .message s = .next (answering p 3 0 [] (((accepting p u).poke at' p.data).modCore p.core fun c =>
                { c with full := F, counters := c.counters.set p.ctr.toNat ⟨(c.counters.get p.ctr.toFin).val + 1, (c.counters.get p.ctr.toFin).tag⟩ p.ctr.isLt })) ∧
              ∀ j, j < 384 → F.getLsbD j = if p.full = true ∧ p.daddr / 128 ≤ j ∧ j ≤ (p.daddr + p.mlen - 1) / 128 then true
                else (s.getCore p.core).full.getLsbD j)) ∧
        (p.data.length < p.mlen → p.daddr + p.mlen ≤ 0xC000 → s.tenantOf p.core = p.tenant → (s.getCore p.core).computing = false →
          exec .message s = .next (withParts (s.fabric.parts ++ [⟨p.src, p.tag, p.core, p.ctr, p.full, p.mlen, p.daddr, p.data.length,
            [(at', s.mem.readBytes at' p.data.length)], false, false⟩]) ((accepting p u).poke at' p.data)))) ∧
      ((s.getCore p.core).holding = false → s.fabric.parts = [m] → m.src = p.src → m.tag = p.tag → m.core = p.core → m.ctr = p.ctr → m.full = p.full →
        m.mlen = p.mlen → m.first + m.got = p.daddr → m.got + p.data.length = p.mlen → m.lost = false → m.broken = false →
        m.first + m.mlen ≤ 0xC000 → s.tenantOf p.core = p.tenant →
        ((s.getCore p.core).computing = true → exec .message s = .next (answering p 3 0 []
          (((withParts [] (m.old.foldl (fun s b => s.poke b.1 b.2) (accepting p u))).modCore p.core fun c => { c with discards := c.discards + 1 })))) ∧
        ((s.getCore p.core).computing = false → ∃ F, exec .message s = .next (answering p 3 0 [] ((withParts [] ((accepting p u).poke at' p.data)).modCore p.core fun c =>
            { c with full := F, counters := c.counters.set p.ctr.toNat ⟨(c.counters.get p.ctr.toFin).val + 1, (c.counters.get p.ctr.toFin).tag⟩ p.ctr.isLt })) ∧
          ∀ j, j < 384 → F.getLsbD j = if p.full = true ∧ m.first / 128 ≤ j ∧ j ≤ (m.first + p.mlen - 1) / 128 then true
            else (s.getCore p.core).full.getLsbD j))) ∧
    (Takes (.launchPacket p) s u → p.type = 8 → r = launchRecOf ((List.range 4).map fun i => BitVec.ofNat 64 (natOfBytes ((p.data.drop (8 * i)).take 8))) →
      (s.tenantOf r.target ≠ p.tenant → exec .launchPacket s = .next (answering p 11 0x06 [] (accepting p u))) ∧
      (s.tenantOf r.target = p.tenant → (accepting p u).acceptLaunch r = some v → exec .launchPacket s = .next (answering p 3 0 [] v)) ∧
      (s.tenantOf r.target = p.tenant → (accepting p u).acceptLaunch r = none → exec .launchPacket s = .next s)) ∧
    (s.collOf (p.dw1.extractLsb' 0 16) p.tenant = some (n, c) → s.fabric.colls.find? n = some c →
      (Takes (.collectiveFragment p) s u → p.type = 9 →
        (4096 < (c.cx.inbox.map fun f => f.2.length).sum + p.data.length → exec .collectiveFragment s = .next s) ∧
        ((c.cx.inbox.map fun f => f.2.length).sum + p.data.length ≤ 4096 → (∀ f ∈ c.cx.inbox, f.1 ≠ p.src.toNat + 1024 * p.tag.toNat) →
          p.data.length < 512 →
          exec .collectiveFragment s = .next (answering p 3 0 [] (let t := accepting p u
            { t with fabric := { t.fabric with colls := t.fabric.colls.set n { c with cx := { c.cx with
                inbox := c.cx.inbox ++ [(p.src.toNat + 1024 * p.tag.toNat, p.data)] } } } })))) ∧
      (Takes (.collectiveControl p) s u → p.type = 10 →
        exec .collectiveControl s = .next (let t := accepting p u
          { t with fabric := { t.fabric with colls := t.fabric.colls.set n { c with
              peers := c.peers.set p.src.toNat (BitVec.ofNat 16 (natOfBytes p.data)) } } })))

/-- R351, R352, R359, R362: a response that passes completes its request with its bytes, or its failure's cause; one that does
not fails its access with cause 0x15; and no response within the time-out fails it with cause 0x16, and is counted. A
request completes what waits on it: a command its place in its port, a posted store nothing or the record of its failure, a
fragment that was refused its step, or the context's next. -/
def Sys2Proof.Statements.ResponsesComplete : Prop :=
  ∀ (s u : State) (p : Packet) (tag : Nat) (r : Request) (v : RemoteVal),
    (∀ i act type, (i, act, type, v) ∈ ([(.readResponse, .readResponse p, 1, .data p.data), (.writeAcknowledgement, .writeAcknowledgement p, 3, .data []),
        (.atomicResponse, .atomicResponse p, 5, .data p.data), (.failureResponse, .failureResponse p, 11, .fail p.status)] : List (Instr × Act × Nat × RemoteVal)) →
      Takes act s u →
      (p.type = type → Passes s p → exec i s = .next ((accepting p u).complete p.tag.toNat v)) ∧
      (p.type = type → ¬Passes s p → exec i s = .next ((dropping p u).complete p.tag.toNat (.fail 0x15))) ∧
      (p.type ≠ type → exec i s = .next { u with fabric := { u.fabric with dropLog := u.fabric.dropLog ++ [p] } })) ∧
    (Takes (.fabricTimeout tag) s u →
      (s.fabric.reqs.find? tag = none → exec .fabricTimeout s = .next u) ∧
      (s.fabric.reqs.find? tag = some r → s.cycle.toNat < r.due → exec .fabricTimeout s = .next u) ∧
      (s.fabric.reqs.find? tag = some r → r.due ≤ s.cycle.toNat →
        exec .fabricTimeout s = .next (({ u with fabric := { u.fabric with
          timeouts := if s.fabric.timeouts = 0xFFFFFFFF then s.fabric.timeouts else s.fabric.timeouts + 1 } } : State).complete tag (.fail 0x16)))) ∧
    (s.fabric.reqs.find? tag = none → s.complete tag v = s) ∧
    (s.fabric.reqs.find? tag = some r → u = { s with fabric := { s.fabric with reqs := s.fabric.reqs.erase tag } } →
      (∀ q n, r.use = .rsend q n → s.complete tag v =
        (u.alight r.who q n (match v with | .data _ => 0 | .fail c => 1#1 ++ 0#7 ++ c ++ 0#48)).settle r.who.core) ∧
      (∀ c, r.use = .posted → v = .fail c → s.complete tag v =
        (u.modWho r.who fun k => if k.failed = none then { k with failed := some (c, r.va) } else k).settle r.who.core) ∧
      (∀ bs, r.use = .posted → v = .data bs → s.complete tag v = u.settle r.who.core) ∧
      (∀ n cmd steps c cause, r.use = .fragment n cmd steps → v = .fail cause → cause ≠ 0x16 → s.fabric.colls.find? n.toNat = some c → c.cmd = cmd →
        (c.cx.state = .inStep → c.cx.steps = steps → s.complete tag v = (u.failStep (.coll n) 7).settle r.who.core) ∧
        (c.cx.state ≠ .inStep ∨ c.cx.steps ≠ steps → s.complete tag v = ({ u with
          fabric := { u.fabric with colls := u.fabric.colls.set n.toNat { c with refused := true } } } : State).settle r.who.core)))

/-- R350 to R357, R362, R371, R378: what arrives from the fabric. -/
def Obligations.ThePacketsOfTheFabric : Prop := RequestsAreServed ∧ ServingReachesMemory ∧ PacketsArrive ∧ ResponsesComplete

/-! ## Domain, host, power, dump -/

/-- The pending target is KGEN + 1 (R363); a leader's deadline runs from there on, 1,400 cycles to the µs. -/
def Sys2Proof.Statements.withTarget (s : State) : State :=
  match s.fabric.target with
  | some _ => s
  | none => { s with
      fabric := { s.fabric with
        target := some (s.fabric.kgen + 1), reported := []
        expiry := if s.fabric.leader = true then some (s.cycle.toNat + s.fabric.deadline * 1400) else s.fabric.expiry }
      due := s.due ++ if s.fabric.leader = true then [⟨.domainDeadline [], some (s.cycle.toNat + s.fabric.deadline * 1400)⟩] else [] }

/-- A leader that has arrived, as have all that it awaits, announces the pending generation (R363). -/
def Sys2Proof.Statements.announced (s : State) : State :=
  match s.fabric.target with
  | none => s
  | some t => { s with due := s.due ++ if s.fabric.leader = true ∧ s.fabric.arrived = true ∧
      (∀ m ∈ s.fabric.members, m = 0#2 ++ s.pkgid ∨ m ∈ s.fabric.reported) ∧ (∀ y ∈ s.due, y.act ≠ .generationAnnounce t)
      then [⟨.generationAnnounce t, none⟩] else [] }

/-- A message of an exchange has been accepted before. -/
def Sys2Proof.Statements.Had (s : State) (peer : SpdmPeer) (m : SpdmMsg) : Prop := (peer, m) ∈ s.fabric.spdm
def Sys2Proof.Statements.Agreed (s : State) (peer : SpdmPeer) : Prop :=
  Had s peer .getVersion ∧ Had s peer .getCapabilities ∧ Had s peer (.negotiateAlgorithms true)

/-- A message is in its place and keeps to R361: the options named there, authentication of both sides, and, from a member, a
certificate and measurements that the leader's policy takes; a member's answer is taken by a leader (log entry 89). -/
def Sys2Proof.Statements.InPlace (s : State) (peer : SpdmPeer) (m : SpdmMsg) : Prop :=
  (∀ id, peer = .member id → s.fabric.leader = true) ∧
  match m with
  | .getVersion => True
  | .getCapabilities => Had s peer .getVersion
  | .negotiateAlgorithms named => named = true ∧ Had s peer .getVersion ∧ Had s peer .getCapabilities
  | .getDigests | .challenge => Agreed s peer
  | .getCertificate meets | .getMeasurements meets => Agreed s peer ∧ (meets = true ∨ ∀ id, peer ≠ .member id)
  | .keyExchange both => both = true ∧ Agreed s peer
  | .finish _ _ => Agreed s peer ∧ Had s peer (.keyExchange true) ∧
      ∀ id, peer = .member id → Had s peer (.getCertificate true) ∧ Had s peer (.getMeasurements true)
  | .keyUpdate => match peer with
    | .leader _ => s.fabric.member = true ∧ s.fabric.leader = false
    | .member id => s.fabric.leader = true ∧ id ∈ s.fabric.members
    | .host => s.fabric.hostKey ≠ none
  | .other => False

/-- A message of SPDM goes out: a packet of TYPE 15 without a key, with the bytes that SPDM gives (R353). -/
def Sys2Proof.Statements.saying (peer : SpdmPeer) (m : SpdmMsg) (ok : Bool) (s : State) : State :=
  { s with fabric := { s.fabric with sent := s.fabric.sent ++ [openPacket s.pkgid
      (match peer with | .leader id => id.setWidth 10 | .member id => id.setWidth 10 | .host => 0) 15 (Config.spdmBytes peer m ok)] } }

/-- R361, R364: a message in its place advances its exchange and is answered, a member's by the next question; any other is
refused and ends a leader's exchange. FINISH from the leader admits this package, with the domain key and KGEN; from the host it
begins the session under its key; from a member it admits the member, to whom the domain key and KGEN go (log entry 89). -/
def Sys2Proof.Statements.SpdmAdmits : Prop :=
  ∀ (s u v : State) (f : Fabric) (peer : SpdmPeer) (m next : SpdmMsg) (id : BitVec 12) (key : BitVec 256) (g : BitVec 32) (q : Packet)
    (pkg dst : BitVec 10) (ty : Nat) (bs : List Byte),
    f = s.fabric → Takes (.spdm peer m) s u → v = { u with traffic := s.cycle.toNat } →
    (¬InPlace s peer m →
      (∀ id, peer = .member id → exec .spdm s = .next { v with fabric := { f with
        refused := f.refused ++ [(peer, m)], spdm := f.spdm.filter fun x => decide (x.1 ≠ peer) } }) ∧
      ((∀ id, peer ≠ .member id) → exec .spdm s = .next (saying peer m false { v with fabric := { f with refused := f.refused ++ [(peer, m)] } }))) ∧
    (InPlace s peer m →
      ((∀ key g, m ≠ .finish key g) → m ≠ .keyUpdate →
        ((∀ id, peer ≠ .member id) → exec .spdm s = .next (saying peer m true { v with fabric := { f with spdm := f.spdm ++ [(peer, m)] } })) ∧
        ((m, next) ∈ ([(.getVersion, .getCapabilities), (.getCapabilities, .negotiateAlgorithms true), (.negotiateAlgorithms true, .getDigests),
            (.getDigests, .getCertificate true), (.getCertificate true, .challenge), (.challenge, .getMeasurements true),
            (.getMeasurements true, .keyExchange true), (.keyExchange true, .finish 0 0)] : List (SpdmMsg × SpdmMsg)) → peer = .member id →
          exec .spdm s = .next (saying peer next true { v with fabric := { f with spdm := f.spdm ++ [(peer, m)] } }))) ∧
      (m = .finish key g → ∀ f', f' = { f with spdm := f.spdm.filter fun x => decide (x.1 ≠ peer) } →
        (peer = .leader id → ∃ ms, exec .spdm s = .next (saying peer m true { v with fabric := { f' with
            member := true, leader := false, key := key, kgen := g, seq := [], seen := [], members := ms } }) ∧
          ∀ x, x ∈ ms ↔ x ∈ f.members ∨ x = 0#2 ++ s.pkgid) ∧
        (peer = .host → exec .spdm s = .next (saying peer m true { v with fabric := { f' with hostKey := some key } })) ∧
        (peer = .member id → ∃ ms, exec .spdm s = .next (saying peer (.finish f.key f.kgen) true
            (let t := withTarget { v with fabric := f' }; { t with fabric := { t.fabric with members := ms } })) ∧
          ∀ x, x ∈ ms ↔ x ∈ f.members ∨ x = id)) ∧
      (m = .keyUpdate →
        (peer = .member id → exec .spdm s = .next { v with fabric := { f with updates := f.updates ++ [peer] } }) ∧
        (peer = .leader id → exec .spdm s = .next (saying peer m true { v with fabric := { f with updates := f.updates ++ [peer] } })) ∧
        (peer = .host → exec .spdm s = .next (saying peer m true { v with fabric := { f with
          updates := f.updates ++ [peer], hostKey := f.hostKey.map Config.updatedKey } })))) ∧
    (q = openPacket pkg dst ty bs → ty < 64 → bs.length < 1024 →
      q.type = ty ∧ q.src = pkg ∧ q.dst = dst ∧ q.encrypted = false ∧ q.kgen = 0 ∧ q.data = bs)

/-- R363: a change raises the target to KGEN + 1, or joins the one that is pending; a leader's deadline runs from the first.
The announced generation comes into force, those that leave are gone, and its sequences begin anew; a leader announces it
once every member it awaits has arrived, and drops at its deadline those that have not. R361: management makes this package
the leader of a domain of its own. -/
def Sys2Proof.Statements.TheDomainChanges : Prop :=
  ∀ (s u : State) (f : Fabric) (me id : BitVec 12) (key : BitVec 256) (g : BitVec 32) (arrived : List (BitVec 12)) (t : Option Nat),
    f = s.fabric → me = 0#2 ++ s.pkgid →
    (Takes (.membershipChange (.join id)) s u →
      (f.leader = true → id ∉ f.members → exec .membershipChange s = .next (saying (.member id) .getVersion true u)) ∧
      (f.leader = false ∨ id ∈ f.members → ∃ ms, exec .membershipChange s = .next
          (let t := withTarget u; { t with fabric := { t.fabric with members := ms } }) ∧
        ∀ x, x ∈ ms ↔ x ∈ f.members ∨ x = id)) ∧
    (Takes (.membershipChange (.leave id)) s u → ∃ ls, exec .membershipChange s = .next
        (let t := withTarget u; { t with fabric := { t.fabric with leavers := ls } }) ∧
      ∀ x, x ∈ ls ↔ x ∈ f.leavers ∨ x = id) ∧
    (Takes (.membershipChange (.fail id)) s u → ∃ ms ls, exec .membershipChange s = .next
        (announced (let t := withTarget u; { t with fabric := { t.fabric with
          members := ms, leavers := ls, member := f.member && decide (id ≠ me) } })) ∧
      (∀ x, x ∈ ms ↔ x ∈ f.members ∧ x ≠ id) ∧ ∀ x, x ∈ ls ↔ x ∈ f.leavers ∧ x ≠ id) ∧
    (Takes (.membershipChange (.lead key g)) s u → exec .membershipChange s = .next { u with fabric := { f with
      member := true, leader := true, key := key, kgen := g, seq := [], seen := [], target := none, arrived := false,
      expiry := none, reported := [], leavers := [], members := [me] } }) ∧
    (Takes (.membershipChange (.arrived id)) s u →
      (f.leader = true → f.target ≠ none → exec .membershipChange s = .next (announced { u with fabric := { f with reported := f.reported ++ [id] } })) ∧
      (f.leader = false ∨ f.target = none → exec .membershipChange s = .next u)) ∧
    (Takes (.generationAnnounce g) s u →
      (f.target ≠ some g → exec .generationAnnounce s = .next u) ∧
      (f.target = some g → ∃ ms, exec .generationAnnounce s = .next { u with fabric := { f with
          kgen := g, target := none, arrived := false, seq := [], seen := [], leavers := [], expiry := none, reported := [],
          members := ms, member := f.member && decide (me ∉ f.leavers) } } ∧
        ∀ x, x ∈ ms ↔ x ∈ f.members ∧ x ∉ f.leavers)) ∧
    (s.due = ⟨.domainDeadline arrived, t⟩ :: u.due → u = { s with due := u.due } →
      (f.target = none ∨ f.leader = true ∧ (t = none ∨ t ≠ f.expiry) → exec .domainDeadline s = .next u) ∧
      (f.target ≠ none → (f.leader = true → t ≠ none ∧ t = f.expiry) →
        ∃ ms ls b, exec .domainDeadline s = .next (announced { u with fabric := { f with members := ms, leavers := ls, member := b } }) ∧
        (∀ x, x ∈ ms ↔ x ∈ f.members ∧ (if x = me then f.arrived = true else x ∈ arrived ∨ x ∈ f.reported)) ∧
        (∀ x, x ∈ ls ↔ x ∈ f.leavers ∧ (x ∈ f.members → if x = me then f.arrived = true else x ∈ arrived ∨ x ∈ f.reported)) ∧
        (b = true ↔ f.member = true ∧ (me ∈ f.members → f.arrived = true))))

/-- The level of a unit's power state, and its exit latency in µs, rounded up (R366). -/
def Sys2Proof.Statements.levelOf : PowerUnit → Nat
  | .core _ => 1 | .cluster _ => 2 | .die _ => 3 | .stackMem => 4 | .package => 5
def Sys2Proof.Statements.leaves : PowerUnit → Nat
  | .core _ => 1 | .cluster _ => 8 | .die _ => 40 | .stackMem => 120 | .package => 3000

/-- The units asleep, and CUR with them (R365). -/
def Sys2Proof.Statements.resting (A : List PowerUnit) (s : State) : State := { s with asleep := A, cur := BitVec.ofNat 3 ((A.map levelOf).foldl max 0) }

/-- What a unit's state asks for (R366): of a core, that no context lives and no engine works for it; of a cluster, that its
cores rest, of a die, that its clusters do; of the stacks, that the dies do, and that neither a rank context nor a stack
command runs; of the package, that the stacks do, and that it has had no traffic for 1 ms, 1,400,000 cycles. -/
def Sys2Proof.Statements.MayRest (s : State) : PowerUnit → Prop
  | .core id => (s.getCore id).front.life = .idle ∧ (s.getCore id).shadow.life = .idle ∧ (∀ i : Fin 4, (s.getCore id).save.get i = none) ∧
      (s.getCore id).launchQ = [] ∧ (s.getCore id).outbox = [] ∧ (s.getCore id).spilling = none ∧ (s.getCore id).filling = none ∧
      (∀ c ∈ s.cmds, c.who.core ≠ id) ∧ ∀ q ∈ s.fabric.reqs, q.2.who.core ≠ id
  | .cluster cl => ∀ n : BitVec 4, PowerUnit.core (cl ++ n) ∈ s.asleep
  | .die d => ∀ n : BitVec 7, PowerUnit.cluster (d ++ n) ∈ s.asleep
  | .stackMem => (∀ d, PowerUnit.die d ∈ s.asleep) ∧ (∀ r ∈ s.ranks, r.2.state ≠ .running ∧ r.2.state ≠ .inStep) ∧
      ∀ c ∈ s.cmds, c.kind.isStack = false
  | .package => PowerUnit.stackMem ∈ s.asleep ∧ s.traffic + 1400000 ≤ s.cycle.toNat

/-- R366: a unit whose state's conditions hold and whose exit latency is within TOL enters it, and where one may, an entry is due
after every step; an arrival wakes a unit with what encloses it. R365: what takes longer to leave than a new TOL is awake. -/
def Sys2Proof.Statements.UnitsRestAndWake : Prop :=
  ∀ (s u : State) (q : PowerUnit) (id : CoreId) (v : BitVec 32),
    (Takes (.powerStateEntry q) s u →
      (q ∉ s.asleep → leaves q ≤ s.tol.toNat → MayRest s q → exec .powerStateEntry s = .next (resting (s.asleep ++ [q]) u)) ∧
      (q ∈ s.asleep ∨ s.tol.toNat < leaves q ∨ ¬MayRest s q → exec .powerStateEntry s = .next u)) ∧
    (q ∉ s.asleep → leaves q ≤ s.tol.toNat → MayRest s q → ∃ p, ∃ y ∈ s.offerRest.due, y.act = .powerStateEntry p) ∧
    (Takes (.wake (.core id)) s u → ∃ A, (A = s.asleep ∧ exec .wake s = .next u ∨ exec .wake s = .next (resting A u)) ∧
      ∀ q : PowerUnit, q ∈ A ↔ q ∈ s.asleep ∧ q ≠ PowerUnit.core id ∧ q ≠ PowerUnit.cluster (id.extractLsb' 4 9) ∧
        q ≠ PowerUnit.die (id.extractLsb' 11 2) ∧ q ≠ PowerUnit.stackMem ∧ q ≠ PowerUnit.package) ∧
    s.withTol v = { resting (s.asleep.filter fun q => decide (leaves q ≤ v.toNat)) s with tol := v }

/-- R244: an invalidation starts where none runs, and ends once no access that was translated through one of its entries is
still to be performed; its entries are then gone from the TLBs and the walker cache, and with SZ = 3 the cluster goes by the owners
as they stand (R243). -/
def Sys2Proof.Statements.InvalidationsEnd : Prop :=
  ∀ (s u : State) (cl : BitVec 9) (v x : Word) (sz p : Nat) (meets : Nat → Nat → Prop),
    sz = x.toNat % 4 → p = x.toNat % 2 ^ 53 / 2 ^ (13 + 10 * sz) * 2 ^ (13 + 10 * sz) →
    (∀ a n, meets a n ↔ sz = 3 ∨ a < p + 2 ^ (13 + 10 * sz) ∧ p < a + n) →
    (Takes (.xinv cl v) s u →
      ((s.cluster cl).inval ≠ none → exec .xinv s = .next s) ∧
      ((s.cluster cl).inval = none → exec .xinv s = .next { u.setCluster cl { s.cluster cl with inval := some v } with
        due := u.due ++ [⟨.invalidationComplete cl, none⟩] })) ∧
    (Takes (.invalidationComplete cl) s u →
      ((s.cluster cl).inval = none → exec .invalidationComplete s = .next u) ∧
      ((s.cluster cl).inval = some x →
        ((∃ r ∈ s.fabric.reqs, r.2.who.core.extractLsb' 4 9 = cl ∧ meets (r.2.va.toNat % 2 ^ 53) (max 1 r.2.len)) → exec .invalidationComplete s = .next s) ∧
        ((∀ r ∈ s.fabric.reqs, r.2.who.core.extractLsb' 4 9 = cl → ¬meets (r.2.va.toNat % 2 ^ 53) (max 1 r.2.len)) →
          ∃ T N, exec .invalidationComplete s = .next (u.setCluster cl { s.cluster cl with
              inval := none, tlb := T, nodes := N, ownSeen := if sz = 3 then s.ownPast.length else (s.cluster cl).ownSeen }) ∧
            (∀ t, t ∈ T ↔ t ∈ (s.cluster cl).tlb ∧ ¬meets t.va t.size) ∧
            ∀ t, t ∈ N ↔ t ∈ (s.cluster cl).nodes ∧ ¬meets t.base (2 ^ (13 + 10 * t.level)))))

/-- A request of the host is answered: its STATUS and its bytes, in a packet under the session's key (R364; log entry 34). -/
def Sys2Proof.Statements.replying (p : Packet) (key : BitVec 256) (c : BitVec 8) (bs : List Byte) (s : State) : State :=
  { s with fabric := { s.fabric with replies := s.fabric.replies ++ [(c, bs)], sent := s.fabric.sent ++ [hostResponse s.pkgid key p c bs] } }

/-- R270, R364: a request under the key of the host's session is performed, once no step holds its bytes (R336), under the tenant
that it names, and answered with STATUS 0, or with the cause that the access would have taken; what is none is dropped and
logged. A write to the local memory of a core that computes is discarded (R285); one to a core whose dump is being made
waits (R216). -/
def Sys2Proof.Statements.HostRequestsAreServed : Prop :=
  ∀ (s u v t : State) (p q : Packet) (op : HostOp) (key : BitVec 256) (tenant : BitVec 6) (pa : BitVec 52) (n : BitVec 12) (bs : List Byte)
    (off : BitVec 48) (w : Word) (r : LaunchRec) (c : BitVec 8) (reg : CtrlReg) (own : Prop),
    Takes (.hostRequest p op) s u → v = { u with traffic := s.cycle.toNat } →
    (own ↔ s.fabric.hostKey = some key ∧ p.type = 12 ∧ p.encrypted = true ∧ p.mac = (sealPacket key p).2) →
    ((s.fabric.hostKey = none ∨ s.fabric.hostKey = some key ∧ ¬own) →
      exec .hostRequest s = .next { u with fabric := { u.fabric with dropLog := u.fabric.dropLog ++ [p] } }) ∧
    (own →
      (op = .launch r → (v.acceptLaunch r = some t → exec .hostRequest s = .next (replying p key 0 [] t)) ∧ (v.acceptLaunch r = none → exec .hostRequest s = .next s)) ∧
      ((op = .read tenant pa 0 ∨ op = .write tenant pa []) → exec .hostRequest s = .next (replying p key 0 [] v)) ∧
      (op = .read tenant pa n → 0 < n.toNat →
        (s.hostCause .load tenant pa.toNat n.toNat = some c → exec .hostRequest s = .next (replying p key c [] v)) ∧
        (s.hostCause .load tenant pa.toNat n.toNat = none → s.inStep pa.toNat n.toNat = false →
          exec .hostRequest s = .next (replying p key 0 (v.hostBytes pa.toNat n.toNat) v)) ∧
        (s.hostCause .load tenant pa.toNat n.toNat = none → s.inStep pa.toNat n.toNat = true → exec .hostRequest s = .next s)) ∧
      (op = .write tenant pa bs → bs ≠ [] →
        (s.hostCause .store tenant pa.toNat bs.length = some c → exec .hostRequest s = .next (replying p key c [] v)) ∧
        (s.hostCause .store tenant pa.toNat bs.length = none → s.inStep pa.toNat bs.length = false →
          (regionOf pa.toNat ≠ .window → exec .hostRequest s = .next (replying p key 0 [] (v.poke (canon pa.toNat) bs))) ∧
          (regionOf pa.toNat = .window → (s.getCore (windowCore pa.toNat)).holding = false →
            ((s.getCore (windowCore pa.toNat)).computing = true → exec .hostRequest s = .next (replying p key 0 []
              (v.modCore (windowCore pa.toNat) fun c => { c with discards := c.discards + 1 }))) ∧
            ((s.getCore (windowCore pa.toNat)).computing = false → exec .hostRequest s = .next (replying p key 0 [] (v.poke (canon pa.toNat) bs)))) ∧
          (regionOf pa.toNat = .window → (s.getCore (windowCore pa.toNat)).holding = true → exec .hostRequest s = .next s))) ∧
      (op = .ctrlRead off → (ctrlReg off.toNat = none → exec .hostRequest s = .next (replying p key 0x06 [] v)) ∧
        (ctrlReg off.toNat = some reg → exec .hostRequest s = .next (replying p key 0 (bytesOfNat 8 (v.ctrlRead reg).toNat) v))) ∧
      (op = .ctrlWrite off w → (ctrlReg off.toNat = none → exec .hostRequest s = .next (replying p key 0x06 [] v)) ∧
        (ctrlReg off.toNat = some reg → v.ctrlWrite w reg = some t → exec .hostRequest s = .next (replying p key 0 [] t)) ∧
        (ctrlReg off.toNat = some reg → v.ctrlWrite w reg = none → exec .hostRequest s = .next s)) ∧
      (op = .latTol w → exec .hostRequest s = .next (replying p key 0 [] (v.withTol (w.setWidth 32))))) ∧
    (q = hostResponse s.pkgid key p c bs → bs.length < 1024 → q.type = 13 ∧ q.tag = p.tag ∧ q.win = p.win ∧ q.status = c ∧ q.data = bs ∧
      q.mac = (sealPacket key q).2)

/-- R367: a package reset brings the package up as the record says, memory kept (log entry 3), and announces it on every port
that trains; where the record does not verify, the package stays in reset and announces nothing. -/
def Sys2Proof.Statements.PackageResetBringsUp : Prop :=
  ∀ (s u : State) (r : ConfRecord) (salt : BitVec 128),
    (Takes (.packageReset true r salt) s u → ∃ t, exec .packageReset s = .next t ∧ t.mem = s.mem ∧ t.pkgid = r.pkg ∧ t.down = false ∧ t.due = [] ∧
      t.cycle = 0 ∧ (∀ id : CoreId, t.getCore id = Core.reset id) ∧ t.salt = salt ∧ t.tol = r.tol ∧ t.fabric.member = false ∧
      t.fabric.ports = r.ports ∧ t.fabric.hostPorts = r.host ∧ t.fabric.ftmo = (if r.ftmo = 0 then 100 else r.ftmo.toNat) ∧
      t.fabric.deadline = (if r.deadline = 0 then 10000 else r.deadline.toNat) ∧
      (∀ i, i < 12 → t.stack i = { Stack.reset with
        mode := r.modes.getLsbD i, budget := (r.alerts.getD i (8, 32)).1, winus := (r.alerts.getD i (8, 32)).2 }) ∧
      ((r.saves.map fun c => c.1).Nodup → ∀ c ∈ r.saves, t.saveAt.find? c.1.toNat = some c.2) ∧
      (∀ tab rec, (tab, rec) ∈ [(t.pown, r.pown), (t.sown, r.sown), (t.hown, r.hown)] →
        (rec.map fun c => c.1).Nodup → ∀ c ∈ rec, tab.get c.1 0 = c.2) ∧
      t.fabric.sent.length = ((List.range 18).filter fun p => r.ports.getLsbD p).length ∧
      ∀ q ∈ t.fabric.sent, q.type = 14 ∧ q.src = r.pkg ∧ q.encrypted = false ∧ q.kgen = 0 ∧
        q.data = bytesOfNat 2 r.pkg.toNat ++ bytesOfNat 48 Config.certDigest.toNat) ∧
    (Takes (.packageReset false r salt) s u → ∃ t, exec .packageReset s = .next t ∧ t.mem = s.mem ∧ t.down = true ∧ t.due = u.due ∧ t.fabric.sent = [] ∧
      ∀ id : CoreId, t.getCore id = Core.reset id)

/-- R75, R216 to R218, R254: a lock instruction that waits is presented again; the dump of a dead context waits for its
commands, is written where DUMPBASE names an area that may take it, and is noticed with its place or the reason that
there is none; its core then goes on. -/
def Sys2Proof.Statements.LocksAndDumps : Prop :=
  ∀ (s u : State) (id : CoreId) (c : Core) (d a : Opnd) (x : Option Nat) (dead : Death) (w : Who) (ps : List ((Word × Nat) × Phys)) (reason : BitVec 2),
    s.Named → c = s.getCore id →
    (Takes (.lockRepresentation id) s u →
      (c.front.life = .live → c.front.progress = .lock (.rwlr d a) x → exec .lockRepresentation s = exec (.rwlr d a) (u.focus id)) ∧
      (c.front.life = .live → c.front.progress = .lock (.rwlw d a) x → exec .lockRepresentation s = exec (.rwlw d a) (u.focus id)) ∧
      (c.front.life ≠ .live → exec .lockRepresentation s = .next (u.focus id))) ∧
    (Takes (.hardwareDump id) s u → c.front.life = .dead dead → w = ⟨id, c.front.self⟩ →
      (s.outstanding w = true → exec .hardwareDump s = .next s) ∧
      (s.outstanding w = false → c.shadow.life = .idle → c.front.task = none →
        (u.dumpPlace id c.front.dumpBase = .error reason →
          ∃ t, exec .hardwareDump s = .next t ∧ t.mem = s.mem ∧ t.dseq = s.dseq ∧ (t.getCore id).front.life = .idle ∧ (t.getCore id).holding = false ∧
            t.notices = s.notices ++ [⟨dead.cause, id, s.tenantOf id, none, reason⟩]) ∧
        (u.dumpPlace id c.front.dumpBase = .ok ps →
          ∃ t z header body, exec .hardwareDump s = .next t ∧ t.dseq = s.dseq + 1 ∧ (t.getCore id).front.life = .idle ∧ (t.getCore id).holding = false ∧
            t.notices = s.notices ++ [⟨dead.cause, id, s.tenantOf id, ps.head?.map (fun p => p.2.pa), 0⟩] ∧
            z = { u with dseq := s.dseq + 1 } ∧ header = z.dumpHeader c c.front dead z.dseq (z.regsOf w).length ∧ body = z.dumpBody c c.front dead ∧
            ∀ sealed, sealed = gcmSeal (dumpKeyOf (s.tenantOf id) s.salt z.dseq) (z.dseq ++ id.setWidth 32) (header 0 0) body →
              t.mem = (z.dumpBytes ps (header 0x101 sealed.2 ++ padTo (112 * 1024 - 256) sealed.1)).mem)) ∧
      (u.dumpPlace id 0 = .error 0))

/-- R244, R361 to R367, R216 to R218, R254: what the units outside the strands do (log entries 3, 15, 34, 47, 62, 63, 65 and
89). -/
def Obligations.DomainHostPowerAndDump : Prop :=
  SpdmAdmits ∧ TheDomainChanges ∧ InvalidationsEnd ∧ HostRequestsAreServed ∧ UnitsRestAndWake ∧ PackageResetBringsUp ∧ LocksAndDumps

/-! ## Frames -/

/-- The destination of a scalar instruction that stores nothing: of the integer, floating and immediate instructions, the
branches and jumps, the loops, the loads, and the vector instructions that give an x register. `none` is another one. -/
def Sys2Proof.Statements.scalarDest : Instr → Option (Option Opnd)
  | .add d _ _ | .sub d _ _ | .and d _ _ | .or d _ _ | .xor d _ _ | .andn d _ _ | .sll d _ _ | .srl d _ _ | .sra d _ _ | .rol d _ _
  | .mul d _ _ | .mulh d _ _ | .mulhu d _ _ | .div d _ _ | .divu d _ _ | .rem d _ _ | .remu d _ _ | .min d _ _ | .max d _ _
  | .minu d _ _ | .maxu d _ _ | .slt d _ _ | .sltu d _ _ | .seq d _ _ | .clz d _ | .ctz d _ | .popc d _ | .bfx d _ _ | .bfi d _ _
  | .addi d _ _ | .andi d _ _ | .ori d _ _ | .xori d _ _ | .slti d _ _ | .sltiu d _ _ | .slli d _ _ | .srli d _ _ | .srai d _ _
  | .roli d _ _ | .lui d _ | .auipc d _ | .fadd d _ _ | .fsub d _ _ | .fmul d _ _ | .fma d _ _ | .fdiv d _ _ | .fsqrt d _
  | .fmin d _ _ | .fmax d _ _ | .feq d _ _ | .flt d _ _ | .fle d _ _ | .fclass d _ | .fcvt d _ _ | .jal d _ | .jalr d _ _
  | .ld d _ _ _ | .lda d _ _ _ => some (some d)
  | .mcnt x _ _ | .vext x _ _ _ _ => some (some (.x x))
  | .beq .. | .bne .. | .blt .. | .bge .. | .bltu .. | .bgeu .. | .loop .. | .loopi .. | .bts .. => some none
  | _ => none

/-- A front context keeps all but what a scalar unit may change: the destination among the x registers, the history of its
results, ports and channels it pops or pushes, the loop levels, INSTRET, the pc, what the model holds of the unit in
hand, and the first failed fabric store; or it has taken a trap, before which nothing but its ports changed. -/
def Sys2Proof.Statements.ScalarContext (s t : State) : Prop :=
  t.ctx = { s.ctx with
      x := t.ctx.x, hist := t.ctx.hist, trapHist := t.ctx.trapHist, hold := t.ctx.hold, ports := t.ctx.ports, chans := t.ctx.chans,
      loops := t.ctx.loops, instret := t.ctx.instret, pc := t.ctx.pc, hints := t.ctx.hints, pops := t.ctx.pops,
      progress := t.ctx.progress, failed := t.ctx.failed } ∨
    ∃ (base : State) (c : BitVec 8) (v : Word), t = base.takeTrap c v ∧ base.ctx = { s.ctx with
      hold := base.ctx.hold, holdFor := base.ctx.holdFor, ports := base.ctx.ports, chans := base.ctx.chans, pops := base.ctx.pops,
      progress := base.ctx.progress, failed := base.ctx.failed }

/-- R95, R97, R101 to R110, R112, R122: what a scalar instruction that stores nothing leaves as it was: every byte of memory,
every x register but its destination, the vectors, masks and tiles, the control registers but for a trap's own, and
every other core; a push into a port also reaches its engine. -/
def Sys2Proof.Statements.ScalarInstructionsKeepTheRest : Prop :=
  ∀ (s t : State) (i : Instr) (d : Option Opnd),
    Solo s → s.ctx.diffMode = .fwd → scalarDest i = some d → exec i s = .next t →
    (∀ q, t.byte q = s.byte q) ∧ (∀ r, d ≠ some (.x r) → t.ctx.readX r = s.ctx.readX r) ∧ ScalarContext s t ∧
    t.core = { s.core with
      front := t.core.front, rngSeed := t.core.rngSeed, trace := t.core.trace, traceHead := t.core.traceHead,
      traceWrap := t.core.traceWrap, watchdog := t.core.watchdog, probed := t.core.probed, freeze := t.core.freeze, holding := t.core.holding } ∧
    t = { s with core := t.core, due := t.due, clusters := t.clusters, fabric := t.fabric, dies := t.dies, traffic := t.traffic, tick := t.tick } ∧
    ((∀ q, d ≠ some (.port q)) → t.dies = s.dies)

/-- The bytes that an access of n bytes at p stores to. -/
def Sys2Proof.Statements.PlacedAt (p : Phys) (n q : Nat) : Prop := ∃ i, i < n ∧ (q = canon (p.pa + i) ∨ q = canon p.pa + i)

/-- R112, R115, R250: what a store, an atomic or a reduction leaves as it was: every byte but those at the place its address
goes to, all of memory where it goes nowhere or is not aligned; every x register but an atomic's destination. -/
def Sys2Proof.Statements.StoresChangeOnlyTheirBytes : Prop :=
  ∀ (s s0 s1 t : State) (i : Instr) (d : Option Opnd) (r a b : Opnd) (w : StWidth) (imm : BitVec 11) (sc : Scope) (o : Order) (rt : RedType)
    (base va z : Word) (n : Nat) (l : BitVec 3) (k : AccKind) (ctrl : Bool),
    Solo s → s.Named → s.ctx.diffMode = .fwd → Reads a s0 base s1 →
    (i = .st r a w imm ∧ s0 = s ∧ (w, n, l) ∈ storeWidths ∧ va = base + BitVec.ofInt 64 (imm.toInt * n) ∧ d = none ∧ k = .store ∧ ctrl = decide (n = 8) ∨
      i = .stl r a w sc ∧ s0 = s ∧ (w, n, l) ∈ storeWidths ∧ va = base ∧ d = none ∧ k = .store ∧ ctrl = false ∨
      i ∈ ([.redadd rt a b o, .redmin rt a b o, .redmax rt a b o] : List Instr) ∧ s0 = s ∧ n = rt.bank.bytes ∧ va = base ∧ d = none ∧ k = .atomic ∧ ctrl = false ∨
      i ∈ ([.aadd r a b o, .amin r a b o, .amax r a b o, .aand r a b o, .aor r a b o, .axor r a b o, .aswp r a b o] : List Instr) ∧ s0 = s ∧
        n = 8 ∧ va = base ∧ d = some r ∧ k = .atomic ∧ ctrl = false ∨
      i ∈ ([.acas r a b o, .abadd r a b o] : List Instr) ∧ Reads r s z s0 ∧ n = 8 ∧ va = base ∧ d = some r ∧ k = .atomic ∧ ctrl = false) →
    exec i s = .next t →
    (∀ p s2, Goes k ctrl va s1 p s2 → ∀ q, ¬PlacedAt p n q → t.byte q = s.byte q) ∧
    ((va.toNat % n ≠ 0 ∨ ∀ p s2, ¬Goes k ctrl va s1 p s2) → ∀ q, t.byte q = s.byte q) ∧
    (∀ x, d ≠ some (.x x) → t.ctx.readX x = s.ctx.readX x) ∧ ScalarContext s t ∧
    (∀ id : CoreId, id ≠ s.core.id → (t.getCore id).front = (s.getCore id).front)

/-- The vector register that a vector instruction without memory writes. -/
def Sys2Proof.Statements.vectorDest : Instr → Option (BitVec 5)
  | .vadd d _ _ _ _ | .vsub d _ _ _ _ | .vmul d _ _ _ _ | .vfma d _ _ _ _ | .vmin d _ _ _ _ | .vmax d _ _ _ _ | .vabs d _ _ _
  | .vneg d _ _ _ | .vand d _ _ _ _ | .vor d _ _ _ _ | .vxor d _ _ _ _ | .vnot d _ _ _ | .vsll d _ _ _ _ | .vsrl d _ _ _ _
  | .vsra d _ _ _ _ | .vpopc d _ _ _ | .vsel d _ _ _ _ | .vclass d _ _ _ | .vcvt d _ _ _ _ _ | .vrsum d _ _ _ | .vrmax d _ _ _
  | .vrmin d _ _ _ | .vscan d _ _ _ | .vperm d _ _ _ _ | .vbcast d _ _ _ | .viota d _ _ | .vtopk d _ _ _ _ | .vexp2 d _ _ _
  | .vrcp d _ _ _ | .vrsq d _ _ _ | .vlog2 d _ _ _ => some d
  | _ => none

/-- The mask register that an instruction writes, and the tile. -/
def Sys2Proof.Statements.maskDest : Instr → Option (BitVec 3)
  | .vcmp _ _ _ p _ => some p
  | .mand d _ _ | .mor d _ _ | .mnot d _ => some d
  | _ => none
def Sys2Proof.Statements.tileDest : Instr → Option (BitVec 3)
  | .mzero d | .mmov d _ | .madd d _ _ _ | .mxpose d _ _ _ => some d
  | _ => none

/-- R120 to R135, R184, R186: a register-only vector, mask or tile instruction changes its destination alone: no trap, no x
register, no byte of memory, no other core, no other register of its own file. -/
def Sys2Proof.Statements.VectorsAndTilesKeepTheRest : Prop :=
  ∀ (s t : State) (i : Instr),
    Solo s → exec i s = .next t → (vectorDest i ≠ none ∨ maskDest i ≠ none ∨ tileDest i ≠ none) →
    (∀ r, vectorDest i ≠ some r → t.ctx.readV r = s.ctx.readV r) ∧ (∀ r, maskDest i ≠ some r → t.ctx.readP r = s.ctx.readP r) ∧
    (∀ r, tileDest i ≠ some r → t.ctx.readT r = s.ctx.readT r ∧ t.ctx.readF r = s.ctx.readF r) ∧
    t.ctx = { s.ctx with
      v := t.ctx.v, p := t.ctx.p, t := t.ctx.t, tf := t.ctx.tf, loops := t.ctx.loops, instret := t.ctx.instret, pc := t.ctx.pc,
      hold := t.ctx.hold, hints := t.ctx.hints, pops := t.ctx.pops, progress := t.ctx.progress } ∧
    t.core = { s.core with front := t.core.front, rngSeed := t.core.rngSeed, watchdog := t.core.watchdog, probed := t.core.probed } ∧
    t = { s with core := t.core } ∧ ∀ q, t.byte q = s.byte q

/-- R95 to R135, R184, R250: the frames of the instructions of the strand. -/
def Obligations.InstructionsKeepWhatTheyDoNotName : Prop :=
  ScalarInstructionsKeepTheRest ∧ StoresChangeOnlyTheirBytes ∧ VectorsAndTilesKeepTheRest

/-! ## The whole machine -/

/-- R66, R72, R197, R242, R367: the machine after reset: every context of every core is reset, its registers zero, its loops
inactive, its histories zero, its level USER, and TVEC 0; every counter is 0, every line empty, no weight unit or table
is valid; no translation is on, no granule is owned, the package is in no domain, CYCLE is 0. Every core is listed under
its COREID, and memory is canonical. -/
def Obligations.ResetLeavesTheMachineSo : Prop :=
  (∀ (id : CoreId) (slot : Bool) (k : Ctx), k = (if slot then (State.reset.getCore id).shadow else (State.reset.getCore id).front) →
    (∀ r, k.readX r = 0) ∧ (∀ r, k.readV r = 0) ∧ k.readP 0 = BitVec.allOnes 128 ∧ (∀ r, r ≠ 0 → k.readP r = 0) ∧
    (∀ r, k.readT r = Vector.replicate 16 0 ∧ k.readF r = .zero) ∧
    (∀ l, k.loopAt l = ⟨0, 0, 0, false⟩) ∧ (∀ h : Fin 8, k.rings.get h = none) ∧ (∀ n : Fin 4, k.ba.get n = 0) ∧
    k.hist = List.replicate 8 0 ∧ k.trapHist = List.replicate 8 0 ∧ k.hold = [] ∧ k.pend = 0 ∧
    k.trapBit = false ∧ k.pl = 0 ∧ k.ppl = 0 ∧ k.rm = 0 ∧ k.satBit = false ∧ k.tvec = 0 ∧ k.ecause = 0 ∧ k.mseq = 0 ∧
    k.ydeadline = 20000 ∧ k.rxwatch = 65536 ∧ k.phase = 0 ∧ k.traceEn = true ∧ k.mode = .fwd ∧ k.ctxid.extractLsb' 24 8 = 0 ∧ k.life = .idle) ∧
  (∀ id : CoreId, (∀ n : Fin 16, ((State.reset.getCore id).counters.get n).val = 0) ∧ (State.reset.getCore id).full = 0 ∧
    (∀ u : Fin 128, ((State.reset.getCore id).wbuf.get u).tag = none) ∧ (State.reset.getCore id).vqTag = none ∧ (State.reset.getCore id).slots = [] ∧
    (State.reset.getCore id).slotTag = none) ∧
  (∀ cl, (State.reset.cluster cl).xroot = 0 ∧ (State.reset.cluster cl).xten = 0 ∧ (State.reset.cluster cl).inval = none) ∧
  (∀ tenant pa, (regionOf pa = .pool ∨ regionOf pa = .stackMem ∨ regionOf pa = .rank) → State.reset.owns tenant pa = false) ∧
  State.reset.fabric.member = false ∧ State.reset.cycle = 0 ∧ State.reset.Inv ∧ State.reset.Named

/-- R39, R53, R57: words that the spec works out decode to the instructions they stand for: `ADD x3, x1, ^2`, `ADDI x5, x0,
-100`, `SLLI x5, x6, 3`, `BNE x6, x0`, `LDA.I32.die x5, 0(x6)`, `SYSR x30, EPC`, `COPY x5, x3, x1, full`, `RSET h1, x3, x4`,
`VADD.BF16 v4, v1, v2, p3`, `VLD.F32 v3, -128(x4), full`, `VREDADD.F32 v2, 256(x9)`, `MLDW 0, x6, 8`, `HINT.MOD .rs.sat`; word 0 is illegal, and
0xE000_0000 is reserved. -/
def Obligations.WorkedWordsDecode : Prop :=
  (∀ w i, (w, i) ∈ ([
      (0x04306100, .add (.x 3) (.x 1) (.hist 1)),
      (0x08503F9C, .addi (.x 5) (.x 0) (BitVec.ofInt 14 (-100))),
      (0x20518003, .slli (.x 5) (.x 6) 3),
      (0x34600002, .bne (.x 6) (.x 0) 2),
      (0x5C519300, .lda (.x 5) (.x 6) .s4 .die),
      (0x69E00002, .sysr (.x 30) 2),
      (0x7050C140, .copy 5 (.x 3) (.x 1) true),
      (0x7690C400, .rset (.ring 1) (.x 3) (.x 4)),
      (0x788113A0, .vadd 4 1 2 3 .bf16),
      (0x8C64F8E0, .vld 3 4 true 15 0 .f32),
      (0x904910E3, .vredadd 2 9 2 0 .f32),
      (0xA06001C0, .mldw (.x 6) 0 7),
      (0xFEB00000, .hintMod (some .stochastic) true false .default)] : List (BitVec 32 × Instr)) → decode w = .ok i) ∧
  decode 0 = .error .illegal ∧ decode 0xE0000000 = .error .reserved

/-- The updates that an instruction or an act of a core makes still come in their order within the cycle (R156, R205, R230,
R299; log entry 88). -/
def Sys2Proof.Statements.Timely (i : Instr) (id : CoreId) (s : State) : Prop := orderOf i id = 0 ∨ s.stage ≤ orderOf i id

/-- The cycle ends with the tests of the huddle engine (R277), and nothing else is done. -/
def Sys2Proof.Statements.passes (s : State) : State := State.after { s.endCycle with cycle := s.cycle + 1 } 0 none

/-- The step takes the instruction i on `ran`, or ends the cycle where its updates would come too late in this one. -/
def Sys2Proof.Statements.StepsBy (i : Instr) (found ran s : State) : Prop :=
  (Timely i ran.core.id s → step s = mapNext (afterRun i found ran) (exec i ran)) ∧ (¬Timely i ran.core.id s → step s = .next (passes s))

/-- R3, R39, R48, R58: a step runs the decoded instruction. Where the only agent is the strand of a core, or its exchange slot is
now (R284), and the four bytes at its next word's address decode to i, the step is that of i, on the state that the fetch left,
and time passes after it; hints that i does not accept trap instead (R49). At a boundary where a forced swap is due, the slots are
exchanged (R213). Where the only agent is an act that is due, the step is that of the act, the unit that it reaches being awake,
which it is woken for otherwise (R366); an act whose time has come goes before all else. A step word runs as the act of its context
(R330). With several agents, one of them is chosen (log entry 1), and with none, time passes. -/
def Obligations.AStepRunsTheDecodedInstruction : Prop :=
  ∀ (s t s1 : State) (id : CoreId) (p : Phys) (w : BitVec 32) (i : Instr) (n : Nat) (d : Due) (u : PowerUnit) (x : StepUnit),
    (s.down = true → (∀ y ∈ s.due, ∀ ok r salt, y.act ≠ .packageReset ok r salt) → step s = .next (s.after 0 none)) ∧
    (s.down = false → s.expired = some n → s.due[n]? = some d → (∀ u, d.act.wakes = some u → s.sleeps u = false) →
      step s = mapNext (afterRun d.act.instr s { s with due := d :: s.due.eraseIdx n }) (exec d.act.instr { s with due := d :: s.due.eraseIdx n })) ∧
    (s.down = false → s.expired = none → (s.inSlot = some id ∨ s.inSlot = none ∧ s.agents = [.strand id]) → t = s.focus id →
      (t.core.swapNow = true → t.core.swapDue ≠ .since s.cycle.toNat → t.ctx.hints = [] → step s = .next ((t.forceSwap id).after 0 none)) ∧
      (t.core.swapNow = false ∨ t.core.swapDue = .since s.cycle.toNat ∨ t.ctx.hints ≠ [] →
        Goes .fetch false t.ctx.iaddr t p s1 → Ready s1 p 4 → s1.failing p.pa 4 = false → w.toNat = natOfBytes (s1.view p.pa 4) →
        (∀ e, decode w = .error e → step s = mapNext (afterRun (.illegalInstruction w (e == .reserved)) t s1) (exec (.illegalInstruction w (e == .reserved)) s1)) ∧
        (decode w = .ok i →
          (isHintWord i = true ∨ s1.ctx.hintMisuse i = none → StepsBy i t s1 s) ∧
          (∀ h, isHintWord i = false → s1.ctx.hintMisuse i = some h → Solo s1 →
            step s = .next ((afterTrap t ((trapBase s1 s1.ctx.pops none).takeTrap 0x01 (h.setWidth 64))).after 0 none))))) ∧
    (s.down = false → s.expired = none → s.inSlot = none →
      (s.agents = [.act n] → s.due[n]? = some d →
        ((∀ u, d.act.wakes = some u → s.sleeps u = false) → StepsBy d.act.instr s { s with due := d :: s.due.eraseIdx n } s) ∧
        (d.act.wakes = some u → s.sleeps u = true → step s = mapNext (afterRun .wake s { s with due := ⟨.wake u, none⟩ :: s.due })
          (exec .wake { s with due := ⟨.wake u, none⟩ :: s.due }))) ∧
      (s.agents = [.steps x] → decodeStep (s.stepWord x) = some i → StepsBy i s { s with unit := some x } s) ∧
      (s.agents ≠ [] → ∃ a ∈ s.agents, s.choose.1 = some a) ∧ (s.agents = [] → step s = .next (passes s)))

/-- Every instruction completes: whatever the state, and whatever its operands, exec answers a next state, and so does
step; the spec gives every instruction an effect, a trap or a wait (R57, R58, R65). -/
def Obligations.NothingStopsTheMachine : Prop := (∀ i s, ∃ t, exec i s = .next t) ∧ ∀ s, ∃ t, step s = .next t

/-- R39 to R57, R332: no bit of an encoding is dropped: every well-formed instruction of a strand, and every well-formed step,
is what its own word decodes to; and a word that decodes is the word of what it decodes to. -/
def Obligations.DecodeAndEncodeAgree : Prop :=
  (∀ i : Instr, i.wf = true → i.isWord = true → decode (encode i) = .ok i) ∧
  (∀ i : Instr, i.wf = true → i.isStep = true → decodeStep (encode i) = some i) ∧
  (∀ w i, decode w = .ok i → i.wf = true ∧ encode i = w) ∧ (∀ w i, decodeStep w = some i → i.wf = true ∧ encode i = w)

/-- Every step keeps memory in its canonical form, so that equal memories are equal data (log entry 3: the list of cells is
the model's own). -/
def Obligations.EveryStepKeepsMemoryCanonical : Prop := ∀ s t, s.Inv → step s = .next t → t.Inv

/-- Every step keeps every core under its own COREID (R67): no act of any unit gives a core the state of another. -/
def Obligations.EveryStepKeepsCoresNamed : Prop := ∀ s t, s.Named → step s = .next t → t.Named
end

