-- ==== Sys2Proof/Laws/Access.lean ====
section
/-! SUPPORT. What a load within the package does where nothing holds it up: it reads the bytes and changes nothing. -/

namespace Sys2Proof.Laws

open Sys2Proof.Machine

/-- The place takes a read of n bytes at once and without error: within the package, no rank in a step, no error. -/
def Readable (s : State) (p : Phys) (n : Nat) : Prop :=
  regionOf p.pa ≠ .fabric ∧ s.inStep p.pa n = false ∧ s.failing p.pa n = false

theorem tryRead_readable {a : Word} {p : Phys} {n : Nat} {ord : BitVec 2} {s : State} (h : Readable s p n) :
    tryRead a p n ord false s = .ok (.data (s.view p.pa n), s) := by
  have f : (regionOf p.pa == .fabric) = false := by simpa using h.1
  unfold tryRead inTurn; rw [f]
  show (if s.inStep p.pa n then (wait : M RemoteVal) else if s.failing p.pa n then return .fail 0x0A else return .data (s.view p.pa n)) s = _
  rw [h.2.1, h.2.2]; rfl

theorem loadAt_readable {a : Word} {p : Phys} {n : Nat} {ord : BitVec 2} {s : State} (h : Readable s p n) :
    loadAt a p n ord false s = .ok (s.view p.pa n, s) := by
  show Except.bind (tryRead a p n ord false s) _ = _
  rw [tryRead_readable h]; rfl

/-- No part waits for its turn where all are within the package. -/
theorem goesFirst_local {s : State} {p : Phys} {r : List Phys} (h : ∀ q ∈ r, regionOf q.pa ≠ .fabric) : s.goesFirst p r = false := by
  unfold State.goesFirst
  rw [List.any_eq_false.mpr (fun q hq => by simp [State.foreign, h q hq]), Bool.and_false]

theorem loadSpans_readable {s : State} : ∀ {l : List ((Word × Nat) × Phys)}, (∀ x ∈ l, Readable s x.2 x.1.2) →
    loadSpans l s = .ok (l.flatMap fun x => s.view x.2.pa x.1.2, s)
  | [], _ => rfl
  | ((a, n), p) :: r, h => by
    have g : s.goesFirst p (r.map Prod.snd) = false := goesFirst_local fun q hq => by
      obtain ⟨x, hx, rfl⟩ := List.mem_map.mp hq
      exact (h x (.tail _ hx)).1
    show Except.bind (loadAt a p n 0 (s.goesFirst p (r.map Prod.snd)) s) _ = _
    rw [g, loadAt_readable (h _ (.head _))]
    show Except.bind (loadSpans r s) _ = _
    rw [loadSpans_readable fun x hx => h x (.tail _ hx)]; rfl

/-- Words within the package are accesses of their own. -/
theorem joinWords_local : ∀ {ws : List (Word × Phys)}, (∀ w ∈ ws, regionOf w.2.pa ≠ .fabric) → joinWords ws = ws.map fun w => ((w.1, 4), w.2)
  | [], _ => rfl
  | (a, p) :: r, h => by
    have f : (regionOf p.pa == .fabric) = false := by simpa using h _ (.head _)
    unfold joinWords
    rw [joinWords_local fun w hw => h w (.tail _ hw)]
    cases r with
    | nil => rfl
    | cons w r => simp [f]

theorem loadWords_readable {s : State} {ws : List (Word × Phys)} (h : ∀ w ∈ ws, Readable s w.2 4) :
    loadWords ws s = .ok (natOfBytes (ws.flatMap fun w => s.view w.2.pa 4), s) := by
  show Except.bind (loadSpans (joinWords ws) s) _ = _
  rw [joinWords_local fun w hw => (h w hw).1, loadSpans_readable fun x hx => by
    obtain ⟨w, hw, rfl⟩ := List.mem_map.mp hx
    exact h w hw]
  rw [List.flatMap_map]; rfl

/-! ## The matrix unit's reads -/

theorem readPieces_readable {s : State} : ∀ {ps : List Piece}, (∀ q ∈ ps, Readable s q.p q.n) →
    readPieces ps s = .ok (.ok (ps.flatMap fun q => s.view q.p.pa q.n), s)
  | [], _ => rfl
  | q :: r, h => by
    show Except.bind (tryRead q.va q.p q.n 0 false s) _ = _
    rw [tryRead_readable (h _ (.head _))]
    show Except.bind (readPieces r s) _ = _
    rw [readPieces_readable fun x hx => h x (.tail _ hx)]; rfl

theorem readRange_readable {s : State} {ps : List Piece} (h : ∀ q ∈ ps, Readable s q.p q.n) (g : s.failIn ps = none) :
    readRange ps s = .ok (.ok (ps.flatMap fun q => s.view q.p.pa q.n), s) := by
  show (match s.failIn ps with | some a => (return .error a : M (Except Word (List Byte))) | none => readPieces ps) s = _
  rw [g]; exact readPieces_readable h

/-- An uncorrectable error is found before anything is read. -/
theorem readRange_failing {s : State} {ps : List Piece} {a : Word} (g : s.failIn ps = some a) : readRange ps s = .ok (.error a, s) := by
  show (match s.failIn ps with | some a => (return .error a : M (Except Word (List Byte))) | none => readPieces ps) s = _
  rw [g]; rfl

/-- The scales of one piece within the package: none where the byte meets an error. -/
theorem scaleBytes_local {s : State} {q : Piece} (f : regionOf q.p.pa ≠ .fabric) (i : s.inStep q.p.pa q.n = false) :
    scaleBytes [q] s = .ok (((List.range q.n).map fun i => if s.failing (q.p.pa + i) 1 then none else some (s.viewByte (canon (q.p.pa + i))),
      s.failAddr q.va q.p q.n), s) := by
  have b : (regionOf q.p.pa == .fabric) = false := by simpa using f
  unfold scaleBytes
  rw [b]
  show (if s.inStep q.p.pa q.n then _ else _ : M _) s = _
  rw [i]
  show Except.ok ((_ ++ [], (s.failAddr q.va q.p q.n).orElse fun _ => none), s) = _
  rw [List.append_nil]
  cases s.failAddr q.va q.p q.n <;> rfl

end Sys2Proof.Laws
end

