-- ==== Sys2Proof/Laws/Tab.lean ====
section
/-! SUPPORT. Tables: a look-up after a set or an erasure. They hold of every list, sorted or not. -/

namespace Sys2Proof.Laws

open Sys2Proof.Machine

variable {α : Type}

@[simp] theorem find?_set_same (t : Tab α) (i : Nat) (v : α) : (t.set i v).find? i = some v := by
  induction t with
  | nil => simp [Tab.set, Tab.find?]
  | cons c r ih =>
    obtain ⟨k, w⟩ := c
    simp only [Tab.set]
    split
    · simp [Tab.find?]
    · split
      · simp [Tab.find?]
      · next h => simp only [Tab.find?]; rw [if_neg (fun e => h e.symm)]; exact ih

theorem find?_set_other (t : Tab α) {i j : Nat} (h : j ≠ i) (v : α) : (t.set i v).find? j = t.find? j := by
  induction t with
  | nil => simp [Tab.set, Tab.find?, h.symm]
  | cons c r ih =>
    obtain ⟨k, w⟩ := c
    simp only [Tab.set]
    split
    · simp [Tab.find?, h.symm]
    · split
      · next e => subst e; simp [Tab.find?, h.symm]
      · simp [Tab.find?, ih]

theorem find?_erase_other (t : Tab α) {i j : Nat} (h : j ≠ i) : (t.erase i).find? j = t.find? j := by
  induction t with
  | nil => rfl
  | cons c r ih =>
    obtain ⟨k, w⟩ := c
    simp only [Tab.erase]
    split
    · next e => subst e; simp [Tab.find?, h.symm]
    · simp [Tab.find?, ih]

@[simp] theorem get_set_same (t : Tab α) (i : Nat) (v d : α) : (t.set i v).get i d = v := by simp [Tab.get]
theorem get_set_other (t : Tab α) {i j : Nat} (h : j ≠ i) (v d : α) : (t.set i v).get j d = t.get j d := by
  simp [Tab.get, find?_set_other t h]
theorem get_erase_other (t : Tab α) {i j : Nat} (h : j ≠ i) (d : α) : (t.erase i).get j d = t.get j d := by
  simp [Tab.get, find?_erase_other t h]

end Sys2Proof.Laws
end

