-- ==== Sys2Proof/Laws/Cores.lean ====
section
/-! SUPPORT. The cores of the package: reading one after a change, and that changes keep every core under its COREID. -/

namespace Sys2Proof.Laws

open Sys2Proof.Machine

theorem toNat_ne {n : Nat} {a b : BitVec n} (h : a ≠ b) : a.toNat ≠ b.toNat := fun e => h (BitVec.eq_of_toNat_eq e)

/-! ## Reading a core -/

@[simp] theorem getCore_focused (s : State) : s.getCore s.core.id = s.core := by simp [State.getCore]

theorem getCore_setCore_same (s : State) (c : Core) : (s.setCore c).getCore c.id = c := by
  unfold State.setCore
  split
  · simp [State.getCore]
  · next h => simp [State.getCore, h]

theorem getCore_setCore_other (s : State) (c : Core) {id : CoreId} (h : id ≠ c.id) : (s.setCore c).getCore id = s.getCore id := by
  unfold State.setCore
  split
  · next e => simp only [State.getCore]; rw [if_neg h, if_neg (by rw [← e]; exact h)]
  · simp only [State.getCore]
    split
    · rfl
    · exact get_set_other _ (toNat_ne h) _ _

/-- What setCore leaves: the cores alone change. -/
theorem setCore_frame (s : State) (c : Core) : ∃ k o, s.setCore c = { s with core := k, others := o } := by
  unfold State.setCore
  split
  · exact ⟨c, s.others, rfl⟩
  · exact ⟨s.core, _, rfl⟩

theorem modCore_frame (s : State) (id : CoreId) (f : Core → Core) : ∃ k o, s.modCore id f = { s with core := k, others := o } :=
  setCore_frame s _

theorem getCore_modCore_same {s : State} {id : CoreId} {f : Core → Core} (h : (f (s.getCore id)).id = id) :
    (s.modCore id f).getCore id = f (s.getCore id) := by
  have := getCore_setCore_same s (f (s.getCore id))
  rwa [h] at this

theorem getCore_modCore_other {s : State} {id j : CoreId} {f : Core → Core} (h : (f (s.getCore id)).id = id) (hj : j ≠ id) :
    (s.modCore id f).getCore j = s.getCore j := getCore_setCore_other s _ (by rw [h]; exact hj)

@[simp] theorem setCore_core_id (s : State) (c : Core) : (s.setCore c).core.id = s.core.id := by
  unfold State.setCore
  split
  · next h => exact h
  · rfl

@[simp] theorem modCore_core_id (s : State) (id : CoreId) (f : Core → Core) : (s.modCore id f).core.id = s.core.id := setCore_core_id s _

/-! ## The core in focus -/

/-- What focus leaves: the cores alone change. -/
theorem focus_frame (s : State) (id : CoreId) : ∃ k o, s.focus id = { s with core := k, others := o } := by
  unfold State.focus
  split
  · exact ⟨s.core, s.others, rfl⟩
  · exact ⟨_, _, rfl⟩

theorem focus_core (s : State) (id : CoreId) : (s.focus id).core = s.getCore id := by
  unfold State.focus State.getCore
  split <;> rfl

@[simp] theorem focus_focused (s : State) : s.focus s.core.id = s := by simp [State.focus]

theorem getCore_focus {s : State} (hs : s.Named) (id j : CoreId) : (s.focus id).getCore j = s.getCore j := by
  by_cases h : id = s.core.id
  · subst h; simp
  · have hid := hs id
    by_cases hj : j = id
    · subst hj
      rw [State.getCore, focus_core, if_pos hid.symm]
    · rw [State.getCore, focus_core, if_neg (by rw [hid]; exact hj)]
      simp only [State.focus, if_neg h]
      by_cases hc : j = s.core.id
      · subst hc; simp
      · rw [get_set_other _ (toNat_ne hc), get_erase_other _ (toNat_ne hj), State.getCore, if_neg hc]

/-! ## Named -/

theorem named_setCore {s : State} (hs : s.Named) (c : Core) : (s.setCore c).Named := by
  intro id
  by_cases h : id = c.id
  · subst h; rw [getCore_setCore_same]
  · rw [getCore_setCore_other s c h]; exact hs id

/-- Whatever a change makes of a core, it stands under its own COREID afterwards. -/
theorem named_modCore {s : State} (hs : s.Named) (id : CoreId) (f : Core → Core) : (s.modCore id f).Named := named_setCore hs _

theorem named_focus {s : State} (hs : s.Named) (id : CoreId) : (s.focus id).Named := fun j => by rw [getCore_focus hs]; exact hs j

theorem named_mapFocus {s : State} (hs : s.Named) (f : Core → Core) (h : (f s.core).id = s.core.id) : (s.mapFocus f).Named := by
  intro id
  have := hs id
  by_cases e : id = s.core.id
  · have : (s.mapFocus f).getCore id = f s.core := by
      unfold State.getCore; exact if_pos (by show id = (f s.core).id; rw [h, e])
    rw [this, h, e]
  · have g : (s.mapFocus f).getCore id = s.getCore id := by
      unfold State.getCore
      rw [if_neg e]
      exact if_neg (by show ¬id = (f s.core).id; rw [h]; exact e)
    rw [g]; exact this

theorem named_mapCtx {s : State} (hs : s.Named) (f : Ctx → Ctx) : (s.mapCtx f).Named :=
  named_mapFocus hs (fun c => { c with front := f c.front }) rfl

/-- The names are those of the cores alone. -/
theorem named_of_cores {s t : State} (hc : t.core = s.core) (ho : t.others = s.others) (hs : s.Named) : t.Named := by
  intro id
  have := hs id
  simp only [State.getCore] at this ⊢
  rwa [hc, ho]

end Sys2Proof.Laws
end

