-- ==== Sys2Proof/Laws/Exec.lean ====
section
/-! SUPPORT. What each arm of `exec` calls, one lemma for each constructor. -/

namespace Sys2Proof.Laws

open Sys2Proof.Machine

@[simp] theorem exec_add {d a b} {s : State} : exec (.add d a b) s = execAdd d a b s := rfl
@[simp] theorem exec_sub {d a b} {s : State} : exec (.sub d a b) s = execSub d a b s := rfl
@[simp] theorem exec_and {d a b} {s : State} : exec (.and d a b) s = execAnd d a b s := rfl
@[simp] theorem exec_or {d a b} {s : State} : exec (.or d a b) s = execOr d a b s := rfl
@[simp] theorem exec_xor {d a b} {s : State} : exec (.xor d a b) s = execXor d a b s := rfl
@[simp] theorem exec_andn {d a b} {s : State} : exec (.andn d a b) s = execAndn d a b s := rfl
@[simp] theorem exec_sll {d a b} {s : State} : exec (.sll d a b) s = execSll d a b s := rfl
@[simp] theorem exec_srl {d a b} {s : State} : exec (.srl d a b) s = execSrl d a b s := rfl
@[simp] theorem exec_sra {d a b} {s : State} : exec (.sra d a b) s = execSra d a b s := rfl
@[simp] theorem exec_rol {d a b} {s : State} : exec (.rol d a b) s = execRol d a b s := rfl
@[simp] theorem exec_mul {d a b} {s : State} : exec (.mul d a b) s = execMul d a b s := rfl
@[simp] theorem exec_mulh {d a b} {s : State} : exec (.mulh d a b) s = execMulh d a b s := rfl
@[simp] theorem exec_mulhu {d a b} {s : State} : exec (.mulhu d a b) s = execMulhu d a b s := rfl
@[simp] theorem exec_div {d a b} {s : State} : exec (.div d a b) s = execDiv d a b s := rfl
@[simp] theorem exec_divu {d a b} {s : State} : exec (.divu d a b) s = execDivu d a b s := rfl
@[simp] theorem exec_rem {d a b} {s : State} : exec (.rem d a b) s = execRem d a b s := rfl
@[simp] theorem exec_remu {d a b} {s : State} : exec (.remu d a b) s = execRemu d a b s := rfl
@[simp] theorem exec_min {d a b} {s : State} : exec (.min d a b) s = execMin d a b s := rfl
@[simp] theorem exec_max {d a b} {s : State} : exec (.max d a b) s = execMax d a b s := rfl
@[simp] theorem exec_minu {d a b} {s : State} : exec (.minu d a b) s = execMinu d a b s := rfl
@[simp] theorem exec_maxu {d a b} {s : State} : exec (.maxu d a b) s = execMaxu d a b s := rfl
@[simp] theorem exec_slt {d a b} {s : State} : exec (.slt d a b) s = execSlt d a b s := rfl
@[simp] theorem exec_sltu {d a b} {s : State} : exec (.sltu d a b) s = execSltu d a b s := rfl
@[simp] theorem exec_seq {d a b} {s : State} : exec (.seq d a b) s = execSeq d a b s := rfl
@[simp] theorem exec_clz {d a} {s : State} : exec (.clz d a) s = execClz d a s := rfl
@[simp] theorem exec_ctz {d a} {s : State} : exec (.ctz d a) s = execCtz d a s := rfl
@[simp] theorem exec_popc {d a} {s : State} : exec (.popc d a) s = execPopc d a s := rfl
@[simp] theorem exec_bfx {d a b} {s : State} : exec (.bfx d a b) s = execBfx d a b s := rfl
@[simp] theorem exec_bfi {d a b} {s : State} : exec (.bfi d a b) s = execBfi d a b s := rfl
@[simp] theorem exec_addi {d a imm} {s : State} : exec (.addi d a imm) s = execAddi d a imm s := rfl
@[simp] theorem exec_andi {d a imm} {s : State} : exec (.andi d a imm) s = execAndi d a imm s := rfl
@[simp] theorem exec_ori {d a imm} {s : State} : exec (.ori d a imm) s = execOri d a imm s := rfl
@[simp] theorem exec_xori {d a imm} {s : State} : exec (.xori d a imm) s = execXori d a imm s := rfl
@[simp] theorem exec_slti {d a imm} {s : State} : exec (.slti d a imm) s = execSlti d a imm s := rfl
@[simp] theorem exec_sltiu {d a imm} {s : State} : exec (.sltiu d a imm) s = execSltiu d a imm s := rfl
@[simp] theorem exec_slli {d a n} {s : State} : exec (.slli d a n) s = execSlli d a n s := rfl
@[simp] theorem exec_srli {d a n} {s : State} : exec (.srli d a n) s = execSrli d a n s := rfl
@[simp] theorem exec_srai {d a n} {s : State} : exec (.srai d a n) s = execSrai d a n s := rfl
@[simp] theorem exec_roli {d a n} {s : State} : exec (.roli d a n) s = execRoli d a n s := rfl
@[simp] theorem exec_lui {d imm} {s : State} : exec (.lui d imm) s = execLui d imm s := rfl
@[simp] theorem exec_auipc {d imm} {s : State} : exec (.auipc d imm) s = execAuipc d imm s := rfl
@[simp] theorem exec_fadd {d a b} {s : State} : exec (.fadd d a b) s = execFadd d a b s := rfl
@[simp] theorem exec_fsub {d a b} {s : State} : exec (.fsub d a b) s = execFsub d a b s := rfl
@[simp] theorem exec_fmul {d a b} {s : State} : exec (.fmul d a b) s = execFmul d a b s := rfl
@[simp] theorem exec_fma {d a b} {s : State} : exec (.fma d a b) s = execFma d a b s := rfl
@[simp] theorem exec_fdiv {d a b} {s : State} : exec (.fdiv d a b) s = execFdiv d a b s := rfl
@[simp] theorem exec_fsqrt {d a} {s : State} : exec (.fsqrt d a) s = execFsqrt d a s := rfl
@[simp] theorem exec_fmin {d a b} {s : State} : exec (.fmin d a b) s = execFmin d a b s := rfl
@[simp] theorem exec_fmax {d a b} {s : State} : exec (.fmax d a b) s = execFmax d a b s := rfl
@[simp] theorem exec_feq {d a b} {s : State} : exec (.feq d a b) s = execFeq d a b s := rfl
@[simp] theorem exec_flt {d a b} {s : State} : exec (.flt d a b) s = execFlt d a b s := rfl
@[simp] theorem exec_fle {d a b} {s : State} : exec (.fle d a b) s = execFle d a b s := rfl
@[simp] theorem exec_fclass {d a} {s : State} : exec (.fclass d a) s = execFclass d a s := rfl
@[simp] theorem exec_fcvt {d a c} {s : State} : exec (.fcvt d a c) s = execFcvt d a c s := rfl
@[simp] theorem exec_beq {a b off} {s : State} : exec (.beq a b off) s = execBeq a b off s := rfl
@[simp] theorem exec_bne {a b off} {s : State} : exec (.bne a b off) s = execBne a b off s := rfl
@[simp] theorem exec_blt {a b off} {s : State} : exec (.blt a b off) s = execBlt a b off s := rfl
@[simp] theorem exec_bge {a b off} {s : State} : exec (.bge a b off) s = execBge a b off s := rfl
@[simp] theorem exec_bltu {a b off} {s : State} : exec (.bltu a b off) s = execBltu a b off s := rfl
@[simp] theorem exec_bgeu {a b off} {s : State} : exec (.bgeu a b off) s = execBgeu a b off s := rfl
@[simp] theorem exec_jal {d off} {s : State} : exec (.jal d off) s = execJal d off s := rfl
@[simp] theorem exec_jalr {d a imm} {s : State} : exec (.jalr d a imm) s = execJalr d a imm s := rfl
@[simp] theorem exec_loop {k a off} {s : State} : exec (.loop k a off) s = execLoop k a off s := rfl
@[simp] theorem exec_loopi {k n off} {s : State} : exec (.loopi k n off) s = execLoopi k n off s := rfl
@[simp] theorem exec_ld {d b w imm} {s : State} : exec (.ld d b w imm) s = execLd d b w imm s := rfl
@[simp] theorem exec_st {sr b w imm} {s : State} : exec (.st sr b w imm) s = execSt sr b w imm s := rfl
@[simp] theorem exec_lda {d a w sc} {s : State} : exec (.lda d a w sc) s = execLda d a w sc s := rfl
@[simp] theorem exec_stl {sr a w sc} {s : State} : exec (.stl sr a w sc) s = execStl sr a w sc s := rfl
@[simp] theorem exec_ldbit {d k w p} {s : State} : exec (.ldbit d k w p) s = execLdbit d k w p s := rfl
@[simp] theorem exec_stbit {sr k w p} {s : State} : exec (.stbit sr k w p) s = execStbit sr k w p s := rfl
@[simp] theorem exec_baset {k a b} {s : State} : exec (.baset k a b) s = execBaset k a b s := rfl
@[simp] theorem exec_aadd {d a b o} {s : State} : exec (.aadd d a b o) s = execAadd d a b o s := rfl
@[simp] theorem exec_amin {d a b o} {s : State} : exec (.amin d a b o) s = execAmin d a b o s := rfl
@[simp] theorem exec_amax {d a b o} {s : State} : exec (.amax d a b o) s = execAmax d a b o s := rfl
@[simp] theorem exec_aand {d a b o} {s : State} : exec (.aand d a b o) s = execAand d a b o s := rfl
@[simp] theorem exec_aor {d a b o} {s : State} : exec (.aor d a b o) s = execAor d a b o s := rfl
@[simp] theorem exec_axor {d a b o} {s : State} : exec (.axor d a b o) s = execAxor d a b o s := rfl
@[simp] theorem exec_aswp {d a b o} {s : State} : exec (.aswp d a b o) s = execAswp d a b o s := rfl
@[simp] theorem exec_acas {d a b o} {s : State} : exec (.acas d a b o) s = execAcas d a b o s := rfl
@[simp] theorem exec_abadd {d a b o} {s : State} : exec (.abadd d a b o) s = execAbadd d a b o s := rfl
@[simp] theorem exec_redadd {t a b o} {s : State} : exec (.redadd t a b o) s = execRedadd t a b o s := rfl
@[simp] theorem exec_redmin {t a b o} {s : State} : exec (.redmin t a b o) s = execRedmin t a b o s := rfl
@[simp] theorem exec_redmax {t a b o} {s : State} : exec (.redmax t a b o) s = execRedmax t a b o s := rfl
@[simp] theorem exec_fence {e sc k} {s : State} : exec (.fence e sc k) s = execFence e sc k s := rfl
@[simp] theorem exec_rwlr {d a} {s : State} : exec (.rwlr d a) s = execRwlr d a s := rfl
@[simp] theorem exec_rwlw {d a} {s : State} : exec (.rwlw d a) s = execRwlw d a s := rfl
@[simp] theorem exec_rwur {d a} {s : State} : exec (.rwur d a) s = execRwur d a s := rfl
@[simp] theorem exec_rwuw {d a} {s : State} : exec (.rwuw d a) s = execRwuw d a s := rfl
@[simp] theorem exec_sysr {d n} {s : State} : exec (.sysr d n) s = execSysr d n s := rfl
@[simp] theorem exec_sysw {sr n} {s : State} : exec (.sysw sr n) s = execSysw sr n s := rfl
@[simp] theorem exec_controlRegisterWrite {n v} {s : State} : exec (.controlRegisterWrite n v) s = execControlRegisterWrite n v s := rfl
@[simp] theorem exec_ecall {c} {s : State} : exec (.ecall c) s = execEcall c s := rfl
@[simp] theorem exec_eret {s : State} : exec (.eret) s = execEret s := rfl
@[simp] theorem exec_yield {s : State} : exec (.yield) s = execYield s := rfl
@[simp] theorem exec_halt {s : State} : exec (.halt) s = execHalt s := rfl
@[simp] theorem exec_brk {c} {s : State} : exec (.brk c) s = execBrk c s := rfl
@[simp] theorem exec_send {a b} {s : State} : exec (.send a b) s = execSend a b s := rfl
@[simp] theorem exec_sendm {a b f} {s : State} : exec (.sendm a b f) s = execSendm a b f s := rfl
@[simp] theorem exec_launch {a} {s : State} : exec (.launch a) s = execLaunch a s := rfl
@[simp] theorem exec_wait {d k b} {s : State} : exec (.wait d k b) s = execWait d k b s := rfl
@[simp] theorem exec_waitany {d a b} {s : State} : exec (.waitany d a b) s = execWaitany d a b s := rfl
@[simp] theorem exec_ctrset {k a b} {s : State} : exec (.ctrset k a b) s = execCtrset k a b s := rfl
@[simp] theorem exec_ctradd {k a} {s : State} : exec (.ctradd k a) s = execCtradd k a s := rfl
@[simp] theorem exec_copy {t a b f} {s : State} : exec (.copy t a b f) s = execCopy t a b f s := rfl
@[simp] theorem exec_copy2d {t a b f} {s : State} : exec (.copy2d t a b f) s = execCopy2d t a b f s := rfl
@[simp] theorem exec_gather {t a b f} {s : State} : exec (.gather t a b f) s = execGather t a b f s := rfl
@[simp] theorem exec_scatter {t a b} {s : State} : exec (.scatter t a b) s = execScatter t a b s := rfl
@[simp] theorem exec_rset {h a b} {s : State} : exec (.rset h a b) s = execRset h a b s := rfl
@[simp] theorem exec_radvp {h b} {s : State} : exec (.radvp h b) s = execRadvp h b s := rfl
@[simp] theorem exec_radvc {h b} {s : State} : exec (.radvc h b) s = execRadvc h b s := rfl
@[simp] theorem exec_rfill {d h b w} {s : State} : exec (.rfill d h b w) s = execRfill d h b w s := rfl
@[simp] theorem exec_lfull {a b} {s : State} : exec (.lfull a b) s = execLfull a b s := rfl
@[simp] theorem exec_lempty {a b} {s : State} : exec (.lempty a b) s = execLempty a b s := rfl
@[simp] theorem exec_ltest {d a} {s : State} : exec (.ltest d a) s = execLtest d a s := rfl
@[simp] theorem exec_vadd {d a b m t} {s : State} : exec (.vadd d a b m t) s = execVadd d a b m t s := rfl
@[simp] theorem exec_vsub {d a b m t} {s : State} : exec (.vsub d a b m t) s = execVsub d a b m t s := rfl
@[simp] theorem exec_vmul {d a b m t} {s : State} : exec (.vmul d a b m t) s = execVmul d a b m t s := rfl
@[simp] theorem exec_vfma {d a b m t} {s : State} : exec (.vfma d a b m t) s = execVfma d a b m t s := rfl
@[simp] theorem exec_vmin {d a b m t} {s : State} : exec (.vmin d a b m t) s = execVmin d a b m t s := rfl
@[simp] theorem exec_vmax {d a b m t} {s : State} : exec (.vmax d a b m t) s = execVmax d a b m t s := rfl
@[simp] theorem exec_vabs {d a m t} {s : State} : exec (.vabs d a m t) s = execVabs d a m t s := rfl
@[simp] theorem exec_vneg {d a m t} {s : State} : exec (.vneg d a m t) s = execVneg d a m t s := rfl
@[simp] theorem exec_vand {d a b m t} {s : State} : exec (.vand d a b m t) s = execVand d a b m t s := rfl
@[simp] theorem exec_vor {d a b m t} {s : State} : exec (.vor d a b m t) s = execVor d a b m t s := rfl
@[simp] theorem exec_vxor {d a b m t} {s : State} : exec (.vxor d a b m t) s = execVxor d a b m t s := rfl
@[simp] theorem exec_vnot {d a m t} {s : State} : exec (.vnot d a m t) s = execVnot d a m t s := rfl
@[simp] theorem exec_vsll {d a b m t} {s : State} : exec (.vsll d a b m t) s = execVsll d a b m t s := rfl
@[simp] theorem exec_vsrl {d a b m t} {s : State} : exec (.vsrl d a b m t) s = execVsrl d a b m t s := rfl
@[simp] theorem exec_vsra {d a b m t} {s : State} : exec (.vsra d a b m t) s = execVsra d a b m t s := rfl
@[simp] theorem exec_vpopc {d a m t} {s : State} : exec (.vpopc d a m t) s = execVpopc d a m t s := rfl
@[simp] theorem exec_vcmp {c a b p t} {s : State} : exec (.vcmp c a b p t) s = execVcmp c a b p t s := rfl
@[simp] theorem exec_vsel {d a b m t} {s : State} : exec (.vsel d a b m t) s = execVsel d a b m t s := rfl
@[simp] theorem exec_vclass {d a m t} {s : State} : exec (.vclass d a m t) s = execVclass d a m t s := rfl
@[simp] theorem exec_mand {d a b} {s : State} : exec (.mand d a b) s = execMand d a b s := rfl
@[simp] theorem exec_mor {d a b} {s : State} : exec (.mor d a b) s = execMor d a b s := rfl
@[simp] theorem exec_mnot {d a} {s : State} : exec (.mnot d a) s = execMnot d a s := rfl
@[simp] theorem exec_mcnt {x a t} {s : State} : exec (.mcnt x a t) s = execMcnt x a t s := rfl
@[simp] theorem exec_vcvt {d a p sty m t} {s : State} : exec (.vcvt d a p sty m t) s = execVcvt d a p sty m t s := rfl
@[simp] theorem exec_vrsum {d a m t} {s : State} : exec (.vrsum d a m t) s = execVrsum d a m t s := rfl
@[simp] theorem exec_vrmax {d a m t} {s : State} : exec (.vrmax d a m t) s = execVrmax d a m t s := rfl
@[simp] theorem exec_vrmin {d a m t} {s : State} : exec (.vrmin d a m t) s = execVrmin d a m t s := rfl
@[simp] theorem exec_vscan {d a m t} {s : State} : exec (.vscan d a m t) s = execVscan d a m t s := rfl
@[simp] theorem exec_vperm {d a b m t} {s : State} : exec (.vperm d a b m t) s = execVperm d a b m t s := rfl
@[simp] theorem exec_vbcast {d x m t} {s : State} : exec (.vbcast d x m t) s = execVbcast d x m t s := rfl
@[simp] theorem exec_vext {x a l g t} {s : State} : exec (.vext x a l g t) s = execVext x a l g t s := rfl
@[simp] theorem exec_viota {d p t} {s : State} : exec (.viota d p t) s = execViota d p t s := rfl
@[simp] theorem exec_vtopk {d a k m t} {s : State} : exec (.vtopk d a k m t) s = execVtopk d a k m t s := rfl
@[simp] theorem exec_vexp2 {d a m t} {s : State} : exec (.vexp2 d a m t) s = execVexp2 d a m t s := rfl
@[simp] theorem exec_vrcp {d a m t} {s : State} : exec (.vrcp d a m t) s = execVrcp d a m t s := rfl
@[simp] theorem exec_vrsq {d a m t} {s : State} : exec (.vrsq d a m t) s = execVrsq d a m t s := rfl
@[simp] theorem exec_vlog2 {d a m t} {s : State} : exec (.vlog2 d a m t) s = execVlog2 d a m t s := rfl
@[simp] theorem exec_vld {d x f o m t} {s : State} : exec (.vld d x f o m t) s = execVld d x f o m t s := rfl
@[simp] theorem exec_vst {sr x f o m t} {s : State} : exec (.vst sr x f o m t) s = execVst sr x f o m t s := rfl
@[simp] theorem exec_vldx {d x ix m t} {s : State} : exec (.vldx d x ix m t) s = execVldx d x ix m t s := rfl
@[simp] theorem exec_vstx {sr x ix m t} {s : State} : exec (.vstx sr x ix m t) s = execVstx sr x ix m t s := rfl
@[simp] theorem exec_vldbit {d p k w m t} {s : State} : exec (.vldbit d p k w m t) s = execVldbit d p k w m t s := rfl
@[simp] theorem exec_vstbit {sr p k w m t} {s : State} : exec (.vstbit sr p k w m t) s = execVstbit sr p k w m t s := rfl
@[simp] theorem exec_vaadd {d x ix m t} {s : State} : exec (.vaadd d x ix m t) s = execVaadd d x ix m t s := rfl
@[simp] theorem exec_vaor {d x ix m t} {s : State} : exec (.vaor d x ix m t) s = execVaor d x ix m t s := rfl
@[simp] theorem exec_vamax {d x ix m t} {s : State} : exec (.vamax d x ix m t) s = execVamax d x ix m t s := rfl
@[simp] theorem exec_vredadd {sr x o m t} {s : State} : exec (.vredadd sr x o m t) s = execVredadd sr x o m t s := rfl
@[simp] theorem exec_mldw {a w n} {s : State} : exec (.mldw a w n) s = execMldw a w n s := rfl
@[simp] theorem exec_mm {t a w k f} {s : State} : exec (.mm t a w k f) s = execMm t a w k f s := rfl
@[simp] theorem exec_mms {t a w k f n} {s : State} : exec (.mms t a w k f n) s = execMms t a w k f n s := rfl
@[simp] theorem exec_mmg {t a w k f v} {s : State} : exec (.mmg t a w k f v) s = execMmg t a w k f v s := rfl
@[simp] theorem exec_mzero {d} {s : State} : exec (.mzero d) s = execMzero d s := rfl
@[simp] theorem exec_mld {d a b f} {s : State} : exec (.mld d a b f) s = execMld d a b f s := rfl
@[simp] theorem exec_mst {sr v a b f g} {s : State} : exec (.mst sr v a b f g) s = execMst sr v a b f g s := rfl
@[simp] theorem exec_mmov {d a} {s : State} : exec (.mmov d a) s = execMmov d a s := rfl
@[simp] theorem exec_madd {d a b ix} {s : State} : exec (.madd d a b ix) s = execMadd d a b ix s := rfl
@[simp] theorem exec_mscale {d a x y} {s : State} : exec (.mscale d a x y) s = execMscale d a x y s := rfl
@[simp] theorem exec_mcb {a} {s : State} : exec (.mcb a) s = execMcb a s := rfl
@[simp] theorem exec_mxpose {d a b h} {s : State} : exec (.mxpose d a b h) s = execMxpose d a b h s := rfl
@[simp] theorem exec_bts {a m sr off} {s : State} : exec (.bts a m sr off) s = execBts a m sr off s := rfl
@[simp] theorem exec_gang {d a} {s : State} : exec (.gang d a) s = execGang d a s := rfl
@[simp] theorem exec_gjoin {d a} {s : State} : exec (.gjoin d a) s = execGjoin d a s := rfl
@[simp] theorem exec_gleave {a} {s : State} : exec (.gleave a) s = execGleave a s := rfl
@[simp] theorem exec_grejoin {d a} {s : State} : exec (.grejoin d a) s = execGrejoin d a s := rfl
@[simp] theorem exec_xptab {a} {s : State} : exec (.xptab a) s = execXptab a s := rfl
@[simp] theorem exec_xpose {t a b f} {s : State} : exec (.xpose t a b f) s = execXpose t a b f s := rfl
@[simp] theorem exec_hreg {d a b} {s : State} : exec (.hreg d a b) s = execHreg d a b s := rfl
@[simp] theorem exec_hdrop {a} {s : State} : exec (.hdrop a) s = execHdrop a s := rfl
@[simp] theorem exec_harr {d a} {s : State} : exec (.harr d a) s = execHarr d a s := rfl
@[simp] theorem exec_hwait {d a b} {s : State} : exec (.hwait d a b) s = execHwait d a b s := rfl
@[simp] theorem exec_hsync {d a} {s : State} : exec (.hsync d a) s = execHsync d a s := rfl
@[simp] theorem exec_hdarr {d a} {s : State} : exec (.hdarr d a) s = execHdarr d a s := rfl
@[simp] theorem exec_xtab {a b} {s : State} : exec (.xtab a b) s = execXtab a b s := rfl
@[simp] theorem exec_xsend {a} {s : State} : exec (.xsend a) s = execXsend a s := rfl
@[simp] theorem exec_sstep {d a e} {s : State} : exec (.sstep d a e) s = execSstep d a e s := rfl
@[simp] theorem exec_stdecl {d a} {s : State} : exec (.stdecl d a) s = execStdecl d a s := rfl
@[simp] theorem exec_stdeclFree {a} {s : State} : exec (.stdeclFree a) s = execStdeclFree a s := rfl
@[simp] theorem exec_tspawn {d a} {s : State} : exec (.tspawn d a) s = execTspawn d a s := rfl
@[simp] theorem exec_tret {s : State} : exec (.tret) s = execTret s := rfl
@[simp] theorem exec_tabort {s : State} : exec (.tabort) s = execTabort s := rfl
@[simp] theorem exec_dmode {d m} {s : State} : exec (.dmode d m) s = execDmode d m s := rfl
@[simp] theorem exec_dregset {j a b} {s : State} : exec (.dregset j a b) s = execDregset j a b s := rfl
@[simp] theorem exec_ldadj {d a} {s : State} : exec (.ldadj d a) s = execLdadj d a s := rfl
@[simp] theorem exec_stadj {sr a} {s : State} : exec (.stadj sr a) s = execStadj sr a s := rfl
@[simp] theorem exec_accadj {sr a o} {s : State} : exec (.accadj sr a o) s = execAccadj sr a o s := rfl
@[simp] theorem exec_updt {t a} {s : State} : exec (.updt t a) s = execUpdt t a s := rfl
@[simp] theorem exec_fmt {t a} {s : State} : exec (.fmt t a) s = execFmt t a s := rfl
@[simp] theorem exec_rkload {t a b} {s : State} : exec (.rkload t a b) s = execRkload t a b s := rfl
@[simp] theorem exec_rkrun {t a} {s : State} : exec (.rkrun t a) s = execRkrun t a s := rfl
@[simp] theorem exec_rkstat {d a c} {s : State} : exec (.rkstat d a c) s = execRkstat d a c s := rfl
@[simp] theorem exec_smode {t a} {s : State} : exec (.smode t a) s = execSmode t a s := rfl
@[simp] theorem exec_sHalt {s : State} : exec (.sHalt) s = execSHalt s := rfl
@[simp] theorem exec_sSend {a d k l} {s : State} : exec (.sSend a d k l) s = execSSend a d k l s := rfl
@[simp] theorem exec_sRecv {a d k l} {s : State} : exec (.sRecv a d k l) s = execSRecv a d k l s := rfl
@[simp] theorem exec_sRrs {a d k t f l} {s : State} : exec (.sRrs a d k t f l) s = execSRrs a d k t f l s := rfl
@[simp] theorem exec_sRred {a d k t f l} {s : State} : exec (.sRred a d k t f l) s = execSRred a d k t f l s := rfl
@[simp] theorem exec_sCopy {a sr l} {s : State} : exec (.sCopy a sr l) s = execSCopy a sr l s := rfl
@[simp] theorem exec_sWaitPeer {d k} {s : State} : exec (.sWaitPeer d k) s = execSWaitPeer d k s := rfl
@[simp] theorem exec_sWaitCounter {n t} {s : State} : exec (.sWaitCounter n t) s = execSWaitCounter n t s := rfl
@[simp] theorem exec_sLoop {v e c} {s : State} : exec (.sLoop v e c) s = execSLoop v e c s := rfl
@[simp] theorem exec_sEndl {v} {s : State} : exec (.sEndl v) s = execSEndl v s := rfl
@[simp] theorem exec_sSeta {a ix} {s : State} : exec (.sSeta a ix) s = execSSeta a ix s := rfl
@[simp] theorem exec_sAdda {a ix} {s : State} : exec (.sAdda a ix) s = execSAdda a ix s := rfl
@[simp] theorem exec_sBop {g d x y z r} {s : State} : exec (.sBop g d x y z r) s = execSBop g d x y z r s := rfl
@[simp] theorem exec_sBsadd {d x y w} {s : State} : exec (.sBsadd d x y w) s = execSBsadd d x y w s := rfl
@[simp] theorem exec_sBssub {d x y w} {s : State} : exec (.sBssub d x y w) s = execSBssub d x y w s := rfl
@[simp] theorem exec_sBsmul {d x y w} {s : State} : exec (.sBsmul d x y w) s = execSBsmul d x y w s := rfl
@[simp] theorem exec_sMcast {a l} {s : State} : exec (.sMcast a l) s = execSMcast a l s := rfl
@[simp] theorem exec_sSignal {c n} {s : State} : exec (.sSignal c n) s = execSSignal c n s := rfl
@[simp] theorem exec_coll {t a} {s : State} : exec (.coll t a) s = execColl t a s := rfl
@[simp] theorem exec_dombar {d a} {s : State} : exec (.dombar d a) s = execDombar d a s := rfl
@[simp] theorem exec_fstat {d a} {s : State} : exec (.fstat d a) s = execFstat d a s := rfl
@[simp] theorem exec_hintImm {p} {s : State} : exec (.hintImm p) s = execHintImm p s := rfl
@[simp] theorem exec_hintSched {b r} {s : State} : exec (.hintSched b r) s = execHintSched b r s := rfl
@[simp] theorem exec_hintMod {m sr p c} {s : State} : exec (.hintMod m sr p c) s = execHintMod m sr p c s := rfl
@[simp] theorem exec_illegalInstruction {w reserved} {s : State} : exec (.illegalInstruction w reserved) s = execIllegalInstruction w reserved s := rfl
@[simp] theorem exec_lockRepresentation {s : State} : exec (.lockRepresentation) s = execLockRepresentation s := rfl
@[simp] theorem exec_hardwareDump {s : State} : exec (.hardwareDump) s = execHardwareDump s := rfl
@[simp] theorem exec_messageArrival {s : State} : exec (.messageArrival) s = execMessageArrival s := rfl
@[simp] theorem exec_launchArrival {s : State} : exec (.launchArrival) s = execLaunchArrival s := rfl
@[simp] theorem exec_launchQueueStart {s : State} : exec (.launchQueueStart) s = execLaunchQueueStart s := rfl
@[simp] theorem exec_rxwatchExpiry {s : State} : exec (.rxwatchExpiry) s = execRxwatchExpiry s := rfl
@[simp] theorem exec_probe {s : State} : exec (.probe) s = execProbe s := rfl
@[simp] theorem exec_verdict {s : State} : exec (.verdict) s = execVerdict s := rfl
@[simp] theorem exec_swapCountdownExpiry {s : State} : exec (.swapCountdownExpiry) s = execSwapCountdownExpiry s := rfl
@[simp] theorem exec_spill {s : State} : exec (.spill) s = execSpill s := rfl
@[simp] theorem exec_fill {s : State} : exec (.fill) s = execFill s := rfl
@[simp] theorem exec_fillComplete {s : State} : exec (.fillComplete) s = execFillComplete s := rfl
@[simp] theorem exec_copyComplete {s : State} : exec (.copyComplete) s = execCopyComplete s := rfl
@[simp] theorem exec_channelWordArrival {s : State} : exec (.channelWordArrival) s = execChannelWordArrival s := rfl
@[simp] theorem exec_transposeExchange {s : State} : exec (.transposeExchange) s = execTransposeExchange s := rfl
@[simp] theorem exec_transposeExchangeComplete {s : State} : exec (.transposeExchangeComplete) s = execTransposeExchangeComplete s := rfl
@[simp] theorem exec_huddleRelease {s : State} : exec (.huddleRelease) s = execHuddleRelease s := rfl
@[simp] theorem exec_xsendArrival {s : State} : exec (.xsendArrival) s = execXsendArrival s := rfl
@[simp] theorem exec_taskCommit {s : State} : exec (.taskCommit) s = execTaskCommit s := rfl
@[simp] theorem exec_taskPlacement {s : State} : exec (.taskPlacement) s = execTaskPlacement s := rfl
@[simp] theorem exec_coreAssignment {s : State} : exec (.coreAssignment) s = execCoreAssignment s := rfl
@[simp] theorem exec_expertFillComplete {s : State} : exec (.expertFillComplete) s = execExpertFillComplete s := rfl
@[simp] theorem exec_streamSliceArrival {s : State} : exec (.streamSliceArrival) s = execStreamSliceArrival s := rfl
@[simp] theorem exec_expertDrained {s : State} : exec (.expertDrained) s = execExpertDrained s := rfl
@[simp] theorem exec_evict {s : State} : exec (.evict) s = execEvict s := rfl
@[simp] theorem exec_trel {s : State} : exec (.trel) s = execTrel s := rfl
@[simp] theorem exec_stat {s : State} : exec (.stat) s = execStat s := rfl
@[simp] theorem exec_rcfg {s : State} : exec (.rcfg) s = execRcfg s := rfl
@[simp] theorem exec_route {s : State} : exec (.route) s = execRoute s := rfl
@[simp] theorem exec_flush {s : State} : exec (.flush) s = execFlush s := rfl
@[simp] theorem exec_rrel {s : State} : exec (.rrel) s = execRrel s := rfl
@[simp] theorem exec_rfault {s : State} : exec (.rfault) s = execRfault s := rfl
@[simp] theorem exec_routingRelease {s : State} : exec (.routingRelease) s = execRoutingRelease s := rfl
@[simp] theorem exec_updtComplete {s : State} : exec (.updtComplete) s = execUpdtComplete s := rfl
@[simp] theorem exec_fmtComplete {s : State} : exec (.fmtComplete) s = execFmtComplete s := rfl
@[simp] theorem exec_rkloadComplete {s : State} : exec (.rkloadComplete) s = execRkloadComplete s := rfl
@[simp] theorem exec_rankProgramComplete {s : State} : exec (.rankProgramComplete) s = execRankProgramComplete s := rfl
@[simp] theorem exec_modeSwitchComplete {s : State} : exec (.modeSwitchComplete) s = execModeSwitchComplete s := rfl
@[simp] theorem exec_switchDeadline {s : State} : exec (.switchDeadline) s = execSwitchDeadline s := rfl
@[simp] theorem exec_actcfg {s : State} : exec (.actcfg) s = execActcfg s := rfl
@[simp] theorem exec_scadd {s : State} : exec (.scadd) s = execScadd s := rfl
@[simp] theorem exec_activationAlert {s : State} : exec (.activationAlert) s = execActivationAlert s := rfl
@[simp] theorem exec_alertWindowStart {s : State} : exec (.alertWindowStart) s = execAlertWindowStart s := rfl
@[simp] theorem exec_stepBoundary {s : State} : exec (.stepBoundary) s = execStepBoundary s := rfl
@[simp] theorem exec_peerTimeout {s : State} : exec (.peerTimeout) s = execPeerTimeout s := rfl
@[simp] theorem exec_collComplete {s : State} : exec (.collComplete) s = execCollComplete s := rfl
@[simp] theorem exec_rsend {s : State} : exec (.rsend) s = execRsend s := rfl
@[simp] theorem exec_rlaunch {s : State} : exec (.rlaunch) s = execRlaunch s := rfl
@[simp] theorem exec_rwin {s : State} : exec (.rwin) s = execRwin s := rfl
@[simp] theorem exec_dkgrant {s : State} : exec (.dkgrant) s = execDkgrant s := rfl
@[simp] theorem exec_readRequest {s : State} : exec (.readRequest) s = execReadRequest s := rfl
@[simp] theorem exec_readResponse {s : State} : exec (.readResponse) s = execReadResponse s := rfl
@[simp] theorem exec_write {s : State} : exec (.write) s = execWrite s := rfl
@[simp] theorem exec_writeAcknowledgement {s : State} : exec (.writeAcknowledgement) s = execWriteAcknowledgement s := rfl
@[simp] theorem exec_atomic {s : State} : exec (.atomic) s = execAtomic s := rfl
@[simp] theorem exec_atomicResponse {s : State} : exec (.atomicResponse) s = execAtomicResponse s := rfl
@[simp] theorem exec_reduction {s : State} : exec (.reduction) s = execReduction s := rfl
@[simp] theorem exec_message {s : State} : exec (.message) s = execMessage s := rfl
@[simp] theorem exec_launchPacket {s : State} : exec (.launchPacket) s = execLaunchPacket s := rfl
@[simp] theorem exec_collectiveFragment {s : State} : exec (.collectiveFragment) s = execCollectiveFragment s := rfl
@[simp] theorem exec_collectiveControl {s : State} : exec (.collectiveControl) s = execCollectiveControl s := rfl
@[simp] theorem exec_failureResponse {s : State} : exec (.failureResponse) s = execFailureResponse s := rfl
@[simp] theorem exec_hostRequest {s : State} : exec (.hostRequest) s = execHostRequest s := rfl
@[simp] theorem exec_spdm {s : State} : exec (.spdm) s = execSpdm s := rfl
@[simp] theorem exec_fabricTimeout {s : State} : exec (.fabricTimeout) s = execFabricTimeout s := rfl
@[simp] theorem exec_membershipChange {s : State} : exec (.membershipChange) s = execMembershipChange s := rfl
@[simp] theorem exec_generationAnnounce {s : State} : exec (.generationAnnounce) s = execGenerationAnnounce s := rfl
@[simp] theorem exec_domainDeadline {s : State} : exec (.domainDeadline) s = execDomainDeadline s := rfl
@[simp] theorem exec_xinv {s : State} : exec (.xinv) s = execXinv s := rfl
@[simp] theorem exec_invalidationComplete {s : State} : exec (.invalidationComplete) s = execInvalidationComplete s := rfl
@[simp] theorem exec_powerStateEntry {s : State} : exec (.powerStateEntry) s = execPowerStateEntry s := rfl
@[simp] theorem exec_wake {s : State} : exec (.wake) s = execWake s := rfl
@[simp] theorem exec_packageReset {s : State} : exec (.packageReset) s = execPackageReset s := rfl
@[simp] theorem exec_invalidStep {s : State} : exec (.invalidStep) s = execInvalidStep s := rfl
@[simp] theorem exec_spillComplete {s : State} : exec (.spillComplete) s = execSpillComplete s := rfl
@[simp] theorem exec_rwinComplete {s : State} : exec (.rwinComplete) s = execRwinComplete s := rfl
@[simp] theorem exec_dumpKeyRelease {s : State} : exec (.dumpKeyRelease) s = execDumpKeyRelease s := rfl

end Sys2Proof.Laws
end

