-- ==== Sys2Proof/Laws/Memory.lean ====
section
/-! SUPPORT. Memory: a read after a write, and the canonical form that every write keeps. -/

namespace Sys2Proof.Laws

open Sys2Proof.Machine

/-! ## One byte -/

theorem read_write_other (m : Memory) {a b : Nat} (h : b ≠ a) (v : Byte) : (m.write a v).read b = m.read b := by
  induction m with
  | nil => simp only [Memory.write]; split <;> simp [Memory.read, h.symm]
  | cons c r ih =>
    obtain ⟨k, w⟩ := c
    simp only [Memory.write]
    split
    · split <;> simp [Memory.read, h.symm]
    · split
      · subst a; split <;> simp [Memory.read, h.symm]
      · simp [Memory.read, ih]

/-- In the canonical form, nothing stands below the first cell. -/
theorem read_below {k : Nat} {w : Byte} {r : Memory} (h : Memory.wf ((k, w) :: r) = true) : ∀ b, b ≤ k → Memory.read r b = unwritten := by
  induction r generalizing k w with
  | nil => intro _ _; rfl
  | cons d r ih =>
    obtain ⟨k2, w2⟩ := d
    intro b hb
    simp only [Memory.wf, Bool.and_eq_true, decide_eq_true_eq] at h
    simp only [Memory.read]
    rw [if_neg (by omega)]
    exact ih h.2 b (by omega)

theorem wf_tail {k : Nat} {w : Byte} {r : Memory} (h : Memory.wf ((k, w) :: r) = true) : r.wf = true := by
  cases r with
  | nil => rfl
  | cons d r => obtain ⟨k2, w2⟩ := d; simp only [Memory.wf, Bool.and_eq_true] at h; exact h.2

theorem wf_head {k : Nat} {w : Byte} {r : Memory} (h : Memory.wf ((k, w) :: r) = true) : w ≠ unwritten := by
  cases r with
  | nil => simpa [Memory.wf] using h
  | cons d r => obtain ⟨k2, w2⟩ := d; simp only [Memory.wf, Bool.and_eq_true, bne_iff_ne] at h; exact h.1.1

theorem read_write_same {m : Memory} (hm : m.wf = true) (a : Nat) (v : Byte) : (m.write a v).read a = v := by
  induction m with
  | nil => simp only [Memory.write]; split <;> simp_all [Memory.read]
  | cons c r ih =>
    obtain ⟨k, w⟩ := c
    simp only [Memory.write]
    split
    · split
      · next hv => rw [hv]; simp only [Memory.read]; rw [if_neg (by omega)]; exact read_below hm a (by omega)
      · simp [Memory.read]
    · split
      · next hk => split
                   · next hv => rw [hv]; exact read_below hm a (by omega)
                   · simp [Memory.read]
      · next hk => simp only [Memory.read]; rw [if_neg (Ne.symm hk)]; exact ih (wf_tail hm)

/-- Is every cell of a list above k? -/
theorem wf_cons {k : Nat} {w : Byte} {r : Memory} :
    Memory.wf ((k, w) :: r) = true ↔ w ≠ unwritten ∧ r.wf = true ∧ ∀ d ∈ r.head?, k < d.1 := by
  cases r with
  | nil => simp [Memory.wf]
  | cons d r =>
    obtain ⟨k2, w2⟩ := d
    simp only [Memory.wf, Bool.and_eq_true, decide_eq_true_eq, bne_iff_ne, List.head?_cons, Option.mem_some_iff, forall_eq']
    exact ⟨fun h => ⟨h.1.1, h.2, h.1.2⟩, fun h => ⟨⟨h.1, h.2.2⟩, h.2.1⟩⟩

theorem head_write {m : Memory} {k a : Nat} {v : Byte} (ha : k < a) (hm : ∀ d ∈ m.head?, k < d.1) (hs : m.wf = true) :
    ∀ d ∈ (m.write a v).head?, k < d.1 := by
  cases m with
  | nil => simp only [Memory.write]; split <;> simp [ha]
  | cons c r =>
    obtain ⟨j, w⟩ := c
    have hj : k < j := hm (j, w) rfl
    simp only [Memory.write]
    split
    · split
      · exact hm
      · simp [ha]
    · split
      · split
        · intro d hd
          cases r with
          | nil => simp at hd
          | cons e r =>
            obtain ⟨i, u⟩ := e
            simp only [Memory.wf, Bool.and_eq_true, decide_eq_true_eq] at hs
            simp only [List.head?_cons, Option.mem_some_iff] at hd
            subst hd; show k < i; omega
        · simp [ha]
      · simpa using hj

/-- A write keeps the canonical form. -/
theorem wf_write {m : Memory} (hm : m.wf = true) (a : Nat) (v : Byte) : (m.write a v).wf = true := by
  induction m with
  | nil => simp only [Memory.write]; split <;> simp_all [Memory.wf]
  | cons c r ih =>
    obtain ⟨k, w⟩ := c
    have ht := wf_tail hm
    have hw := wf_head hm
    simp only [Memory.write]
    split
    · split
      · exact hm
      · next hv => rw [wf_cons]; exact ⟨hv, hm, by simp; omega⟩
    · split
      · next hk => split
                   · exact ht
                   · next hv => rw [wf_cons] at hm ⊢; exact ⟨hv, ht, by rw [hk]; exact hm.2.2⟩
      · rw [wf_cons] at hm ⊢
        exact ⟨hw, ih ht, head_write (by omega) hm.2.2 ht⟩

theorem wf_writeBytes {m : Memory} (hm : m.wf = true) (a : Nat) (bs : List Byte) : (m.writeBytes a bs).wf = true := by
  induction bs generalizing m a with
  | nil => exact hm
  | cons b r ih => exact ih (wf_write hm a b) (a + 1)

/-! ## Bytes at rest in the state -/

/-- What putMem leaves: memory alone changes. -/
theorem putMem_frame (s : State) (a : Nat) (bs : List Byte) : ∃ m, s.putMem a bs = { s with mem := m } := by
  induction bs generalizing s a with
  | nil => exact ⟨s.mem, rfl⟩
  | cons b r ih =>
    obtain ⟨m, h⟩ := ih { s with mem := s.mem.write a (b ^^^ s.scramble a) } (a + 1)
    exact ⟨m, h⟩

theorem scramble_mem (s : State) (m : Memory) (a : Nat) : ({ s with mem := m } : State).scramble a = s.scramble a := rfl

theorem byte_putMem_other (s : State) {a q : Nat} {bs : List Byte} (h : q < a ∨ a + bs.length ≤ q) : (s.putMem a bs).byte q = s.byte q := by
  induction bs generalizing s a with
  | nil => rfl
  | cons b r ih =>
    simp only [List.length_cons] at h
    show (({ s with mem := s.mem.write a (b ^^^ s.scramble a) } : State).putMem (a + 1) r).byte q = _
    rw [ih _ (by omega)]
    show (s.mem.write a _).read q ^^^ _ = _
    rw [read_write_other _ (by omega)]
    rfl

theorem byte_putMem_same {s : State} (hs : s.Inv) {a : Nat} {bs : List Byte} {i : Nat} (h : i < bs.length) :
    (s.putMem a bs).byte (a + i) = bs[i] := by
  induction bs generalizing s a i with
  | nil => simp at h
  | cons b r ih =>
    have hs' : ({ s with mem := s.mem.write a (b ^^^ s.scramble a) } : State).Inv := wf_write hs _ _
    show (({ s with mem := s.mem.write a (b ^^^ s.scramble a) } : State).putMem (a + 1) r).byte (a + i) = _
    cases i with
    | zero =>
      rw [byte_putMem_other _ (Or.inl (by omega))]
      show (s.mem.write a _).read a ^^^ s.scramble a = b
      rw [read_write_same hs, BitVec.xor_assoc, BitVec.xor_self, BitVec.xor_zero]
    | succ i =>
      have := ih hs' (a := a + 1) (i := i) (by simpa using h)
      rw [show a + (i + 1) = a + 1 + i by omega, this]
      rfl

theorem inv_putMem {s : State} (h : s.Inv) (a : Nat) (bs : List Byte) : (s.putMem a bs).Inv := by
  induction bs generalizing s a with
  | nil => exact h
  | cons b r ih => exact ih (s := { s with mem := s.mem.write a (b ^^^ s.scramble a) }) (wf_write h _ _) (a + 1)

/-- What poke leaves: memory and the granules that fail. -/
theorem poke_frame (s : State) (a : Nat) (bs : List Byte) : ∃ m b, s.poke a bs = { s with mem := m, bad := b } := by
  obtain ⟨m, h⟩ := putMem_frame (s.mend a bs.length) a bs
  exact ⟨m, (s.mend a bs.length).bad, h⟩

theorem byte_poke_other (s : State) {a q : Nat} {bs : List Byte} (h : q < a ∨ a + bs.length ≤ q) : (s.poke a bs).byte q = s.byte q :=
  byte_putMem_other (s.mend a bs.length) h

theorem byte_poke_same {s : State} (hs : s.Inv) {a : Nat} {bs : List Byte} {i : Nat} (h : i < bs.length) :
    (s.poke a bs).byte (a + i) = bs[i] := byte_putMem_same (s := s.mend a bs.length) hs h

theorem inv_poke {s : State} (h : s.Inv) (a : Nat) (bs : List Byte) : (s.poke a bs).Inv := inv_putMem (s := s.mend a bs.length) h a bs

/-- The invariant is memory's alone. -/
theorem inv_of_mem {s t : State} (h : t.mem = s.mem) (hs : s.Inv) : t.Inv := by unfold State.Inv; rw [h]; exact hs

end Sys2Proof.Laws
end

