-- ==== Sys2Proof/Laws/Run.lean ====
section
/-! SUPPORT. How a unit runs: the programs of `M` step by step, a unit that leads no gang, and what its run ends in. -/

namespace Sys2Proof.Laws

open Sys2Proof.Machine

/-! ## The programs of M -/

theorem bind_def {α β : Type} (m : M α) (f : α → M β) (s : State) :
    (m >>= f) s = match m s with
      | .ok (a, t) => f a t
      | .error e => .error e := by
  show (StateT.bind m f) s = _
  simp only [StateT.bind, bind, Except.bind]
  cases m s <;> rfl

theorem bind_ok {α β : Type} {m : M α} {f : α → M β} {s t : State} {a : α} (h : m s = .ok (a, t)) :
    (m >>= f) s = f a t := by rw [bind_def, h]

theorem bind_error {α β : Type} {m : M α} {f : α → M β} {s : State} {e : Stop} (h : m s = .error e) :
    (m >>= f) s = .error e := by rw [bind_def, h]

/-- A program that ends well ran its first part well. -/
theorem bind_ok_iff {α β : Type} {m : M α} {f : α → M β} {s u : State} {b : β} :
    (m >>= f) s = .ok (b, u) ↔ ∃ a t, m s = .ok (a, t) ∧ f a t = .ok (b, u) := by
  rw [bind_def]
  cases h : m s with
  | error e => simp
  | ok p => obtain ⟨a, t⟩ := p; exact ⟨fun k => ⟨a, t, rfl, k⟩, fun ⟨_, _, e, k⟩ => by cases e; exact k⟩

@[simp] theorem pure_apply {α : Type} (a : α) (s : State) : (pure a : M α) s = .ok (a, s) := rfl
@[simp] theorem next_apply (s : State) : next s = .ok ({}, s) := rfl
@[simp] theorem jump_apply (t : Word) (s : State) : jump t s = .ok ({ target := some t, branch := true }, s) := rfl
@[simp] theorem ctx_apply (s : State) : ctx s = .ok (s.ctx, s) := rfl
@[simp] theorem get_apply (s : State) : (get : M State) s = .ok (s, s) := rfl
@[simp] theorem set_apply (s t : State) : (set t : M PUnit) s = .ok (⟨⟩, t) := rfl
@[simp] theorem modify_apply (f : State → State) (s : State) : (modify f : M PUnit) s = .ok (⟨⟩, f s) := rfl
@[simp] theorem modCtx_apply (f : Ctx → Ctx) (s : State) : modCtx f s = .ok ((), s.mapCtx f) := rfl
@[simp] theorem modCore_apply (f : Core → Core) (s : State) : modCore f s = .ok ((), s.mapFocus f) := rfl
@[simp] theorem trap_apply {α : Type} (c : BitVec 8) (v : Word) (s : State) :
    (trap c v : M α) s = .error (.trap c v s.ctx.pops none) := rfl
@[simp] theorem wait_apply {α : Type} (f : State → State) (s : State) : (wait f : M α) s = .error (.wait f) := rfl

theorem guardTrap_true {ok : Bool} (h : ok = true) (c : BitVec 8) (v : Word) (s : State) :
    guardTrap ok c v s = .ok ((), s) := by simp [guardTrap, h]
theorem guardTrap_false {ok : Bool} (h : ok = false) (c : BitVec 8) (v : Word) (s : State) :
    guardTrap ok c v s = .error (.trap c v s.ctx.pops none) := by simp [guardTrap, h]

/-! ## Units -/

theorem unit_solo {s : State} (h : Solo s) (m : M Flow) : unit m s = (memberRun m s).1 := by
  unfold unit; rw [show (s.ctx.gang.gang && s.ctx.gang.lead) = false from h]; rfl

theorem unitWith_solo {β : Type} {s : State} (h : Solo s) (rd : M β) (eff : β → M Flow) :
    unitWith rd eff s = (memberRun (rd >>= eff) s).1 := by
  unfold unitWith; rw [show (s.ctx.gang.gang && s.ctx.gang.lead) = false from h]; rfl

/-- A unit whose program ends well retires. -/
theorem unit_ok {s s1 : State} {m : M Flow} {fl : Flow} (h : Solo s) (hm : m s = .ok (fl, s1)) :
    unit m s = .next (retire s s1 fl) := by
  rw [unit_solo h]; simp only [memberRun, hm]

theorem unitWith_ok {β : Type} {s s1 : State} {rd : M β} {eff : β → M Flow} {fl : Flow} (h : Solo s)
    (hm : (rd >>= eff) s = .ok (fl, s1)) : unitWith rd eff s = .next (retire s s1 fl) := by
  rw [unitWith_solo h]; simp only [memberRun, hm]

/-- A unit that traps takes its trap from the state it found, or from what survives. -/
theorem unit_trap {s : State} {m : M Flow} {c : BitVec 8} {v : Word} {ps : List Pop} {keep : Option State} (h : Solo s)
    (hm : m s = .error (.trap c v ps keep)) : unit m s = .next ((trapBase s ps keep).takeTrap c v) := by
  rw [unit_solo h]; simp only [memberRun, hm]

/-- A unit that waits leaves what its wait leaves. -/
theorem unit_wait {s : State} {m : M Flow} {f : State → State} (h : Solo s) (hm : m s = .error (.wait f)) :
    unit m s = .next (f s) := by
  rw [unit_solo h]; simp only [memberRun, hm]

end Sys2Proof.Laws
end

