-- ==== Sys2Proof/Laws/State.lean ====
section
/-! SUPPORT. The fields of the state after each named update: one lemma a field, each true by unfolding the update. -/

namespace Sys2Proof.Laws

open Sys2Proof.Machine

/-! ## mapCtx -/

@[simp] theorem mapCtx_others (s : State) (f : Ctx → Ctx) : (s.mapCtx f).others = s.others := rfl
@[simp] theorem mapCtx_clusters (s : State) (f : Ctx → Ctx) : (s.mapCtx f).clusters = s.clusters := rfl
@[simp] theorem mapCtx_dies (s : State) (f : Ctx → Ctx) : (s.mapCtx f).dies = s.dies := rfl
@[simp] theorem mapCtx_mem (s : State) (f : Ctx → Ctx) : (s.mapCtx f).mem = s.mem := rfl
@[simp] theorem mapCtx_bad (s : State) (f : Ctx → Ctx) : (s.mapCtx f).bad = s.bad := rfl
@[simp] theorem mapCtx_pown (s : State) (f : Ctx → Ctx) : (s.mapCtx f).pown = s.pown := rfl
@[simp] theorem mapCtx_sown (s : State) (f : Ctx → Ctx) : (s.mapCtx f).sown = s.sown := rfl
@[simp] theorem mapCtx_hown (s : State) (f : Ctx → Ctx) : (s.mapCtx f).hown = s.hown := rfl
@[simp] theorem mapCtx_ownPast (s : State) (f : Ctx → Ctx) : (s.mapCtx f).ownPast = s.ownPast := rfl
@[simp] theorem mapCtx_saveAt (s : State) (f : Ctx → Ctx) : (s.mapCtx f).saveAt = s.saveAt := rfl
@[simp] theorem mapCtx_pkgid (s : State) (f : Ctx → Ctx) : (s.mapCtx f).pkgid = s.pkgid := rfl
@[simp] theorem mapCtx_cycle (s : State) (f : Ctx → Ctx) : (s.mapCtx f).cycle = s.cycle := rfl
@[simp] theorem mapCtx_stage (s : State) (f : Ctx → Ctx) : (s.mapCtx f).stage = s.stage := rfl
@[simp] theorem mapCtx_traffic (s : State) (f : Ctx → Ctx) : (s.mapCtx f).traffic = s.traffic := rfl
@[simp] theorem mapCtx_stackRegs (s : State) (f : Ctx → Ctx) : (s.mapCtx f).stackRegs = s.stackRegs := rfl
@[simp] theorem mapCtx_seqs (s : State) (f : Ctx → Ctx) : (s.mapCtx f).seqs = s.seqs := rfl
@[simp] theorem mapCtx_ranks (s : State) (f : Ctx → Ctx) : (s.mapCtx f).ranks = s.ranks := rfl
@[simp] theorem mapCtx_fabric (s : State) (f : Ctx → Ctx) : (s.mapCtx f).fabric = s.fabric := rfl
@[simp] theorem mapCtx_cmds (s : State) (f : Ctx → Ctx) : (s.mapCtx f).cmds = s.cmds := rfl
@[simp] theorem mapCtx_nextCmd (s : State) (f : Ctx → Ctx) : (s.mapCtx f).nextCmd = s.nextCmd := rfl
@[simp] theorem mapCtx_tol (s : State) (f : Ctx → Ctx) : (s.mapCtx f).tol = s.tol := rfl
@[simp] theorem mapCtx_cur (s : State) (f : Ctx → Ctx) : (s.mapCtx f).cur = s.cur := rfl
@[simp] theorem mapCtx_asleep (s : State) (f : Ctx → Ctx) : (s.mapCtx f).asleep = s.asleep := rfl
@[simp] theorem mapCtx_dseq (s : State) (f : Ctx → Ctx) : (s.mapCtx f).dseq = s.dseq := rfl
@[simp] theorem mapCtx_salt (s : State) (f : Ctx → Ctx) : (s.mapCtx f).salt = s.salt := rfl
@[simp] theorem mapCtx_notices (s : State) (f : Ctx → Ctx) : (s.mapCtx f).notices = s.notices := rfl
@[simp] theorem mapCtx_down (s : State) (f : Ctx → Ctx) : (s.mapCtx f).down = s.down := rfl
@[simp] theorem mapCtx_grants (s : State) (f : Ctx → Ctx) : (s.mapCtx f).grants = s.grants := rfl
@[simp] theorem mapCtx_released (s : State) (f : Ctx → Ctx) : (s.mapCtx f).released = s.released := rfl
@[simp] theorem mapCtx_unit (s : State) (f : Ctx → Ctx) : (s.mapCtx f).unit = s.unit := rfl
@[simp] theorem mapCtx_due (s : State) (f : Ctx → Ctx) : (s.mapCtx f).due = s.due := rfl
@[simp] theorem mapCtx_tick (s : State) (f : Ctx → Ctx) : (s.mapCtx f).tick = s.tick := rfl

/-! ## mapFocus -/

@[simp] theorem mapFocus_others (s : State) (f : Core → Core) : (s.mapFocus f).others = s.others := rfl
@[simp] theorem mapFocus_clusters (s : State) (f : Core → Core) : (s.mapFocus f).clusters = s.clusters := rfl
@[simp] theorem mapFocus_dies (s : State) (f : Core → Core) : (s.mapFocus f).dies = s.dies := rfl
@[simp] theorem mapFocus_mem (s : State) (f : Core → Core) : (s.mapFocus f).mem = s.mem := rfl
@[simp] theorem mapFocus_bad (s : State) (f : Core → Core) : (s.mapFocus f).bad = s.bad := rfl
@[simp] theorem mapFocus_pown (s : State) (f : Core → Core) : (s.mapFocus f).pown = s.pown := rfl
@[simp] theorem mapFocus_sown (s : State) (f : Core → Core) : (s.mapFocus f).sown = s.sown := rfl
@[simp] theorem mapFocus_hown (s : State) (f : Core → Core) : (s.mapFocus f).hown = s.hown := rfl
@[simp] theorem mapFocus_ownPast (s : State) (f : Core → Core) : (s.mapFocus f).ownPast = s.ownPast := rfl
@[simp] theorem mapFocus_saveAt (s : State) (f : Core → Core) : (s.mapFocus f).saveAt = s.saveAt := rfl
@[simp] theorem mapFocus_pkgid (s : State) (f : Core → Core) : (s.mapFocus f).pkgid = s.pkgid := rfl
@[simp] theorem mapFocus_cycle (s : State) (f : Core → Core) : (s.mapFocus f).cycle = s.cycle := rfl
@[simp] theorem mapFocus_stage (s : State) (f : Core → Core) : (s.mapFocus f).stage = s.stage := rfl
@[simp] theorem mapFocus_traffic (s : State) (f : Core → Core) : (s.mapFocus f).traffic = s.traffic := rfl
@[simp] theorem mapFocus_stackRegs (s : State) (f : Core → Core) : (s.mapFocus f).stackRegs = s.stackRegs := rfl
@[simp] theorem mapFocus_seqs (s : State) (f : Core → Core) : (s.mapFocus f).seqs = s.seqs := rfl
@[simp] theorem mapFocus_ranks (s : State) (f : Core → Core) : (s.mapFocus f).ranks = s.ranks := rfl
@[simp] theorem mapFocus_fabric (s : State) (f : Core → Core) : (s.mapFocus f).fabric = s.fabric := rfl
@[simp] theorem mapFocus_cmds (s : State) (f : Core → Core) : (s.mapFocus f).cmds = s.cmds := rfl
@[simp] theorem mapFocus_nextCmd (s : State) (f : Core → Core) : (s.mapFocus f).nextCmd = s.nextCmd := rfl
@[simp] theorem mapFocus_tol (s : State) (f : Core → Core) : (s.mapFocus f).tol = s.tol := rfl
@[simp] theorem mapFocus_cur (s : State) (f : Core → Core) : (s.mapFocus f).cur = s.cur := rfl
@[simp] theorem mapFocus_asleep (s : State) (f : Core → Core) : (s.mapFocus f).asleep = s.asleep := rfl
@[simp] theorem mapFocus_dseq (s : State) (f : Core → Core) : (s.mapFocus f).dseq = s.dseq := rfl
@[simp] theorem mapFocus_salt (s : State) (f : Core → Core) : (s.mapFocus f).salt = s.salt := rfl
@[simp] theorem mapFocus_notices (s : State) (f : Core → Core) : (s.mapFocus f).notices = s.notices := rfl
@[simp] theorem mapFocus_down (s : State) (f : Core → Core) : (s.mapFocus f).down = s.down := rfl
@[simp] theorem mapFocus_grants (s : State) (f : Core → Core) : (s.mapFocus f).grants = s.grants := rfl
@[simp] theorem mapFocus_released (s : State) (f : Core → Core) : (s.mapFocus f).released = s.released := rfl
@[simp] theorem mapFocus_unit (s : State) (f : Core → Core) : (s.mapFocus f).unit = s.unit := rfl
@[simp] theorem mapFocus_due (s : State) (f : Core → Core) : (s.mapFocus f).due = s.due := rfl
@[simp] theorem mapFocus_tick (s : State) (f : Core → Core) : (s.mapFocus f).tick = s.tick := rfl

/-! ## enqueue -/

@[simp] theorem enqueue_core (s : State) (a : Act) (t : Option Nat) : (s.enqueue a t).core = s.core := rfl
@[simp] theorem enqueue_others (s : State) (a : Act) (t : Option Nat) : (s.enqueue a t).others = s.others := rfl
@[simp] theorem enqueue_clusters (s : State) (a : Act) (t : Option Nat) : (s.enqueue a t).clusters = s.clusters := rfl
@[simp] theorem enqueue_dies (s : State) (a : Act) (t : Option Nat) : (s.enqueue a t).dies = s.dies := rfl
@[simp] theorem enqueue_mem (s : State) (a : Act) (t : Option Nat) : (s.enqueue a t).mem = s.mem := rfl
@[simp] theorem enqueue_bad (s : State) (a : Act) (t : Option Nat) : (s.enqueue a t).bad = s.bad := rfl
@[simp] theorem enqueue_pown (s : State) (a : Act) (t : Option Nat) : (s.enqueue a t).pown = s.pown := rfl
@[simp] theorem enqueue_sown (s : State) (a : Act) (t : Option Nat) : (s.enqueue a t).sown = s.sown := rfl
@[simp] theorem enqueue_hown (s : State) (a : Act) (t : Option Nat) : (s.enqueue a t).hown = s.hown := rfl
@[simp] theorem enqueue_ownPast (s : State) (a : Act) (t : Option Nat) : (s.enqueue a t).ownPast = s.ownPast := rfl
@[simp] theorem enqueue_saveAt (s : State) (a : Act) (t : Option Nat) : (s.enqueue a t).saveAt = s.saveAt := rfl
@[simp] theorem enqueue_pkgid (s : State) (a : Act) (t : Option Nat) : (s.enqueue a t).pkgid = s.pkgid := rfl
@[simp] theorem enqueue_cycle (s : State) (a : Act) (t : Option Nat) : (s.enqueue a t).cycle = s.cycle := rfl
@[simp] theorem enqueue_stage (s : State) (a : Act) (t : Option Nat) : (s.enqueue a t).stage = s.stage := rfl
@[simp] theorem enqueue_traffic (s : State) (a : Act) (t : Option Nat) : (s.enqueue a t).traffic = s.traffic := rfl
@[simp] theorem enqueue_stackRegs (s : State) (a : Act) (t : Option Nat) : (s.enqueue a t).stackRegs = s.stackRegs := rfl
@[simp] theorem enqueue_seqs (s : State) (a : Act) (t : Option Nat) : (s.enqueue a t).seqs = s.seqs := rfl
@[simp] theorem enqueue_ranks (s : State) (a : Act) (t : Option Nat) : (s.enqueue a t).ranks = s.ranks := rfl
@[simp] theorem enqueue_fabric (s : State) (a : Act) (t : Option Nat) : (s.enqueue a t).fabric = s.fabric := rfl
@[simp] theorem enqueue_cmds (s : State) (a : Act) (t : Option Nat) : (s.enqueue a t).cmds = s.cmds := rfl
@[simp] theorem enqueue_nextCmd (s : State) (a : Act) (t : Option Nat) : (s.enqueue a t).nextCmd = s.nextCmd := rfl
@[simp] theorem enqueue_tol (s : State) (a : Act) (t : Option Nat) : (s.enqueue a t).tol = s.tol := rfl
@[simp] theorem enqueue_cur (s : State) (a : Act) (t : Option Nat) : (s.enqueue a t).cur = s.cur := rfl
@[simp] theorem enqueue_asleep (s : State) (a : Act) (t : Option Nat) : (s.enqueue a t).asleep = s.asleep := rfl
@[simp] theorem enqueue_dseq (s : State) (a : Act) (t : Option Nat) : (s.enqueue a t).dseq = s.dseq := rfl
@[simp] theorem enqueue_salt (s : State) (a : Act) (t : Option Nat) : (s.enqueue a t).salt = s.salt := rfl
@[simp] theorem enqueue_notices (s : State) (a : Act) (t : Option Nat) : (s.enqueue a t).notices = s.notices := rfl
@[simp] theorem enqueue_down (s : State) (a : Act) (t : Option Nat) : (s.enqueue a t).down = s.down := rfl
@[simp] theorem enqueue_grants (s : State) (a : Act) (t : Option Nat) : (s.enqueue a t).grants = s.grants := rfl
@[simp] theorem enqueue_released (s : State) (a : Act) (t : Option Nat) : (s.enqueue a t).released = s.released := rfl
@[simp] theorem enqueue_unit (s : State) (a : Act) (t : Option Nat) : (s.enqueue a t).unit = s.unit := rfl
@[simp] theorem enqueue_tick (s : State) (a : Act) (t : Option Nat) : (s.enqueue a t).tick = s.tick := rfl

/-! ## setCluster -/

@[simp] theorem setCluster_core (s : State) (n : BitVec 9) (v : Cluster) : (s.setCluster n v).core = s.core := rfl
@[simp] theorem setCluster_others (s : State) (n : BitVec 9) (v : Cluster) : (s.setCluster n v).others = s.others := rfl
@[simp] theorem setCluster_dies (s : State) (n : BitVec 9) (v : Cluster) : (s.setCluster n v).dies = s.dies := rfl
@[simp] theorem setCluster_mem (s : State) (n : BitVec 9) (v : Cluster) : (s.setCluster n v).mem = s.mem := rfl
@[simp] theorem setCluster_bad (s : State) (n : BitVec 9) (v : Cluster) : (s.setCluster n v).bad = s.bad := rfl
@[simp] theorem setCluster_pown (s : State) (n : BitVec 9) (v : Cluster) : (s.setCluster n v).pown = s.pown := rfl
@[simp] theorem setCluster_sown (s : State) (n : BitVec 9) (v : Cluster) : (s.setCluster n v).sown = s.sown := rfl
@[simp] theorem setCluster_hown (s : State) (n : BitVec 9) (v : Cluster) : (s.setCluster n v).hown = s.hown := rfl
@[simp] theorem setCluster_ownPast (s : State) (n : BitVec 9) (v : Cluster) : (s.setCluster n v).ownPast = s.ownPast := rfl
@[simp] theorem setCluster_saveAt (s : State) (n : BitVec 9) (v : Cluster) : (s.setCluster n v).saveAt = s.saveAt := rfl
@[simp] theorem setCluster_pkgid (s : State) (n : BitVec 9) (v : Cluster) : (s.setCluster n v).pkgid = s.pkgid := rfl
@[simp] theorem setCluster_cycle (s : State) (n : BitVec 9) (v : Cluster) : (s.setCluster n v).cycle = s.cycle := rfl
@[simp] theorem setCluster_stage (s : State) (n : BitVec 9) (v : Cluster) : (s.setCluster n v).stage = s.stage := rfl
@[simp] theorem setCluster_traffic (s : State) (n : BitVec 9) (v : Cluster) : (s.setCluster n v).traffic = s.traffic := rfl
@[simp] theorem setCluster_stackRegs (s : State) (n : BitVec 9) (v : Cluster) : (s.setCluster n v).stackRegs = s.stackRegs := rfl
@[simp] theorem setCluster_seqs (s : State) (n : BitVec 9) (v : Cluster) : (s.setCluster n v).seqs = s.seqs := rfl
@[simp] theorem setCluster_ranks (s : State) (n : BitVec 9) (v : Cluster) : (s.setCluster n v).ranks = s.ranks := rfl
@[simp] theorem setCluster_fabric (s : State) (n : BitVec 9) (v : Cluster) : (s.setCluster n v).fabric = s.fabric := rfl
@[simp] theorem setCluster_cmds (s : State) (n : BitVec 9) (v : Cluster) : (s.setCluster n v).cmds = s.cmds := rfl
@[simp] theorem setCluster_nextCmd (s : State) (n : BitVec 9) (v : Cluster) : (s.setCluster n v).nextCmd = s.nextCmd := rfl
@[simp] theorem setCluster_tol (s : State) (n : BitVec 9) (v : Cluster) : (s.setCluster n v).tol = s.tol := rfl
@[simp] theorem setCluster_cur (s : State) (n : BitVec 9) (v : Cluster) : (s.setCluster n v).cur = s.cur := rfl
@[simp] theorem setCluster_asleep (s : State) (n : BitVec 9) (v : Cluster) : (s.setCluster n v).asleep = s.asleep := rfl
@[simp] theorem setCluster_dseq (s : State) (n : BitVec 9) (v : Cluster) : (s.setCluster n v).dseq = s.dseq := rfl
@[simp] theorem setCluster_salt (s : State) (n : BitVec 9) (v : Cluster) : (s.setCluster n v).salt = s.salt := rfl
@[simp] theorem setCluster_notices (s : State) (n : BitVec 9) (v : Cluster) : (s.setCluster n v).notices = s.notices := rfl
@[simp] theorem setCluster_down (s : State) (n : BitVec 9) (v : Cluster) : (s.setCluster n v).down = s.down := rfl
@[simp] theorem setCluster_grants (s : State) (n : BitVec 9) (v : Cluster) : (s.setCluster n v).grants = s.grants := rfl
@[simp] theorem setCluster_released (s : State) (n : BitVec 9) (v : Cluster) : (s.setCluster n v).released = s.released := rfl
@[simp] theorem setCluster_unit (s : State) (n : BitVec 9) (v : Cluster) : (s.setCluster n v).unit = s.unit := rfl
@[simp] theorem setCluster_due (s : State) (n : BitVec 9) (v : Cluster) : (s.setCluster n v).due = s.due := rfl
@[simp] theorem setCluster_tick (s : State) (n : BitVec 9) (v : Cluster) : (s.setCluster n v).tick = s.tick := rfl

/-! ## setDie -/

@[simp] theorem setDie_core (s : State) (n : BitVec 2) (v : Die) : (s.setDie n v).core = s.core := rfl
@[simp] theorem setDie_others (s : State) (n : BitVec 2) (v : Die) : (s.setDie n v).others = s.others := rfl
@[simp] theorem setDie_clusters (s : State) (n : BitVec 2) (v : Die) : (s.setDie n v).clusters = s.clusters := rfl
@[simp] theorem setDie_mem (s : State) (n : BitVec 2) (v : Die) : (s.setDie n v).mem = s.mem := rfl
@[simp] theorem setDie_bad (s : State) (n : BitVec 2) (v : Die) : (s.setDie n v).bad = s.bad := rfl
@[simp] theorem setDie_pown (s : State) (n : BitVec 2) (v : Die) : (s.setDie n v).pown = s.pown := rfl
@[simp] theorem setDie_sown (s : State) (n : BitVec 2) (v : Die) : (s.setDie n v).sown = s.sown := rfl
@[simp] theorem setDie_hown (s : State) (n : BitVec 2) (v : Die) : (s.setDie n v).hown = s.hown := rfl
@[simp] theorem setDie_ownPast (s : State) (n : BitVec 2) (v : Die) : (s.setDie n v).ownPast = s.ownPast := rfl
@[simp] theorem setDie_saveAt (s : State) (n : BitVec 2) (v : Die) : (s.setDie n v).saveAt = s.saveAt := rfl
@[simp] theorem setDie_pkgid (s : State) (n : BitVec 2) (v : Die) : (s.setDie n v).pkgid = s.pkgid := rfl
@[simp] theorem setDie_cycle (s : State) (n : BitVec 2) (v : Die) : (s.setDie n v).cycle = s.cycle := rfl
@[simp] theorem setDie_stage (s : State) (n : BitVec 2) (v : Die) : (s.setDie n v).stage = s.stage := rfl
@[simp] theorem setDie_traffic (s : State) (n : BitVec 2) (v : Die) : (s.setDie n v).traffic = s.traffic := rfl
@[simp] theorem setDie_stackRegs (s : State) (n : BitVec 2) (v : Die) : (s.setDie n v).stackRegs = s.stackRegs := rfl
@[simp] theorem setDie_seqs (s : State) (n : BitVec 2) (v : Die) : (s.setDie n v).seqs = s.seqs := rfl
@[simp] theorem setDie_ranks (s : State) (n : BitVec 2) (v : Die) : (s.setDie n v).ranks = s.ranks := rfl
@[simp] theorem setDie_fabric (s : State) (n : BitVec 2) (v : Die) : (s.setDie n v).fabric = s.fabric := rfl
@[simp] theorem setDie_cmds (s : State) (n : BitVec 2) (v : Die) : (s.setDie n v).cmds = s.cmds := rfl
@[simp] theorem setDie_nextCmd (s : State) (n : BitVec 2) (v : Die) : (s.setDie n v).nextCmd = s.nextCmd := rfl
@[simp] theorem setDie_tol (s : State) (n : BitVec 2) (v : Die) : (s.setDie n v).tol = s.tol := rfl
@[simp] theorem setDie_cur (s : State) (n : BitVec 2) (v : Die) : (s.setDie n v).cur = s.cur := rfl
@[simp] theorem setDie_asleep (s : State) (n : BitVec 2) (v : Die) : (s.setDie n v).asleep = s.asleep := rfl
@[simp] theorem setDie_dseq (s : State) (n : BitVec 2) (v : Die) : (s.setDie n v).dseq = s.dseq := rfl
@[simp] theorem setDie_salt (s : State) (n : BitVec 2) (v : Die) : (s.setDie n v).salt = s.salt := rfl
@[simp] theorem setDie_notices (s : State) (n : BitVec 2) (v : Die) : (s.setDie n v).notices = s.notices := rfl
@[simp] theorem setDie_down (s : State) (n : BitVec 2) (v : Die) : (s.setDie n v).down = s.down := rfl
@[simp] theorem setDie_grants (s : State) (n : BitVec 2) (v : Die) : (s.setDie n v).grants = s.grants := rfl
@[simp] theorem setDie_released (s : State) (n : BitVec 2) (v : Die) : (s.setDie n v).released = s.released := rfl
@[simp] theorem setDie_unit (s : State) (n : BitVec 2) (v : Die) : (s.setDie n v).unit = s.unit := rfl
@[simp] theorem setDie_due (s : State) (n : BitVec 2) (v : Die) : (s.setDie n v).due = s.due := rfl
@[simp] theorem setDie_tick (s : State) (n : BitVec 2) (v : Die) : (s.setDie n v).tick = s.tick := rfl

/-! ## setStack -/

@[simp] theorem setStack_core (s : State) (n : Nat) (v : Stack) : (s.setStack n v).core = s.core := rfl
@[simp] theorem setStack_others (s : State) (n : Nat) (v : Stack) : (s.setStack n v).others = s.others := rfl
@[simp] theorem setStack_clusters (s : State) (n : Nat) (v : Stack) : (s.setStack n v).clusters = s.clusters := rfl
@[simp] theorem setStack_dies (s : State) (n : Nat) (v : Stack) : (s.setStack n v).dies = s.dies := rfl
@[simp] theorem setStack_mem (s : State) (n : Nat) (v : Stack) : (s.setStack n v).mem = s.mem := rfl
@[simp] theorem setStack_bad (s : State) (n : Nat) (v : Stack) : (s.setStack n v).bad = s.bad := rfl
@[simp] theorem setStack_pown (s : State) (n : Nat) (v : Stack) : (s.setStack n v).pown = s.pown := rfl
@[simp] theorem setStack_sown (s : State) (n : Nat) (v : Stack) : (s.setStack n v).sown = s.sown := rfl
@[simp] theorem setStack_hown (s : State) (n : Nat) (v : Stack) : (s.setStack n v).hown = s.hown := rfl
@[simp] theorem setStack_ownPast (s : State) (n : Nat) (v : Stack) : (s.setStack n v).ownPast = s.ownPast := rfl
@[simp] theorem setStack_saveAt (s : State) (n : Nat) (v : Stack) : (s.setStack n v).saveAt = s.saveAt := rfl
@[simp] theorem setStack_pkgid (s : State) (n : Nat) (v : Stack) : (s.setStack n v).pkgid = s.pkgid := rfl
@[simp] theorem setStack_cycle (s : State) (n : Nat) (v : Stack) : (s.setStack n v).cycle = s.cycle := rfl
@[simp] theorem setStack_stage (s : State) (n : Nat) (v : Stack) : (s.setStack n v).stage = s.stage := rfl
@[simp] theorem setStack_traffic (s : State) (n : Nat) (v : Stack) : (s.setStack n v).traffic = s.traffic := rfl
@[simp] theorem setStack_seqs (s : State) (n : Nat) (v : Stack) : (s.setStack n v).seqs = s.seqs := rfl
@[simp] theorem setStack_ranks (s : State) (n : Nat) (v : Stack) : (s.setStack n v).ranks = s.ranks := rfl
@[simp] theorem setStack_fabric (s : State) (n : Nat) (v : Stack) : (s.setStack n v).fabric = s.fabric := rfl
@[simp] theorem setStack_cmds (s : State) (n : Nat) (v : Stack) : (s.setStack n v).cmds = s.cmds := rfl
@[simp] theorem setStack_nextCmd (s : State) (n : Nat) (v : Stack) : (s.setStack n v).nextCmd = s.nextCmd := rfl
@[simp] theorem setStack_tol (s : State) (n : Nat) (v : Stack) : (s.setStack n v).tol = s.tol := rfl
@[simp] theorem setStack_cur (s : State) (n : Nat) (v : Stack) : (s.setStack n v).cur = s.cur := rfl
@[simp] theorem setStack_asleep (s : State) (n : Nat) (v : Stack) : (s.setStack n v).asleep = s.asleep := rfl
@[simp] theorem setStack_dseq (s : State) (n : Nat) (v : Stack) : (s.setStack n v).dseq = s.dseq := rfl
@[simp] theorem setStack_salt (s : State) (n : Nat) (v : Stack) : (s.setStack n v).salt = s.salt := rfl
@[simp] theorem setStack_notices (s : State) (n : Nat) (v : Stack) : (s.setStack n v).notices = s.notices := rfl
@[simp] theorem setStack_down (s : State) (n : Nat) (v : Stack) : (s.setStack n v).down = s.down := rfl
@[simp] theorem setStack_grants (s : State) (n : Nat) (v : Stack) : (s.setStack n v).grants = s.grants := rfl
@[simp] theorem setStack_released (s : State) (n : Nat) (v : Stack) : (s.setStack n v).released = s.released := rfl
@[simp] theorem setStack_unit (s : State) (n : Nat) (v : Stack) : (s.setStack n v).unit = s.unit := rfl
@[simp] theorem setStack_due (s : State) (n : Nat) (v : Stack) : (s.setStack n v).due = s.due := rfl
@[simp] theorem setStack_tick (s : State) (n : Nat) (v : Stack) : (s.setStack n v).tick = s.tick := rfl

/-! ## drawn -/

@[simp] theorem drawn_core (s : State) : (s.drawn).core = s.core := rfl
@[simp] theorem drawn_others (s : State) : (s.drawn).others = s.others := rfl
@[simp] theorem drawn_clusters (s : State) : (s.drawn).clusters = s.clusters := rfl
@[simp] theorem drawn_dies (s : State) : (s.drawn).dies = s.dies := rfl
@[simp] theorem drawn_mem (s : State) : (s.drawn).mem = s.mem := rfl
@[simp] theorem drawn_bad (s : State) : (s.drawn).bad = s.bad := rfl
@[simp] theorem drawn_pown (s : State) : (s.drawn).pown = s.pown := rfl
@[simp] theorem drawn_sown (s : State) : (s.drawn).sown = s.sown := rfl
@[simp] theorem drawn_hown (s : State) : (s.drawn).hown = s.hown := rfl
@[simp] theorem drawn_ownPast (s : State) : (s.drawn).ownPast = s.ownPast := rfl
@[simp] theorem drawn_saveAt (s : State) : (s.drawn).saveAt = s.saveAt := rfl
@[simp] theorem drawn_pkgid (s : State) : (s.drawn).pkgid = s.pkgid := rfl
@[simp] theorem drawn_cycle (s : State) : (s.drawn).cycle = s.cycle := rfl
@[simp] theorem drawn_stage (s : State) : (s.drawn).stage = s.stage := rfl
@[simp] theorem drawn_traffic (s : State) : (s.drawn).traffic = s.traffic := rfl
@[simp] theorem drawn_stackRegs (s : State) : (s.drawn).stackRegs = s.stackRegs := rfl
@[simp] theorem drawn_seqs (s : State) : (s.drawn).seqs = s.seqs := rfl
@[simp] theorem drawn_ranks (s : State) : (s.drawn).ranks = s.ranks := rfl
@[simp] theorem drawn_fabric (s : State) : (s.drawn).fabric = s.fabric := rfl
@[simp] theorem drawn_cmds (s : State) : (s.drawn).cmds = s.cmds := rfl
@[simp] theorem drawn_nextCmd (s : State) : (s.drawn).nextCmd = s.nextCmd := rfl
@[simp] theorem drawn_tol (s : State) : (s.drawn).tol = s.tol := rfl
@[simp] theorem drawn_cur (s : State) : (s.drawn).cur = s.cur := rfl
@[simp] theorem drawn_asleep (s : State) : (s.drawn).asleep = s.asleep := rfl
@[simp] theorem drawn_dseq (s : State) : (s.drawn).dseq = s.dseq := rfl
@[simp] theorem drawn_salt (s : State) : (s.drawn).salt = s.salt := rfl
@[simp] theorem drawn_notices (s : State) : (s.drawn).notices = s.notices := rfl
@[simp] theorem drawn_down (s : State) : (s.drawn).down = s.down := rfl
@[simp] theorem drawn_grants (s : State) : (s.drawn).grants = s.grants := rfl
@[simp] theorem drawn_released (s : State) : (s.drawn).released = s.released := rfl
@[simp] theorem drawn_unit (s : State) : (s.drawn).unit = s.unit := rfl
@[simp] theorem drawn_due (s : State) : (s.drawn).due = s.due := rfl

/-! ## trace -/

@[simp] theorem trace_others (s : State) (ty : BitVec 4) (a1 : Word) (i : BitVec 8) (a2 : Word) : (s.trace ty a1 i a2).others = s.others := rfl
@[simp] theorem trace_clusters (s : State) (ty : BitVec 4) (a1 : Word) (i : BitVec 8) (a2 : Word) : (s.trace ty a1 i a2).clusters = s.clusters := rfl
@[simp] theorem trace_dies (s : State) (ty : BitVec 4) (a1 : Word) (i : BitVec 8) (a2 : Word) : (s.trace ty a1 i a2).dies = s.dies := rfl
@[simp] theorem trace_mem (s : State) (ty : BitVec 4) (a1 : Word) (i : BitVec 8) (a2 : Word) : (s.trace ty a1 i a2).mem = s.mem := rfl
@[simp] theorem trace_bad (s : State) (ty : BitVec 4) (a1 : Word) (i : BitVec 8) (a2 : Word) : (s.trace ty a1 i a2).bad = s.bad := rfl
@[simp] theorem trace_pown (s : State) (ty : BitVec 4) (a1 : Word) (i : BitVec 8) (a2 : Word) : (s.trace ty a1 i a2).pown = s.pown := rfl
@[simp] theorem trace_sown (s : State) (ty : BitVec 4) (a1 : Word) (i : BitVec 8) (a2 : Word) : (s.trace ty a1 i a2).sown = s.sown := rfl
@[simp] theorem trace_hown (s : State) (ty : BitVec 4) (a1 : Word) (i : BitVec 8) (a2 : Word) : (s.trace ty a1 i a2).hown = s.hown := rfl
@[simp] theorem trace_ownPast (s : State) (ty : BitVec 4) (a1 : Word) (i : BitVec 8) (a2 : Word) : (s.trace ty a1 i a2).ownPast = s.ownPast := rfl
@[simp] theorem trace_saveAt (s : State) (ty : BitVec 4) (a1 : Word) (i : BitVec 8) (a2 : Word) : (s.trace ty a1 i a2).saveAt = s.saveAt := rfl
@[simp] theorem trace_pkgid (s : State) (ty : BitVec 4) (a1 : Word) (i : BitVec 8) (a2 : Word) : (s.trace ty a1 i a2).pkgid = s.pkgid := rfl
@[simp] theorem trace_cycle (s : State) (ty : BitVec 4) (a1 : Word) (i : BitVec 8) (a2 : Word) : (s.trace ty a1 i a2).cycle = s.cycle := rfl
@[simp] theorem trace_stage (s : State) (ty : BitVec 4) (a1 : Word) (i : BitVec 8) (a2 : Word) : (s.trace ty a1 i a2).stage = s.stage := rfl
@[simp] theorem trace_traffic (s : State) (ty : BitVec 4) (a1 : Word) (i : BitVec 8) (a2 : Word) : (s.trace ty a1 i a2).traffic = s.traffic := rfl
@[simp] theorem trace_stackRegs (s : State) (ty : BitVec 4) (a1 : Word) (i : BitVec 8) (a2 : Word) : (s.trace ty a1 i a2).stackRegs = s.stackRegs := rfl
@[simp] theorem trace_seqs (s : State) (ty : BitVec 4) (a1 : Word) (i : BitVec 8) (a2 : Word) : (s.trace ty a1 i a2).seqs = s.seqs := rfl
@[simp] theorem trace_ranks (s : State) (ty : BitVec 4) (a1 : Word) (i : BitVec 8) (a2 : Word) : (s.trace ty a1 i a2).ranks = s.ranks := rfl
@[simp] theorem trace_fabric (s : State) (ty : BitVec 4) (a1 : Word) (i : BitVec 8) (a2 : Word) : (s.trace ty a1 i a2).fabric = s.fabric := rfl
@[simp] theorem trace_cmds (s : State) (ty : BitVec 4) (a1 : Word) (i : BitVec 8) (a2 : Word) : (s.trace ty a1 i a2).cmds = s.cmds := rfl
@[simp] theorem trace_nextCmd (s : State) (ty : BitVec 4) (a1 : Word) (i : BitVec 8) (a2 : Word) : (s.trace ty a1 i a2).nextCmd = s.nextCmd := rfl
@[simp] theorem trace_tol (s : State) (ty : BitVec 4) (a1 : Word) (i : BitVec 8) (a2 : Word) : (s.trace ty a1 i a2).tol = s.tol := rfl
@[simp] theorem trace_cur (s : State) (ty : BitVec 4) (a1 : Word) (i : BitVec 8) (a2 : Word) : (s.trace ty a1 i a2).cur = s.cur := rfl
@[simp] theorem trace_asleep (s : State) (ty : BitVec 4) (a1 : Word) (i : BitVec 8) (a2 : Word) : (s.trace ty a1 i a2).asleep = s.asleep := rfl
@[simp] theorem trace_dseq (s : State) (ty : BitVec 4) (a1 : Word) (i : BitVec 8) (a2 : Word) : (s.trace ty a1 i a2).dseq = s.dseq := rfl
@[simp] theorem trace_salt (s : State) (ty : BitVec 4) (a1 : Word) (i : BitVec 8) (a2 : Word) : (s.trace ty a1 i a2).salt = s.salt := rfl
@[simp] theorem trace_notices (s : State) (ty : BitVec 4) (a1 : Word) (i : BitVec 8) (a2 : Word) : (s.trace ty a1 i a2).notices = s.notices := rfl
@[simp] theorem trace_down (s : State) (ty : BitVec 4) (a1 : Word) (i : BitVec 8) (a2 : Word) : (s.trace ty a1 i a2).down = s.down := rfl
@[simp] theorem trace_grants (s : State) (ty : BitVec 4) (a1 : Word) (i : BitVec 8) (a2 : Word) : (s.trace ty a1 i a2).grants = s.grants := rfl
@[simp] theorem trace_released (s : State) (ty : BitVec 4) (a1 : Word) (i : BitVec 8) (a2 : Word) : (s.trace ty a1 i a2).released = s.released := rfl
@[simp] theorem trace_unit (s : State) (ty : BitVec 4) (a1 : Word) (i : BitVec 8) (a2 : Word) : (s.trace ty a1 i a2).unit = s.unit := rfl
@[simp] theorem trace_due (s : State) (ty : BitVec 4) (a1 : Word) (i : BitVec 8) (a2 : Word) : (s.trace ty a1 i a2).due = s.due := rfl
@[simp] theorem trace_tick (s : State) (ty : BitVec 4) (a1 : Word) (i : BitVec 8) (a2 : Word) : (s.trace ty a1 i a2).tick = s.tick := rfl

/-! ## mend -/

@[simp] theorem mend_core (s : State) (a n : Nat) : (s.mend a n).core = s.core := rfl
@[simp] theorem mend_others (s : State) (a n : Nat) : (s.mend a n).others = s.others := rfl
@[simp] theorem mend_clusters (s : State) (a n : Nat) : (s.mend a n).clusters = s.clusters := rfl
@[simp] theorem mend_dies (s : State) (a n : Nat) : (s.mend a n).dies = s.dies := rfl
@[simp] theorem mend_mem (s : State) (a n : Nat) : (s.mend a n).mem = s.mem := rfl
@[simp] theorem mend_pown (s : State) (a n : Nat) : (s.mend a n).pown = s.pown := rfl
@[simp] theorem mend_sown (s : State) (a n : Nat) : (s.mend a n).sown = s.sown := rfl
@[simp] theorem mend_hown (s : State) (a n : Nat) : (s.mend a n).hown = s.hown := rfl
@[simp] theorem mend_ownPast (s : State) (a n : Nat) : (s.mend a n).ownPast = s.ownPast := rfl
@[simp] theorem mend_saveAt (s : State) (a n : Nat) : (s.mend a n).saveAt = s.saveAt := rfl
@[simp] theorem mend_pkgid (s : State) (a n : Nat) : (s.mend a n).pkgid = s.pkgid := rfl
@[simp] theorem mend_cycle (s : State) (a n : Nat) : (s.mend a n).cycle = s.cycle := rfl
@[simp] theorem mend_stage (s : State) (a n : Nat) : (s.mend a n).stage = s.stage := rfl
@[simp] theorem mend_traffic (s : State) (a n : Nat) : (s.mend a n).traffic = s.traffic := rfl
@[simp] theorem mend_stackRegs (s : State) (a n : Nat) : (s.mend a n).stackRegs = s.stackRegs := rfl
@[simp] theorem mend_seqs (s : State) (a n : Nat) : (s.mend a n).seqs = s.seqs := rfl
@[simp] theorem mend_ranks (s : State) (a n : Nat) : (s.mend a n).ranks = s.ranks := rfl
@[simp] theorem mend_fabric (s : State) (a n : Nat) : (s.mend a n).fabric = s.fabric := rfl
@[simp] theorem mend_cmds (s : State) (a n : Nat) : (s.mend a n).cmds = s.cmds := rfl
@[simp] theorem mend_nextCmd (s : State) (a n : Nat) : (s.mend a n).nextCmd = s.nextCmd := rfl
@[simp] theorem mend_tol (s : State) (a n : Nat) : (s.mend a n).tol = s.tol := rfl
@[simp] theorem mend_cur (s : State) (a n : Nat) : (s.mend a n).cur = s.cur := rfl
@[simp] theorem mend_asleep (s : State) (a n : Nat) : (s.mend a n).asleep = s.asleep := rfl
@[simp] theorem mend_dseq (s : State) (a n : Nat) : (s.mend a n).dseq = s.dseq := rfl
@[simp] theorem mend_salt (s : State) (a n : Nat) : (s.mend a n).salt = s.salt := rfl
@[simp] theorem mend_notices (s : State) (a n : Nat) : (s.mend a n).notices = s.notices := rfl
@[simp] theorem mend_down (s : State) (a n : Nat) : (s.mend a n).down = s.down := rfl
@[simp] theorem mend_grants (s : State) (a n : Nat) : (s.mend a n).grants = s.grants := rfl
@[simp] theorem mend_released (s : State) (a n : Nat) : (s.mend a n).released = s.released := rfl
@[simp] theorem mend_unit (s : State) (a n : Nat) : (s.mend a n).unit = s.unit := rfl
@[simp] theorem mend_due (s : State) (a n : Nat) : (s.mend a n).due = s.due := rfl
@[simp] theorem mend_tick (s : State) (a n : Nat) : (s.mend a n).tick = s.tick := rfl

/-! ## What the updates change -/

@[simp] theorem mapCtx_ctx (s : State) (f : Ctx → Ctx) : (s.mapCtx f).ctx = f s.ctx := rfl
@[simp] theorem mapCtx_core (s : State) (f : Ctx → Ctx) : (s.mapCtx f).core = { s.core with front := f s.core.front } := rfl
@[simp] theorem mapFocus_core (s : State) (f : Core → Core) : (s.mapFocus f).core = f s.core := rfl
@[simp] theorem mapFocus_ctx (s : State) (f : Core → Core) : (s.mapFocus f).ctx = (f s.core).front := rfl
@[simp] theorem enqueue_due (s : State) (a : Act) (t : Option Nat) : (s.enqueue a t).due = s.due ++ [⟨a, t⟩] := rfl
@[simp] theorem enqueue_ctx (s : State) (a : Act) (t : Option Nat) : (s.enqueue a t).ctx = s.ctx := rfl
@[simp] theorem drawn_tick (s : State) : s.drawn.tick = s.tick + 1 := rfl
@[simp] theorem setCluster_ctx (s : State) (n : BitVec 9) (v : Cluster) : (s.setCluster n v).ctx = s.ctx := rfl
@[simp] theorem setDie_ctx (s : State) (n : BitVec 2) (v : Die) : (s.setDie n v).ctx = s.ctx := rfl
@[simp] theorem mapCtx_mapCtx (s : State) (f g : Ctx → Ctx) : (s.mapCtx f).mapCtx g = s.mapCtx fun k => g (f k) := rfl

/-- A trace entry changes the ring of the core in focus alone. -/
theorem log_frame (c : Core) (slot : Bool) (k : Ctx) (ty : BitVec 4) (a1 : Word) (i : BitVec 8) (a2 : Word) :
    ∃ r h w, c.log slot k ty a1 i a2 = { c with trace := r, traceHead := h, traceWrap := w } := by
  unfold Core.log
  split
  · exact ⟨_, _, _, rfl⟩
  · exact ⟨c.trace, c.traceHead, c.traceWrap, rfl⟩

@[simp] theorem log_front (c : Core) (slot : Bool) (k : Ctx) (ty : BitVec 4) (a1 : Word) (i : BitVec 8) (a2 : Word) :
    (c.log slot k ty a1 i a2).front = c.front := by obtain ⟨_, _, _, h⟩ := log_frame c slot k ty a1 i a2; rw [h]
@[simp] theorem log_id (c : Core) (slot : Bool) (k : Ctx) (ty : BitVec 4) (a1 : Word) (i : BitVec 8) (a2 : Word) :
    (c.log slot k ty a1 i a2).id = c.id := by obtain ⟨_, _, _, h⟩ := log_frame c slot k ty a1 i a2; rw [h]
theorem trace_frame (s : State) (ty : BitVec 4) (a1 : Word) (i : BitVec 8) (a2 : Word) :
    ∃ r h w, s.trace ty a1 i a2 = { s with core := { s.core with trace := r, traceHead := h, traceWrap := w } } := by
  obtain ⟨r, h, w, e⟩ := log_frame s.core s.core.frontSlot s.core.front ty a1 i a2
  exact ⟨r, h, w, congrArg (fun c => { s with core := c }) e⟩
@[simp] theorem trace_core_id (s : State) (ty : BitVec 4) (a1 : Word) (i : BitVec 8) (a2 : Word) : (s.trace ty a1 i a2).core.id = s.core.id := log_id ..
@[simp] theorem trace_core_front (s : State) (ty : BitVec 4) (a1 : Word) (i : BitVec 8) (a2 : Word) : (s.trace ty a1 i a2).core.front = s.core.front := log_front ..
@[simp] theorem trace_ctx (s : State) (ty : BitVec 4) (a1 : Word) (i : BitVec 8) (a2 : Word) : (s.trace ty a1 i a2).ctx = s.ctx := log_front ..

/-! ## Registers of a context -/

/-- x0 takes nothing; another register its value; all else stays (R43). -/
theorem writeX_frame (k : Ctx) (r : BitVec 5) (v : Word) : ∃ x, k.writeX r v = { k with x := x } := by
  unfold Ctx.writeX; split
  · exact ⟨k.x, rfl⟩
  · exact ⟨_, rfl⟩
/-- A history entry enters the history in use. -/
theorem pushHist_frame (k : Ctx) (v : Word) : ∃ h t, k.pushHist v = { k with hist := h, trapHist := t } := by
  unfold Ctx.pushHist; split
  · exact ⟨k.hist, _, rfl⟩
  · exact ⟨_, k.trapHist, rfl⟩

end Sys2Proof.Laws
end

