-- ==== Sys2Proof/Laws/Ops.lean ====
section
/-! SUPPORT. What retirement and the taking of a trap change: the core in focus, and the acts due. -/

namespace Sys2Proof.Laws

open Sys2Proof.Machine

/-- Retirement changes the core in focus, before what follows it (R46, R48, R110). -/
theorem retire_frame (s0 s1 : State) (fl : Flow) : ∃ c, retire s0 s1 fl = fl.after { s1 with core := c } ∧
    c.front = { s1.ctx with
      pc := c.front.pc, loops := c.front.loops, instret := c.front.instret, hold := c.front.hold, hints := [], pops := [], progress := .none } ∧
    c = { s1.core with front := c.front, trace := c.trace, traceHead := c.traceHead, traceWrap := c.traceWrap, watchdog := none, probed := none } := by
  by_cases h : fl.branch = true
  · obtain ⟨r, hd, w, e'⟩ := trace_frame s1 1 s0.ctx.iaddr 0 (fl.target.getD (s0.ctx.iaddr + 4))
    unfold retire
    simp only [h, if_true, e']
    exact ⟨_, rfl, rfl, rfl⟩
  · unfold retire
    simp only [h]
    exact ⟨_, rfl, rfl, rfl⟩

/-- A unit that goes on at the next word changes its context alone. -/
theorem retire_next (s0 s1 : State) : ∃ c, retire s0 s1 {} = { s1 with core := c } ∧
    c.front = { s1.ctx with
      pc := c.front.pc, loops := c.front.loops, instret := c.front.instret, hold := c.front.hold, hints := [], pops := [], progress := .none } ∧
    c = { s1.core with front := c.front, watchdog := none, probed := none } := ⟨_, rfl, rfl, rfl⟩

/-- Taking a trap changes the core in focus, and makes a dump due where it is fatal (R73, R75). -/
theorem takeTrap_frame (s : State) (c : BitVec 8) (v : Word) (m : Nat) (l : List CoreId) :
    ∃ k d, s.takeTrap c v m l = { s with core := k, due := d } ∧ k.id = s.core.id ∧ k.front.x = s.ctx.x := by
  have det : ∀ k : Ctx, k.detach.x = k.x := by intro k; unfold Ctx.detach; split <;> rfl
  unfold State.takeTrap
  dsimp only
  split
  · exact ⟨_, _, rfl, by simp, by simp [det, State.ctx]⟩
  · exact ⟨_, _, rfl, by simp, by simp [det, State.ctx]⟩

theorem dropPop_frame (k : Ctx) (o : Opnd) : ∃ p c, k.dropPop o = { k with ports := p, chans := c } := by
  cases o <;> exact ⟨_, _, rfl⟩

theorem dropPops_frame (ps : List Pop) (k : Ctx) : ∃ p c, k.dropPops ps = { k with ports := p, chans := c } := by
  unfold Ctx.dropPops
  induction ps generalizing k with
  | nil => exact ⟨k.ports, k.chans, rfl⟩
  | cons o r ih =>
    obtain ⟨p, c, h⟩ := dropPop_frame k o.1
    obtain ⟨p2, c2, h2⟩ := ih (k.dropPop o.1)
    refine ⟨p2, c2, ?_⟩
    rw [List.foldl_cons, h2, h]

/-- Values that stand in the holding buffer change it and the unit it belongs to (R45). -/
theorem holdPops_frame (k0 k : Ctx) (ps : List Pop) : ∃ h f, k0.holdPops ps k = { k with hold := h, holdFor := f } := by
  unfold Ctx.holdPops
  split
  · exact ⟨_, k.holdFor, rfl⟩
  · exact ⟨_, _, rfl⟩

/-- The state from which a trap is taken where nothing survives: what was popped is held (R45). -/
theorem trapBase_frame (s : State) (ps : List Pop) : ∃ p c h f, trapBase s ps none =
    s.mapCtx fun k => { k with ports := p, chans := c, hold := h, holdFor := f } := by
  obtain ⟨p, c, e⟩ := dropPops_frame ps s.ctx
  obtain ⟨h, f, e'⟩ := holdPops_frame s.ctx { s.ctx with ports := p, chans := c } ps
  refine ⟨p, c, h, f, ?_⟩
  unfold trapBase
  simp only [State.mapCtx, State.ctx] at *
  rw [e, e']

end Sys2Proof.Laws
end

