-- ==== Sys2Proof/Laws/Operands.lean ====
section
/-! SUPPORT. What reading a source and writing a destination do: one lemma for each says everything they may change. -/

namespace Sys2Proof.Laws

open Sys2Proof.Machine

/-! ## Sources -/

/-- A register is read where no token is pending in it (R169). -/
theorem src_x {s : State} {r : BitVec 5} (h : s.ctx.pend.getLsbD r.toNat = false) : src (.x r) s = .ok (s.ctx.readX r, s) := by
  unfold src; simp only [bind_def, ctx_apply, h]; rfl

theorem src_x_pending {s : State} {r : BitVec 5} (h : s.ctx.pend.getLsbD r.toNat = true) : src (.x r) s = .error (.wait id) := by
  unfold src; simp only [bind_def, ctx_apply, h]; rfl

/-- A history entry is read as it is (R46). -/
theorem src_hist (s : State) (n : BitVec 3) : src (.hist n) s = .ok (s.ctx.history.getD n.toNat 0, s) := rfl

theorem popped_apply (o : Opnd) (v : Word) (s : State) :
    popped o v s = .ok (v, s.mapCtx fun k => { k.dropPop o with pops := k.pops ++ [(o, v)] }) := rfl

/-- The state with other ports, channels, pops and another holding buffer. -/
def Popped (s t : State) : Prop := ∃ p c l h, t = s.mapCtx fun k => { k with ports := p, chans := c, pops := l, hold := h }

theorem popped_refl (s : State) : Popped s s := ⟨s.ctx.ports, s.ctx.chans, s.ctx.pops, s.ctx.hold, rfl⟩

theorem Popped.trans {s t u : State} (h : Popped s t) (g : Popped t u) : Popped s u := by
  obtain ⟨_, _, _, _, rfl⟩ := h
  obtain ⟨p, c, l, h, rfl⟩ := g
  exact ⟨p, c, l, h, rfl⟩

theorem takeHeld_frame {s t : State} {w : Option Word} (h : takeHeld s = .ok (w, t)) : Popped s t := by
  unfold takeHeld at h
  split at h
  · split at h <;> cases h
    · exact popped_refl s
    · exact ⟨s.ctx.ports, s.ctx.chans, s.ctx.pops, _, rfl⟩
  · cases h; exact popped_refl s

theorem popped_frame {o : Opnd} {v w : Word} {s t : State} (h : popped o v s = .ok (w, t)) : w = v ∧ Popped s t := by
  rw [popped_apply] at h
  cases h
  obtain ⟨p, c, e⟩ := dropPop_frame s.ctx o
  refine ⟨rfl, p, c, s.ctx.pops ++ [(o, v)], s.ctx.hold, ?_⟩
  simp only [State.mapCtx, State.ctx] at *
  rw [e]

@[simp] theorem trapUnpopped_apply {α : Type} (c : BitVec 8) (v : Word) (s : State) :
    (trapUnpopped c v : M α) s = .error (.trap c v [] none) := rfl

theorem popPort_frame {q : BitVec 2} {v : Word} {s t : State} (h : popPort q s = .ok (v, t)) : Popped s t := by
  unfold popPort at h
  obtain ⟨w, u, e, h⟩ := bind_ok_iff.mp h
  refine (takeHeld_frame e).trans ?_
  cases w with
  | some w => cases h; exact popped_refl _
  | none =>
    simp only [bind_ok (ctx_apply _)] at h
    cases hr : (u.ctx.ports.get q.toFin).results with
    | cons x r => simp only [hr] at h; exact (popped_frame h).2
    | nil =>
      simp only [hr] at h
      split at h <;> simp at h

theorem waitReceive_apply {α : Type} (r : Recv) (s : State) : (waitReceive r : M α) s = .error (.wait fun s => s.inReceive r) := rfl

theorem popChan_frame {c : BitVec 3} {v : Word} {s t : State} (h : popChan c s = .ok (v, t)) : Popped s t := by
  unfold popChan at h
  obtain ⟨w, u, e, h⟩ := bind_ok_iff.mp h
  refine (takeHeld_frame e).trans ?_
  cases w with
  | some w => cases h; exact popped_refl _
  | none =>
    simp only [bind_ok (ctx_apply _)] at h
    cases hb : (u.ctx.chans.get c.toFin).bind with
    | none => simp [hb] at h
    | some b =>
      simp only [hb] at h
      split at h
      · simp at h
      · cases hh : (u.ctx.chans.get c.toFin).held with
        | cons x r => simp only [hh] at h; exact (popped_frame h).2
        | nil => simp [hh, waitReceive_apply] at h

theorem ringOf_frame {r : BitVec 3} {v : Ring} {s t : State} (h : ringOf r s = .ok (v, t)) : t = s := by
  unfold ringOf at h
  rw [bind_ok (get_apply s)] at h
  cases hr : s.ctx.rings.get r.toFin with
  | none => simp [hr] at h
  | some g =>
    simp only [hr] at h
    split at h
    · simp at h
    · cases h; rfl

theorem ringHead_frame {r : BitVec 3} {n : Nat} {v : Word} {s t : State} (h : ringHead r n s = .ok (v, t)) : t = s := by
  unfold ringHead at h
  obtain ⟨w, u, e, g⟩ := bind_ok_iff.mp h
  obtain rfl := ringOf_frame e
  rw [bind_ok (get_apply _)] at g
  split at g
  · simp at g
  · split at g
    · cases g; rfl
    · split at g <;> simp [waitReceive_apply] at g

/-- Reading a source changes ports, channels, what was popped and the holding buffer, and nothing else. -/
theorem src_frame {o : Opnd} {v : Word} {s t : State} (h : src o s = .ok (v, t)) : Popped s t := by
  cases o with
  | x r =>
    by_cases hp : s.ctx.pend.getLsbD r.toNat = true
    · rw [src_x_pending hp] at h; cases h
    · rw [src_x (by simpa using hp)] at h; cases h; exact popped_refl s
  | hist n => cases h; exact popped_refl s
  | ring r => rw [show t = s from ringHead_frame h]; exact popped_refl s
  | port q => exact popPort_frame h
  | chan c => exact popChan_frame h

/-- What reading a source leaves as it was. -/
theorem src_keeps {o : Opnd} {v : Word} {s t : State} (h : src o s = .ok (v, t)) :
    t.mem = s.mem ∧ t.others = s.others ∧ t.due = s.due ∧ t.core.id = s.core.id ∧ t.ctx.x = s.ctx.x ∧ t.ctx.v = s.ctx.v ∧
      t.ctx.status = s.ctx.status ∧ t.ctx.pc = s.ctx.pc ∧ t.ctx.hints = s.ctx.hints ∧ t.ctx.loops = s.ctx.loops ∧
      t.ctx.mode = s.ctx.mode ∧ t.ctx.gang = s.ctx.gang := by
  obtain ⟨_, _, _, _, rfl⟩ := src_frame h
  exact ⟨rfl, rfl, rfl, rfl, rfl, rfl, rfl, rfl, rfl, rfl, rfl, rfl⟩

/-! ## Destinations -/

/-- An x register takes a result where no token is pending in it; the result enters the history (R46). -/
theorem dst_x {s : State} {w v : Word} {r : BitVec 5} (h : s.ctx.pend.getLsbD r.toNat = false) :
    dst w (.x r) v s = .ok ((), s.mapCtx fun k => (k.pushHist v).writeX r v) := by
  show writeReg r v s = _
  unfold writeReg
  simp only [bind_def, ctx_apply, h]
  rfl

theorem dst_x_pending {s : State} {w v : Word} {r : BitVec 5} (h : s.ctx.pend.getLsbD r.toNat = true) :
    dst w (.x r) v s = .error (.wait id) := by
  show writeReg r v s = _
  unfold writeReg
  simp only [bind_def, ctx_apply, h]
  rfl

theorem dst_hist (s : State) (w v : Word) (n : BitVec 3) : dst w (.hist n) v s = .error (.trap 0x01 w s.ctx.pops none) := rfl
theorem dst_ring (s : State) (w v : Word) (h : BitVec 3) : dst w (.ring h) v s = .error (.trap 0x01 w s.ctx.pops none) := rfl

/-- A register destination changes x registers and the history in use, and nothing else. -/
theorem dst_x_frame {s t : State} {w v : Word} {r : BitVec 5} (h : dst w (.x r) v s = .ok ((), t)) :
    ∃ x hi th, t = s.mapCtx fun k => { k with x := x, hist := hi, trapHist := th } := by
  by_cases hp : s.ctx.pend.getLsbD r.toNat = true
  · rw [dst_x_pending hp] at h; cases h
  · rw [dst_x (by simpa using hp)] at h
    cases h
    obtain ⟨hi, th, e⟩ := pushHist_frame s.ctx v
    obtain ⟨x, e2⟩ := writeX_frame (s.ctx.pushHist v) r v
    refine ⟨x, hi, th, ?_⟩
    simp only [State.mapCtx, State.ctx] at *
    rw [e2, e]

end Sys2Proof.Laws
end

