-- ==== Sys2Proof/Laws/Keeps.lean ====
section
/-! SUPPORT. Properties of the state that instructions keep: a property that the changes of a unit's run keep (`Stable`) is
kept by a unit whose program keeps it (`Keeps`), with the programs of M put together from their parts. -/

namespace Sys2Proof.Laws

open Sys2Proof.Machine

/-- A property that does not depend on what the run of a unit changes: the context in hand, other fields of a core than its
COREID, the acts due, and which core is in focus. -/
structure Stable (P : State → Prop) : Prop where
  focused : ∀ s (f : Core → Core), (f s.core).id = s.core.id → P s → P (s.mapFocus f)
  queued : ∀ s a t, P s → P (s.enqueue a t)
  moved : ∀ s id, P s → P (s.focus id)
  changed : ∀ s id (f : Core → Core), P s → P (s.modCore id f)

theorem Stable.mapCtx {P : State → Prop} (h : Stable P) {s : State} (f : Ctx → Ctx) (hs : P s) : P (s.mapCtx f) :=
  h.focused s (fun c => { c with front := f c.front }) rfl hs

theorem Stable.trace {P : State → Prop} (h : Stable P) {s : State} (ty : BitVec 4) (a : Word) (i : BitVec 8) (b : Word) (hs : P s) :
    P (s.trace ty a i b) := h.focused s _ (log_id ..) hs

theorem Stable.fatal {P : State → Prop} (h : Stable P) {s : State} (c : BitVec 8) (v : Word) (n : Nat) (l : List CoreId) (hs : P s) :
    P (s.fatal c v n l) := by
  unfold State.fatal
  exact h.queued _ _ _ (h.focused _ _ rfl (h.mapCtx _ (h.trace _ _ _ _ hs)))

theorem Stable.takeTrap {P : State → Prop} (h : Stable P) {s : State} (c : BitVec 8) (v : Word) (n : Nat) (l : List CoreId) (hs : P s) :
    P (s.takeTrap c v n l) := by
  unfold State.takeTrap
  dsimp only
  have base := h.focused _ (fun c => { c with watchdog := none, probed := none }) rfl
    (h.mapCtx (fun k => { k.detach with hints := [], pops := [], progress := .none }) hs)
  split
  · exact h.fatal _ _ _ _ base
  · exact h.mapCtx _ (h.trace _ _ _ _ base)

theorem Stable.trapBase {P : State → Prop} (h : Stable P) {s : State} (ps : List Pop) (keep : Option State) (hs : P (keep.getD s)) :
    P (trapBase s ps keep) := by
  unfold Machine.trapBase
  cases keep with
  | none => exact h.mapCtx _ (h.mapCtx _ hs)
  | some t => exact h.mapCtx _ hs

theorem Stable.retire {P : State → Prop} (h : Stable P) (s0 : State) {s1 : State} (fl : Flow) (ha : ∀ u, P u → P (fl.after u)) (hs : P s1) :
    P (retire s0 s1 fl) := by
  unfold Machine.retire
  dsimp only
  apply ha
  refine h.focused _ _ rfl (h.mapCtx _ ?_)
  split
  · exact h.trace _ _ _ _ hs
  · exact hs

/-! ## Programs -/

/-- What a program ends in keeps P: a result, what survives a trap, and what a wait leaves of any state. -/
def Kept {α : Type} (P : State → Prop) (Q : α → Prop) : Except Stop (α × State) → Prop
  | .ok (a, t) => P t ∧ Q a
  | .error (.trap _ _ _ keep) => ∀ t, keep = some t → P t
  | .error (.wait f) => ∀ t, P t → P (f t)
  | .error _ => True

/-- The program keeps P, and its result meets Q. -/
def Keeps {α : Type} (P : State → Prop) (m : M α) (Q : α → Prop := fun _ => True) : Prop := ∀ s, P s → Kept P Q (m s)

variable {P : State → Prop} {α β : Type}

theorem keeps_bind {Q : α → Prop} {R : β → Prop} {m : M α} {f : α → M β} (hm : Keeps P m Q) (hf : ∀ a, Q a → Keeps P (f a) R) :
    Keeps P (m >>= f) R := by
  intro s hs
  rw [bind_def]
  have := hm s hs
  cases h : m s with
  | ok p => rw [h] at this; exact hf p.1 this.2 p.2 this.1
  | error e => rw [h] at this; cases e <;> exact this

theorem keeps_pure {Q : α → Prop} (a : α) (h : Q a) : Keeps P (pure a : M α) Q := fun _ hs => ⟨hs, h⟩
theorem keeps_ctx : Keeps P ctx := fun _ hs => ⟨hs, trivial⟩
/-- What is read of a state that meets P. -/
theorem keeps_get : Keeps P (get : M State) P := fun _ hs => ⟨hs, hs⟩
theorem keeps_set {t : State} (h : P t) : Keeps P (set t : M PUnit) := fun _ _ => ⟨h, trivial⟩
theorem keeps_modify {f : State → State} (h : ∀ s, P s → P (f s)) : Keeps P (modify f : M PUnit) := fun s hs => ⟨h s hs, trivial⟩
theorem keeps_modCtx (h : Stable P) (f : Ctx → Ctx) : Keeps P (modCtx f) := fun _ hs => ⟨h.mapCtx f hs, trivial⟩
theorem keeps_trap (c : BitVec 8) (v : Word) (Q : α → Prop) : Keeps P (trap c v : M α) Q := fun _ _ => by intro t ht; cases ht
theorem keeps_trapUnpopped (c : BitVec 8) (v : Word) (Q : α → Prop) : Keeps P (trapUnpopped c v : M α) Q :=
  fun _ _ => by intro t ht; cases ht
theorem keeps_trapKeep (c : BitVec 8) (v : Word) (Q : α → Prop) : Keeps P (trapKeep c v : M α) Q :=
  fun _ hs => by intro t ht; cases ht; exact hs
theorem keeps_wait {f : State → State} (h : ∀ s, P s → P (f s)) (Q : α → Prop) : Keeps P (wait f : M α) Q := fun _ _ => h
theorem keeps_guardTrap (ok : Bool) (c : BitVec 8) (v : Word) : Keeps P (guardTrap ok c v) := by
  unfold guardTrap
  split
  · exact keeps_pure _ trivial
  · exact keeps_trap c v _
theorem keeps_ite {Q : α → Prop} {c : Prop} [Decidable c] {m n : M α} (hm : c → Keeps P m Q) (hn : ¬c → Keeps P n Q) :
    Keeps P (if c then m else n) Q := by
  by_cases h : c
  · rw [if_pos h]; exact hm h
  · rw [if_neg h]; exact hn h
theorem keeps_weaken {Q R : α → Prop} {m : M α} (h : Keeps P m Q) (hq : ∀ a, Q a → R a) : Keeps P m R := by
  intro s hs
  have := h s hs
  cases e : m s with
  | ok p => rw [e] at this; exact ⟨this.1, hq _ this.2⟩
  | error x => rw [e] at this; cases x <;> exact this

theorem keeps_takeHeld (h : Stable P) : Keeps P takeHeld := by
  intro s hs
  cases e : takeHeld s with
  | ok p => obtain ⟨w, t⟩ := p; obtain ⟨_, _, _, _, rfl⟩ := takeHeld_frame e; exact ⟨h.mapCtx _ hs, trivial⟩
  | error x =>
    unfold takeHeld at e
    split at e
    · split at e <;> cases e
    · cases e

theorem keeps_popped (h : Stable P) (o : Opnd) (v : Word) : Keeps P (popped o v) := fun _ hs => ⟨h.mapCtx _ hs, trivial⟩

theorem Stable.inReceive (h : Stable P) (r : Recv) {s : State} (hs : P s) : P (s.inReceive r) := by
  have br : ∀ (c : Prop) [Decidable c] (x y : State), P x → P y → P (if c then x else y) := by
    intro c _ x y hx hy; split <;> assumption
  exact br _ _ _ (h.mapCtx _ hs) (h.queued _ _ _ (h.focused _ _ rfl (h.mapCtx _ hs)))

theorem keeps_waitReceive (h : Stable P) (r : Recv) (Q : α → Prop) : Keeps P (waitReceive r : M α) Q :=
  keeps_wait (fun _ hs => h.inReceive r hs) Q

theorem keeps_ringOf (r : BitVec 3) : Keeps P (ringOf r) := by
  unfold ringOf
  refine keeps_bind keeps_get fun u _ => ?_
  split
  · exact keeps_trapUnpopped _ _ _
  · exact keeps_ite (fun _ => keeps_trapUnpopped _ _ _) fun _ => keeps_pure _ trivial

theorem keeps_ringHead (h : Stable P) (r : BitVec 3) (n : Nat) : Keeps P (ringHead r n) := by
  unfold ringHead
  refine keeps_bind (keeps_ringOf r) fun g _ => keeps_bind keeps_get fun u _ => ?_
  exact keeps_ite (fun _ => keeps_trap _ _ _) fun _ => keeps_ite (fun _ => keeps_pure _ trivial) fun _ =>
    keeps_ite (fun _ => keeps_waitReceive h _ _) fun _ => keeps_wait (fun _ ht => ht) _

theorem keeps_popPort (h : Stable P) (q : BitVec 2) : Keeps P (popPort q) := by
  unfold popPort
  refine keeps_bind (keeps_takeHeld h) fun w _ => ?_
  split
  · exact keeps_pure _ trivial
  · refine keeps_bind keeps_ctx fun k _ => ?_
    dsimp only
    split
    · exact keeps_popped h _ _
    · exact keeps_ite (fun _ => keeps_trapUnpopped _ _ _) fun _ => keeps_wait (fun _ ht => ht) _

theorem keeps_popChan (h : Stable P) (c : BitVec 3) : Keeps P (popChan c) := by
  unfold popChan
  refine keeps_bind (keeps_takeHeld h) fun w _ => ?_
  split
  · exact keeps_pure _ trivial
  · refine keeps_bind keeps_ctx fun k _ => ?_
    dsimp only
    split
    · exact keeps_trapUnpopped _ _ _
    · refine keeps_ite (fun _ => keeps_trapUnpopped _ _ _) fun _ => ?_
      split
      · exact keeps_popped h _ _
      · exact keeps_waitReceive h _ _

/-- A source keeps what is stable. -/
theorem keeps_src (h : Stable P) (o : Opnd) : Keeps P (src o) := by
  cases o with
  | x r =>
    intro s hs
    by_cases hp : s.ctx.pend.getLsbD r.toNat = true
    · rw [src_x_pending hp]; exact fun t ht => ht
    · rw [src_x (by simpa using hp)]; exact ⟨hs, trivial⟩
  | hist n => exact fun s hs => ⟨hs, trivial⟩
  | ring r => exact keeps_ringHead h r 1
  | port q => exact keeps_popPort h q
  | chan c => exact keeps_popChan h c

/-! ## Units -/

/-- The flow of a unit whose program keeps P keeps P after its retirement. -/
def FlowKeeps (P : State → Prop) (fl : Flow) : Prop := ∀ u, P u → P (fl.after u)

theorem flow_next : FlowKeeps P {} := fun _ h => h
theorem keeps_next : Keeps P next (FlowKeeps P) := keeps_pure _ flow_next

/-- A unit alone keeps what its program keeps. -/
theorem unit_keeps (h : Stable P) {m : M Flow} (hm : Keeps P m (FlowKeeps P)) {s t : State} (hs : P s) (solo : Solo s)
    (e : unit m s = .next t) : P t := by
  rw [unit_solo solo] at e
  unfold memberRun at e
  have k := hm s hs
  cases r : m s with
  | ok p =>
    rw [r] at k
    simp only [r] at e
    cases e
    exact h.retire s _ k.2 k.1
  | error x =>
    rw [r] at k
    simp only [r] at e
    cases x with
    | trap c v ps keep =>
      cases e
      exact h.takeTrap _ _ _ _ (h.trapBase _ _ (by cases keep with
        | none => exact hs
        | some t => exact k t rfl))
    | wait f => cases e; exact k s hs
    | fault r => cases e
    | refused r => cases e

/-! ## Two properties -/

/-- Memory's canonical form is stable: nothing of a unit's run but a write touches memory. -/
theorem stable_inv : Stable State.Inv where
  focused _ _ _ hs := hs
  queued _ _ _ hs := hs
  moved s id hs := by obtain ⟨k, o, e⟩ := focus_frame s id; rw [e]; exact hs
  changed s id f hs := by obtain ⟨k, o, e⟩ := modCore_frame s id f; rw [e]; exact hs

/-- Every core's name is stable. -/
theorem stable_named : Stable State.Named where
  focused _ f hf hs := named_mapFocus hs f hf
  queued _ _ _ hs := hs
  moved _ id hs := named_focus hs id
  changed _ id f hs := named_modCore hs id f

/-- The memory of the reset state is in its canonical form. -/
theorem reset_inv : State.reset.Inv := rfl

end Sys2Proof.Laws
end

