-- ==== Sys2Proof/Laws/Registers.lean ====
section
/-! SUPPORT. Registers of a context: a read after a write. -/

namespace Sys2Proof.Laws

open Sys2Proof.Machine

theorem get_set_vector {α : Type} {n : Nat} (v : Vector α n) (i j : Fin n) (x : α) :
    (v.set i.val x i.isLt).get j = if j = i then x else v.get j := by
  show (v.set i.val x i.isLt)[j.val] = if j = i then x else v[j.val]
  rw [Vector.getElem_set]
  by_cases h : j = i
  · subst h; simp
  · have : ¬i.val = j.val := fun e => h (Fin.ext e.symm)
    rw [if_neg this, if_neg h]

theorem toFin_ne {n : Nat} {r q : BitVec n} (h : q ≠ r) : ¬q.toFin = r.toFin :=
  fun e => h (BitVec.eq_of_toFin_eq e)

@[simp] theorem readX_zero (k : Ctx) : k.readX 0 = 0 := rfl

theorem readX_writeX_same (k : Ctx) {r : BitVec 5} (h : r ≠ 0) (v : Word) : (k.writeX r v).readX r = v := by
  unfold Ctx.writeX Ctx.readX
  rw [if_neg h, if_neg h]
  exact (get_set_vector k.x r.toFin r.toFin v).trans (if_pos rfl)

theorem readX_writeX_other (k : Ctx) {r q : BitVec 5} (h : q ≠ r) (v : Word) : (k.writeX r v).readX q = k.readX q := by
  unfold Ctx.writeX Ctx.readX
  split
  · rfl
  · split
    · rfl
    · exact (get_set_vector k.x r.toFin q.toFin v).trans (if_neg (toFin_ne h))

@[simp] theorem readV_writeV_same (k : Ctx) (r : BitVec 5) (v : BitVec 1024) : (k.writeV r v).readV r = v :=
  (get_set_vector k.v r.toFin r.toFin v).trans (if_pos rfl)
theorem readV_writeV_other (k : Ctx) {r q : BitVec 5} (h : q ≠ r) (v : BitVec 1024) : (k.writeV r v).readV q = k.readV q :=
  (get_set_vector k.v r.toFin q.toFin v).trans (if_neg (toFin_ne h))

theorem readP_writeP_same (k : Ctx) {r : BitVec 3} (h : r ≠ 0) (v : BitVec 128) : (k.writeP r v).readP r = v := by
  unfold Ctx.writeP Ctx.readP
  rw [if_neg h, if_neg h]
  exact (get_set_vector k.p r.toFin r.toFin v).trans (if_pos rfl)
theorem readP_writeP_other (k : Ctx) {r q : BitVec 3} (h : q ≠ r) (v : BitVec 128) : (k.writeP r v).readP q = k.readP q := by
  unfold Ctx.writeP Ctx.readP
  split
  · rfl
  · split
    · rfl
    · exact (get_set_vector k.p r.toFin q.toFin v).trans (if_neg (toFin_ne h))

@[simp] theorem readT_writeT_same (k : Ctx) (r : BitVec 3) (v : Tile) : (k.writeT r v).readT r = v :=
  (get_set_vector k.t r.toFin r.toFin v).trans (if_pos rfl)
theorem readT_writeT_other (k : Ctx) {r q : BitVec 3} (h : q ≠ r) (v : Tile) : (k.writeT r v).readT q = k.readT q :=
  (get_set_vector k.t r.toFin q.toFin v).trans (if_neg (toFin_ne h))

@[simp] theorem readF_writeF_same (k : Ctx) (r : BitVec 3) (v : TileFlags) : (k.writeF r v).readF r = v :=
  (get_set_vector k.tf r.toFin r.toFin v).trans (if_pos rfl)
theorem readF_writeF_other (k : Ctx) {r q : BitVec 3} (h : q ≠ r) (v : TileFlags) : (k.writeF r v).readF q = k.readF q :=
  (get_set_vector k.tf r.toFin q.toFin v).trans (if_neg (toFin_ne h))

/-- x0 reads as zero whatever is written to it (R43). -/
theorem readX_writeX_zero (k : Ctx) (v : Word) : (k.writeX 0 v).readX 0 = 0 := rfl

end Sys2Proof.Laws
end

