-- ==== Sys2Proof/Tests/Base.lean ====
section
/-! SUPPORT. The small states that the tests and the witnesses use, and how a result is read off. -/

-- One theorem after the other: elaborating many at once needs more threads than the memory limit holds.
set_option Elab.async false

namespace Sys2Proof.Tests

open Sys2Proof.Machine

/-! ## Results -/

def okVal {ε α : Type} (r : Except ε (α × State)) : Option α :=
  match r with
  | .ok (v, _) => some v
  | .error _ => none

@[irreducible] def okState {ε α : Type} (r : Except ε (α × State)) : State :=
  match r with
  | .ok (_, s) => s
  | .error _ => State.reset

theorem ok_of_okVal {ε α : Type} {r : Except ε (α × State)} {v : α} (h : okVal r = some v) : r = .ok (v, okState r) := by
  cases r with
  | error e => cases h
  | ok p => cases p; cases h; unfold okState; rfl

/-- The state after an instruction. -/
def nextOf (o : Host.Outcome State Fault Refusal) : State :=
  match o with
  | .next s => s
  | _ => State.reset

def isNext (o : Host.Outcome State Fault Refusal) : Bool :=
  match o with
  | .next _ => true
  | _ => false

theorem next_of_isNext {o : Host.Outcome State Fault Refusal} (h : isNext o = true) : o = .next (nextOf o) := by
  cases o <;> first | rfl | cases h

theorem next_eq {o : Host.Outcome State Fault Refusal} {t : State} (h : isNext o = true) (e : nextOf o = t) : o = .next t := by
  rw [next_of_isNext h, e]

/-- A hypothesis is met: what its check decides. -/
theorem met {p : Prop} (h : p) : p := h

/-- A member of a list by its place. -/
theorem nth {α : Type} {a : α} {l : List α} (n : Nat) (h : l[n]? = some a) : a ∈ l := List.mem_of_getElem? h

/-! ## States -/

/-- A page entry: V, the bits named, and NEXT. -/
def pte (flags pa : Nat) : List Byte := bytesOfNat 8 (1 + flags + pa)

/-- L, R, W and X; TD; DH. -/
def leaf : Nat := 2 + 4 + 8 + 16
def td : Nat := 2 ^ 8
def dh : Nat := 2 ^ 9

/-- Core 0 live at KERNEL level at address 0x100 of its local memory, its handler at 0x40; tenant 0 owns the first
granules of the pool and of the stacks. Pages of 8 MiB from address 0x800000 on: the pool, control space, the windows of
the cores of cluster 0, the stacks, rank space with DH, fabric space of package 0, and the pool with DH. -/
@[irreducible] def base : State :=
  let s : State := { State.reset with pown := [(0, 0x80), (1, 0x80), (2, 0x80), (3, 0x80), (4, 0x80), (5, 0x80), (6, 0x80), (7, 0x80)], sown := [(0, 0x80)] }
  let s := s.setCluster 0 { Cluster.reset with xroot := BitVec.ofNat 64 (2 ^ 48 + 1) }
  let s := ((s.poke (2 ^ 48) (pte 0 (2 ^ 48 + 8192))).poke (2 ^ 48 + 8192) (pte 0 (2 ^ 48 + 16384)))
  let s := s.poke (2 ^ 48 + 16384 + 8) (pte leaf (2 ^ 48) ++ pte leaf (3 * 2 ^ 48) ++ pte leaf (2 * 2 ^ 48) ++ pte leaf 0 ++
    pte (leaf + dh) (4 * 2 ^ 48) ++ pte (leaf + td) (2 ^ 51) ++ pte (leaf + dh) (2 ^ 48))
  s.mapCtx fun k => { k with life := .live, pc := 0x100, tvec := 0x40, status := 2 }

/-- With registers. -/
def withX (l : List (BitVec 5 × Word)) (s : State) : State :=
  s.mapCtx fun k => l.foldl (fun k p => k.writeX p.1 p.2) k

end Sys2Proof.Tests
end

