-- ==== Sys2Proof/Tests/Slice0.lean ====
section
/-! SUPPORT. Tests: terms that no word may hold, words that are refused, and single steps, their results worked out by
hand from the rules that each test names. -/

-- One theorem after the other: elaborating many at once needs more threads than the memory limit holds.
set_option Elab.async false

namespace Sys2Proof.Tests

open Sys2Proof.Machine

/-! ## Ill-formed terms, one for each check of WellFormed -/

def illFormed (l : List Instr) : Bool := l.all fun i => !i.wf

/-- R43, R57: a specifier from 32 to 47 is no destination. -/
theorem test_wf_destinations : illFormed [
    .add (.hist 0) default default, .sub (.hist 0) default default, .and (.hist 0) default default, .or (.hist 0) default default,
    .xor (.hist 0) default default, .andn (.hist 0) default default, .sll (.hist 0) default default, .srl (.hist 0) default default,
    .sra (.hist 0) default default, .rol (.hist 0) default default, .mul (.hist 0) default default, .mulh (.hist 0) default default,
    .mulhu (.hist 0) default default, .div (.hist 0) default default, .divu (.hist 0) default default, .rem (.hist 0) default default,
    .remu (.hist 0) default default, .min (.hist 0) default default, .max (.hist 0) default default, .minu (.hist 0) default default,
    .maxu (.hist 0) default default, .slt (.hist 0) default default, .sltu (.hist 0) default default, .seq (.hist 0) default default,
    .clz (.hist 0) default, .ctz (.hist 0) default, .popc (.hist 0) default, .bfx (.hist 0) default default, .addi (.hist 0) default default,
    .andi (.hist 0) default default, .ori (.hist 0) default default, .xori (.hist 0) default default, .slti (.hist 0) default default,
    .sltiu (.hist 0) default default, .slli (.hist 0) default default, .srli (.hist 0) default default, .srai (.hist 0) default default,
    .roli (.hist 0) default default, .lui (.hist 0) default, .auipc (.hist 0) default, .fadd (.hist 0) default default,
    .fsub (.hist 0) default default, .fmul (.hist 0) default default, .fdiv (.hist 0) default default] = true := by decide
theorem test_wf_more_destinations : illFormed [
    .fsqrt (.hist 0) default, .fmin (.hist 0) default default, .fmax (.hist 0) default default, .feq (.hist 0) default default,
    .flt (.hist 0) default default, .fle (.hist 0) default default, .fclass (.hist 0) default, .fcvt (.hist 0) default default,
    .jal (.hist 0) default, .jalr (.hist 0) default default, .ld (.hist 0) default default default, .lda (.hist 0) default default default,
    .ldbit (.hist 0) default default default, .aadd (.hist 0) default default default, .amin (.hist 0) default default default,
    .amax (.hist 0) default default default, .aand (.hist 0) default default default, .aor (.hist 0) default default default,
    .axor (.hist 0) default default default, .aswp (.hist 0) default default default, .rwlr (.hist 0) default, .rwlw (.hist 0) default,
    .rwur (.hist 0) default, .rwuw (.hist 0) default, .sysr (.hist 0) default, .wait (.hist 0) default default, .waitany (.hist 0) default default,
    .rfill (.hist 0) default default default, .ltest (.hist 0) default, .gang (.hist 0) default, .gjoin (.hist 0) default, .grejoin (.hist 0) default,
    .hreg (.hist 0) default default, .harr (.hist 0) default, .hwait (.hist 0) default default, .hsync (.hist 0) default, .hdarr (.hist 0) default,
    .sstep (.hist 0) default default, .stdecl (.hist 0) default, .tspawn (.hist 0) default, .dmode (.hist 0) default, .ldadj (.hist 0) default,
    .rkstat (.hist 0) default default, .dombar (.hist 0) default, .fstat (.hist 0) default] = true := by decide

/-- R96: a destination that is also read is an x register; R306: a source position of those. -/
theorem test_wf_read_destinations : illFormed [
    .bfi (.ring 7) default default, .bfi (.port 0) default default, .fma (.ring 7) default default, .fma (.port 0) default default,
    .acas (.ring 7) default default default, .acas (.port 0) default default default, .abadd (.ring 7) default default default,
    .abadd (.port 0) default default default, .dregset (.port 3) default default, .stadj (.port 3) default, .accadj (.port 3) default default] = true := by decide

/-- R166, R231, R344, R359: no token 0; R109, R332: no loop of an empty body. -/
theorem test_wf_tokens : illFormed [
    .loop default default 0, .loopi default default 0, .copy 0 default default default, .copy2d 0 default default default,
    .gather 0 default default default, .scatter 0 default default, .xpose 0 default default default, .updt 0 default, .fmt 0 default,
    .rkload 0 default default, .rkrun 0 default, .smode 0 default, .sLoop default 0 default, .coll 0 default] = true := by decide

/-- R160: RSET of an x register, of a history entry and of a port. -/
theorem test_wf_rset : illFormed [.rset (.x 1) default default, .rset (.hist 0) default default, .rset (.port 0) default default] = true := by decide

/-- R126 to R128, R133, R135, R145: types that an instruction does not take; a mask that is p0; a condition of the other class. -/
theorem test_wf_vector_types : illFormed [
    .vsll default default default default .f32, .vsrl default default default default .bf16, .vsra default default default default .f16,
    .vpopc default default default .e4m3, .vcmp .eq default default 0 .i32, .vcmp .ltu default default 1 .f32, .vcmp .un default default 1 .i8,
    .vclass default default default .i16, .viota default default .e5m2, .vexp2 default default default .i32, .vrcp default default default .e4m3,
    .vrsq default default default .i8, .vlog2 default default default .e5m2, .vaadd default default default default .i8,
    .vaor default default default default .f32, .vamax default default default default .f16, .vredadd default default default default .i16] = true := by decide

/-- R130: a part that the lane counts do not have: of equal counts, of a narrowing, of a widening; R133: a lane past the last. -/
theorem test_wf_vector_parts : illFormed [
    .vcvt default default 1 .f32 default .i32, .vcvt default default 2 .bf16 default .f32, .vcvt default default 2 .f32 default .bf16,
    .vext default default 0 1 .f32, .vext default default 31 3 .bf16] = true := by decide

/-- R141: a field wider than the lane; a type that is not an integer. -/
theorem test_wf_vector_bits : illFormed [
    .vldbit default default default 8 default .i8, .vldbit default default default 0 default .f32,
    .vstbit default default default 16 default .i16, .vstbit default default default 0 default .bf16] = true := by decide

/-- R174, R178, R179: units past the 128th; a product of N of 12 with K = 32, with BF16 and with INT8 weights; R185: an index vector named
by a store that does not scatter; R189: BTS past the 64th bit. -/
theorem test_wf_tiles : illFormed [
    .mldw default 127 1, .mm default default 127 .k32 .bf16_bf16, .mmg default default 127 .k96 .e4m3_e4m3 default,
    .mms default default 0 .k32 .e4m3_e4m3 default, .mms default default 0 .k48 .bf16_bf16 default, .mms default default 0 .k96 .i8_i8 default,
    .mms default default 127 .k48 .e4m3_e4m3 true, .mst default 1 default default default false, .bts default 64 default default] = true := by decide

/-! ## Refused words -/

/-- R42, R57: the reserved words, a reserved OP, a field that no form uses, and a destination that is none. -/
theorem test_refused_words : ([0, 0xFFFFFFFF, 0xE0000000,
    1 * 2 ^ 26 + 3 * 2 ^ 20 + 1 * 2 ^ 14 + 2 * 2 ^ 8 + 63,
    1 * 2 ^ 26 + 32 * 2 ^ 20 + 1 * 2 ^ 14 + 2 * 2 ^ 8] : List Nat).all (fun w => decodeTableWord 32 w == none) = true := by decide

/-! ## Single steps from reset -/

/-- The state after the word w has run as the first instruction after reset. -/
def first (w : Nat) : State := nextOf (step (State.reset.withFetchWord 32 w))

/-- R101: `ADDI x5, x0, -100`. -/
theorem test_step_addi : (first 0x08503F9C).ctx.readX 5 = BitVec.ofInt 64 (-100) := by decide +kernel
/-- R103: `LUI x5, -2^19` gives -2^33. -/
theorem test_step_lui : (first 0x24580000).ctx.readX 5 = BitVec.ofInt 64 (-(2 ^ 33)) := by decide +kernel
/-- R108: `JAL x1, +2` from address 0. -/
theorem test_step_jal : ((first 0x48100002).ctx.pc, (first 0x48100002).ctx.readX 1) = (8, 4) := by decide +kernel
/-- R57, R75: word 0 is illegal; with TVEC 0 the trap is fatal, of cause 0x01 and value the word. -/
theorem test_step_illegal : (match (first 0).ctx.life with
    | .dead d => some (d.cause, d.value)
    | _ => none) = some (0x01, 0) := by decide +kernel

/-! ## Single instructions -/

/-- x1 = 2^63 - 1, x2 = -1, x3 = 0x900000 in the pool, x4 = 3. -/
@[irreducible] def small : State := withX [(1, 0x7FFFFFFFFFFFFFFF), (2, BitVec.ofInt 64 (-1)), (3, 0x900000), (4, 3)] base
def after (i : Instr) : State := nextOf (exec i small)

/-- R98: sums wrap, and STATUS has no flag of it. -/
theorem test_add_wraps : (after (.add (.x 1) (.x 1) (.x 4))).ctx.readX 1 = 0x8000000000000002 := by decide +kernel
/-- R98: the high half of (2^64 - 1)^2. -/
theorem test_mulhu : (after (.mulhu (.x 5) (.x 2) (.x 2))).ctx.readX 5 = BitVec.ofInt 64 (-2) := by decide +kernel
/-- R99: division by 0 gives all ones. -/
theorem test_div_zero : (after (.div (.x 5) (.x 1) (.x 0))).ctx.readX 5 = BitVec.ofInt 64 (-1) := by decide +kernel
/-- R98: SRA of -1 by 3. -/
theorem test_sra : (after (.sra (.x 5) (.x 2) (.x 4))).ctx.readX 5 = BitVec.ofInt 64 (-1) := by decide +kernel
/-- x0 stays 0. -/
theorem test_x0 : (after (.addi (.x 0) (.x 4) 1)).ctx.readX 0 = 0 := by decide +kernel
/-- R9, R112: the least significant byte lies at the lowest address; the second byte of 2^63 - 1 is 0xFF, the last 0x7F. -/
theorem test_store_order : (let s := after (.st (.x 1) (.x 3) .w8 0); (s.byte (2 ^ 48 + 0x100001), s.byte (2 ^ 48 + 0x100007))) = (0xFF, 0x7F) := by decide +kernel
/-- R113: a misaligned store traps with cause 0x03 and the address, and stores nothing. -/
theorem test_store_misaligned : (let s := after (.st (.x 1) (.x 3) .w8 0); let t := nextOf (exec (.st (.x 1) (.x 2) .w8 0) s); (t.ctx.ecause, t.ctx.evalue)) =
    (0x03, BitVec.ofInt 64 (-1)) := by decide +kernel
/-- R250: an atomic addition gives the old element and leaves the sum. -/
theorem test_atomic_add : (let s := nextOf (exec (.aadd (.x 5) (.x 3) (.x 4) .relaxed) (after (.st (.x 4) (.x 3) .w8 0))); (s.ctx.readX 5, s.byte (2 ^ 48 + 0x100000))) = (3, 6) := by
  decide +kernel
/-- R118, R73: `ECALL 5` at KERNEL level at 0x100, with TVEC = 0x40. -/
theorem test_ecall : (let k := (after (.ecall 5)).ctx; (k.ecause, k.evalue, k.epc, k.trapBit, k.pl, k.ppl, k.pc)) = (0x08, 5, 0x100, true, 1, 1, 0x40) := by decide +kernel
/-- R74: ERET goes back to EPC at the level that was. -/
theorem test_eret : (let s := nextOf (exec .eret (after (.ecall 5))); (s.ctx.pc, s.ctx.pl, s.ctx.trapBit)) = (0x100, 1, false) := by decide +kernel

/-! ## The functions that R218 and R362 name, on the vectors that their standards publish -/

/-- FIPS 180-4's example: SHA-384 of the three bytes of abc. -/
theorem test_sha384 : sha384 [0x61, 0x62, 0x63] =
    bytesHigh 48 (0xcb00753f45a35e8bb5a03d699ac65007272c32ab0eded1631a8b605a43ff5bed8086072ba1e7cc2358baeca134c825a7 : BitVec 384) := by decide +kernel
/-- The GCM submission's test case 14: 16 bytes of zero under the zero key and nonce. -/
theorem test_gcm : gcmSeal 0 0 [] (List.replicate 16 0) =
    (bytesHigh 16 (0xcea7403d4d606b6e074ec5d3baf39d18 : BitVec 128), 0xd0d1c8a799996bf0265b98b5d48ab919) := by decide +kernel

end Sys2Proof.Tests
end

