-- ==== Sys2Proof/Tests/Witness1.lean ====
section
/-! SUPPORT. Witnesses for the statements: each theorem applies a statement (or a part of it) to a concrete state and
concrete operands, and its proof discharges there every hypothesis of the clauses that it names, so that they can be
met together; what it concludes is what the statement then says of that state. Here: operands, integers, scalar
floating point, control flow. -/

-- One theorem after the other: elaborating many at once needs more threads than the memory limit holds.
set_option Elab.async false

open Sys2Proof Sys2Proof.Machine Sys2Proof.Statements

namespace Sys2Proof.Tests

/-! ## How hypotheses are met -/

theorem solo {s : State} (h : (s.ctx.gang.gang && s.ctx.gang.lead) = false) : Solo s := h

theorem readsX {s : State} {r : BitVec 5} {v : Word} (hp : s.ctx.pend.getLsbD r.toNat = false) (hv : s.ctx.readX r = v) :
    Reads (.x r) s v s := by
  subst hv; exact Laws.src_x hp

theorem reads {o : Opnd} {s : State} {v : Word} (h : okVal (src o s) = some v) : Reads o s v (okState (src o s)) := ok_of_okVal h

theorem writes {i : Instr} {o : Opnd} {v : Word} {s : State} (h : okVal (dst (wordOf i) o v s) = some ()) :
    Writes i o v s (okState (dst (wordOf i) o v s)) := ok_of_okVal h

/-- The state with a result in a register, as the destination of an instruction takes it. -/
@[irreducible] def put (i : Instr) (r : BitVec 5) (v : Word) (s : State) : State := okState (dst (wordOf i) (.x r) v s)

theorem writesX {i : Instr} {r : BitVec 5} {v v' : Word} {s : State} (e : v = v') (h : okVal (dst (wordOf i) (.x r) v' s) = some ()) :
    Writes i (.x r) v s (put i r v' s) := by
  subst e; unfold put; exact ok_of_okVal h

/-! ## Integers -/

/-- x1 = 2^64 - 3, x2 = 5. -/
@[irreducible] def w1 : State := withX [(1, BitVec.ofInt 64 (-3)), (2, 5)] base

theorem witness_IntegerRegisterResults_add (h : Obligations.IntegerRegisterResults) :
    exec (.add (.x 3) (.x 1) (.x 2)) w1 = .next (retire w1 (put (.add (.x 3) (.x 1) (.x 2)) 3 2 w1) {}) :=
  h w1 w1 w1 _ (.x 3) (.x 1) (.x 2) (BitVec.ofInt 64 (-3)) 5 _ _ (solo (met (by decide +kernel))) (readsX (met (by decide +kernel)) (met (by decide +kernel))) (readsX (met (by decide +kernel)) (met (by decide +kernel))) (.head _) (writesX (met (by decide +kernel)) (met (by decide +kernel)))

theorem witness_IntegerRegisterResults_rem0 (h : Obligations.IntegerRegisterResults) :
    exec (.rem (.x 0) (.x 1) (.x 0)) w1 = .next (retire w1 (put (.rem (.x 0) (.x 1) (.x 0)) 0 (BitVec.ofInt 64 (-3)) w1) {}) :=
  h w1 w1 w1 _ (.x 0) (.x 1) (.x 0) (BitVec.ofInt 64 (-3)) 0 (.rem (.x 0) (.x 1) (.x 0)) (rest (BitVec.ofInt 64 (-3)) 0) (solo (met (by decide +kernel))) (readsX (met (by decide +kernel)) (met (by decide +kernel)))
    (readsX (met (by decide +kernel)) (met (by decide +kernel))) (by simp) (writesX (met (by decide +kernel)) (met (by decide +kernel)))

/-- Counts at the ends of their ranges, 0 and 64; a field that reaches bit 63; a field put into its destination. -/
@[irreducible] def w1a : State := withX [(4, 0x203F)] w1
@[irreducible] def w1b : State := withX [(4, 0x0204)] w1

theorem witness_BitCountAndFieldResults_clz0 (h : BitCountAndFieldResults) :
    exec (.clz (.x 3) (.x 1)) w1 = .next (retire w1 (put (.clz (.x 3) (.x 1)) 3 0 w1) {}) :=
  (h w1 w1 _ w1 w1 (.x 3) (.x 1) (.x 1) (BitVec.ofInt 64 (-3)) 0 0 (solo (met (by decide +kernel))) (readsX (met (by decide +kernel)) (met (by decide +kernel)))).1
    0 (by decide) (by omega) (.inr (by decide)) (writesX (met (by decide +kernel)) (met (by decide +kernel)))

theorem witness_BitCountAndFieldResults_ctz64 (h : BitCountAndFieldResults) :
    exec (.ctz (.x 3) (.x 0)) w1 = .next (retire w1 (put (.ctz (.x 3) (.x 0)) 3 64 w1) {}) :=
  (h w1 w1 _ w1 w1 (.x 3) (.x 0) (.x 1) 0 0 0 (solo (met (by decide +kernel))) (readsX (met (by decide +kernel)) (met (by decide +kernel)))).2.1 64 (by decide) (fun j _ => by simp) (.inl rfl) (writesX (met (by decide +kernel)) (met (by decide +kernel)))

theorem witness_BitCountAndFieldResults_popc (h : BitCountAndFieldResults) :
    exec (.popc (.x 3) (.x 2)) w1 = .next (retire w1 (put (.popc (.x 3) (.x 2)) 3 2 w1) {}) :=
  (h w1 w1 _ w1 w1 (.x 3) (.x 2) (.x 1) 5 0 0 (solo (met (by decide +kernel))) (readsX (met (by decide +kernel)) (met (by decide +kernel)))).2.2.1 (writesX (met (by decide +kernel)) (met (by decide +kernel)))

theorem witness_BitCountAndFieldResults_bfx (h : BitCountAndFieldResults) :
    exec (.bfx (.x 3) (.x 1) (.x 4)) w1a = .next (retire w1a (put (.bfx (.x 3) (.x 1) (.x 4)) 3 1 w1a) {}) :=
  ((h w1a w1a w1a _ w1a (.x 3) (.x 1) (.x 4) (BitVec.ofInt 64 (-3)) 0x203F 0 (solo (met (by decide +kernel))) (readsX (met (by decide +kernel)) (met (by decide +kernel)))).2.2.2 (readsX (met (by decide +kernel)) (met (by decide +kernel))) 63 1
    (by decide) (by decide)).1 (writesX (met (by decide +kernel)) (met (by decide +kernel)))

theorem witness_BitCountAndFieldResults_bfi (h : BitCountAndFieldResults) :
    exec (.bfi (.x 2) (.x 1) (.x 4)) w1b = .next (retire w1b (put (.bfi (.x 2) (.x 1) (.x 4)) 2 0x15 w1b) {}) :=
  ((h w1b w1b w1b w1b _ (.x 2) (.x 1) (.x 4) (BitVec.ofInt 64 (-3)) 0x0204 5 (solo (met (by decide +kernel))) (readsX (met (by decide +kernel)) (met (by decide +kernel)))).2.2.2 (readsX (met (by decide +kernel)) (met (by decide +kernel))) 4 2
    (by decide) (by decide)).2 (readsX (met (by decide +kernel)) (met (by decide +kernel))) 0x15 (met (by decide +kernel)) (writesX (met (by decide +kernel)) (met (by decide +kernel)))

/-- A bound HINT.IMM widens the immediate. -/
@[irreducible] def w2 : State := w1.mapCtx fun k => { k with hints := [0xFC000001] }

theorem witness_ImmediateResults_addi (h : ImmediateResults) :
    exec (.addi (.x 3) (.x 2) 1) w2 = .next (retire w2 (put (.addi (.x 3) (.x 2) 1) 3 0x4006 w2) {}) :=
  (h w2 w2 _ (.x 3) (.x 2) 5 0x4001 1 0 0 _ _ (solo (met (by decide +kernel)))).1 (readsX (met (by decide +kernel)) (met (by decide +kernel))) (met (by decide +kernel)) (.head _) (writesX (met (by decide +kernel)) (met (by decide +kernel)))

theorem witness_ImmediateResults_srai (h : ImmediateResults) :
    exec (.srai (.x 3) (.x 1) 63) w1 = .next (retire w1 (put (.srai (.x 3) (.x 1) 63) 3 (BitVec.allOnes 64) w1) {}) :=
  (h w1 w1 _ (.x 3) (.x 1) (BitVec.ofInt 64 (-3)) 0 0 63 0 _ ((BitVec.ofInt 64 (-3)).sshiftRight 63) (solo (met (by decide +kernel)))).1 (readsX (met (by decide +kernel)) (met (by decide +kernel))) (met (by decide +kernel)) (by simp)
    (writesX (met (by decide +kernel)) (met (by decide +kernel)))

theorem witness_ImmediateResults_auipc (h : ImmediateResults) :
    exec (.auipc (.x 3) 0xFFFFF) w1 = .next (retire w1 (put (.auipc (.x 3) 0xFFFFF) 3 (0x100 - 0x4000) w1) {}) :=
  (h w1 w1 _ (.x 3) (.x 1) 0 0 0 0 0xFFFFF _ _ (solo (met (by decide +kernel)))).2 (.tail _ (.head _)) (writesX (met (by decide +kernel)) (met (by decide +kernel)))

/-! ## Scalar floating point -/

/-- x1 = 1.5, x2 = -2.0, x5 the canonical NaN. -/
@[irreducible] def w3 : State := withX [(1, 0x3FC00000), (2, 0xC0000000), (5, 0x7FC00000)] base
/-- With stochastic rounding. -/
@[irreducible] def w4 : State := w3.mapCtx fun k => { k with status := 0x82 }
@[irreducible] def w4a : State := okState (drawFor .stochastic w4)

theorem witness_FloatArithmeticResults_fadd (h : FloatArithmeticResults) :
    exec (.fadd (.x 3) (.x 1) (.x 2)) w3 = .next (retire w3 (put (.fadd (.x 3) (.x 1) (.x 2)) 3 0xBF000000 w3) {}) :=
  ((h w3 w3 w3 w3 _ w3 (.x 3) (.x 1) (.x 2) 0x3FC00000 0xC0000000 0 0 .nearest (solo (met (by decide +kernel))) (met (by decide +kernel)) (readsX (met (by decide +kernel)) (met (by decide +kernel)))).2 (readsX (met (by decide +kernel)) (met (by decide +kernel)))).1
    _ _ (.head _) rfl (writesX (met (by decide +kernel)) (met (by decide +kernel)))

theorem witness_FloatArithmeticResults_fsqrt (h : FloatArithmeticResults) :
    exec (.fsqrt (.x 3) (.x 2)) w3 = .next (retire w3 (put (.fsqrt (.x 3) (.x 2)) 3 0x7FC00000 w3) {}) :=
  (h w3 w3 w3 _ w3 w3 (.x 3) (.x 2) (.x 2) 0xC0000000 0 0 0 .nearest (solo (met (by decide +kernel))) (met (by decide +kernel)) (readsX (met (by decide +kernel)) (met (by decide +kernel)))).1 _ rfl rfl (writesX (met (by decide +kernel)) (met (by decide +kernel)))

theorem witness_FloatArithmeticResults_fma (h : FloatArithmeticResults) :
    exec (.fma (.x 2) (.x 1) (.x 1)) w3 = .next (retire w3 (put (.fma (.x 2) (.x 1) (.x 1)) 2 0x3E800000 w3) {}) :=
  ((h w3 w3 w3 w3 w3 _ (.x 2) (.x 1) (.x 1) 0x3FC00000 0x3FC00000 0xC0000000 0 .nearest (solo (met (by decide +kernel))) (met (by decide +kernel)) (readsX (met (by decide +kernel)) (met (by decide +kernel)))).2 (readsX (met (by decide +kernel)) (met (by decide +kernel)))).2
    (readsX (met (by decide +kernel)) (met (by decide +kernel))) rfl (writesX (met (by decide +kernel)) (met (by decide +kernel)))

/-- Under stochastic rounding the unit draws once. -/
theorem witness_FloatArithmeticResults_fmul (h : FloatArithmeticResults) :
    exec (.fmul (.x 3) (.x 1) (.x 2)) w4 = .next (retire w4 (put (.fmul (.x 3) (.x 1) (.x 2)) 3 0xC0400000 w4a) {}) :=
  ((h w4 w4 w4 w4a _ w4 (.x 3) (.x 1) (.x 2) 0x3FC00000 0xC0000000 0 0 .stochastic (solo (met (by decide +kernel))) (met (by decide +kernel)) (readsX (met (by decide +kernel)) (met (by decide +kernel)))).2 (readsX (met (by decide +kernel)) (met (by decide +kernel)))).1
    _ _ (.tail _ (.tail _ (.head _))) (by unfold w4a; exact ok_of_okVal (met (by decide +kernel))) (writesX (met (by decide +kernel)) (met (by decide +kernel)))

theorem witness_FloatCompareAndConvertResults_fmin (h : FloatCompareAndConvertResults) :
    exec (.fmin (.x 3) (.x 1) (.x 5)) w3 = .next (retire w3 (put (.fmin (.x 3) (.x 1) (.x 5)) 3 0x3FC00000 w3) {}) :=
  (h w3 w3 w3 _ (.x 3) (.x 1) (.x 5) 0x3FC00000 0x7FC00000 0 .nearest _ _ (solo (met (by decide +kernel))) (met (by decide +kernel)) (readsX (met (by decide +kernel)) (met (by decide +kernel)))).1 (readsX (met (by decide +kernel)) (met (by decide +kernel))) (.head _) (writesX (met (by decide +kernel)) (met (by decide +kernel)))

theorem witness_FloatCompareAndConvertResults_fclass (h : FloatCompareAndConvertResults) :
    exec (.fclass (.x 3) (.x 5)) w3 = .next (retire w3 (put (.fclass (.x 3) (.x 5)) 3 0x200 w3) {}) :=
  (h w3 w3 _ w3 (.x 3) (.x 5) (.x 5) 0x7FC00000 0 0 .nearest (.sHalt) 0 (solo (met (by decide +kernel))) (met (by decide +kernel)) (readsX (met (by decide +kernel)) (met (by decide +kernel)))).2.1 (writesX (met (by decide +kernel)) (met (by decide +kernel)))

theorem witness_FloatCompareAndConvertResults_widen (h : FloatCompareAndConvertResults) :
    exec (.fcvt (.x 3) (.x 1) .bf16ToF32) w3 = .next (retire w3 (put (.fcvt (.x 3) (.x 1) .bf16ToF32) 3 0 w3) {}) :=
  (h w3 w3 _ w3 (.x 3) (.x 1) (.x 1) 0x3FC00000 0 0 .nearest (.sHalt) _ (solo (met (by decide +kernel))) (met (by decide +kernel)) (readsX (met (by decide +kernel)) (met (by decide +kernel)))).2.2.1 _ (.head _) (writesX (met (by decide +kernel)) (met (by decide +kernel)))

theorem witness_FloatCompareAndConvertResults_toInt (h : FloatCompareAndConvertResults) :
    exec (.fcvt (.x 3) (.x 1) .f32ToI32) w3 = .next (retire w3 (put (.fcvt (.x 3) (.x 1) .f32ToI32) 3 2 w3) {}) :=
  (h w3 w3 w3 _ (.x 3) (.x 1) (.x 1) 0x3FC00000 0 0 .nearest (.sHalt) _ (solo (met (by decide +kernel))) (met (by decide +kernel)) (readsX (met (by decide +kernel)) (met (by decide +kernel)))).2.2.2 rfl _ (.tail _ (.head _)) (writesX (met (by decide +kernel)) (met (by decide +kernel)))

/-! ## Control flow -/

/-- Loop level 1 active, its last word at 0x100, with two and with one iteration to go. -/
@[irreducible] def w5 : State := w1.mapCtx fun k => k.setLoop true ⟨0xF0, 0x100, 2, true⟩
@[irreducible] def w5a : State := w1.mapCtx fun k => k.setLoop true ⟨0xF0, 0x100, 1, true⟩

/-- Both levels active and ending there: level 1 with its last iteration, level 0 with two. -/
@[irreducible] def w5b : State := w1.mapCtx fun k => (k.setLoop true ⟨0xF0, 0x100, 1, true⟩).setLoop false ⟨0xE0, 0x100, 2, true⟩

theorem witness_RetirementMovesOn_goes (h : Obligations.RetirementMovesOn) : (retire w1 w1 {}).ctx.pc = 0x104 :=
  ((h w1 w1 {} 0x104 true (fun _ => rfl) (met (by decide +kernel))).2.2.1 (by unfold EndsAt; decide +kernel)).1

theorem witness_RetirementMovesOn_again (h : Obligations.RetirementMovesOn) : (retire w5 w5 {}).ctx.pc = 0xF0 :=
  (((h w5 w5 {} 0x104 true (fun _ => rfl) (met (by decide +kernel))).2.2.2.1 (by unfold EndsAt; decide +kernel) (by unfold EndsAt; decide +kernel)).1 (met (by decide +kernel))).1.trans (met (by decide +kernel))

theorem witness_RetirementMovesOn_ends (h : Obligations.RetirementMovesOn) : (retire w5a w5a {}).ctx.pc = 0x104 :=
  (((h w5a w5a {} 0x104 true (fun _ => rfl) (met (by decide +kernel))).2.2.2.1 (by unfold EndsAt; decide +kernel) (by unfold EndsAt; decide +kernel)).2 (met (by decide +kernel))).1

theorem witness_RetirementMovesOn_both (h : Obligations.RetirementMovesOn) : (retire w5b w5b {}).ctx.pc = 0xE0 :=
  ((((h w5b w5b {} 0x104 true (fun _ => rfl) (met (by decide +kernel))).2.2.2.2 (by unfold EndsAt; decide +kernel) (by unfold EndsAt; decide +kernel)).2 (met (by decide +kernel)) _ rfl).1 (met (by decide +kernel))).1.trans (met (by decide +kernel))

theorem witness_BranchesGoWhereTheyShould (h : BranchesGoWhereTheyShould) :
    exec (.bge (.x 2) (.x 1) 0x3FFF) w1 = .next (retire w1 w1 { target := some (w1.ctx.iaddr + BitVec.ofInt 64 (-4)), branch := true }) :=
  h w1 w1 w1 (.x 2) (.x 1) 0x3FFF 5 (BitVec.ofInt 64 (-3)) _ true (solo (met (by decide +kernel))) (readsX (met (by decide +kernel)) (met (by decide +kernel))) (readsX (met (by decide +kernel)) (met (by decide +kernel))) (by simp)

theorem witness_JumpsLinkAndGo_jal (h : JumpsLinkAndGo) :
    exec (.jal (.x 1) 0x80000) w1 =
      .next (retire w1 (put (.jal (.x 1) 0x80000) 1 0x104 w1) { target := some (w1.ctx.iaddr + BitVec.ofInt 64 (4 * (-0x80000))), branch := true }) :=
  (h w1 _ w1 (.x 1) (.x 1) 0x80000 0 0 0 (solo (met (by decide +kernel)))).1 (writesX (met (by decide +kernel)) (met (by decide +kernel)))

theorem witness_JumpsLinkAndGo_jalr (h : JumpsLinkAndGo) :
    exec (.jalr (.x 1) (.x 2) 3) w1 = .next (retire w1 (put (.jalr (.x 1) (.x 2) 3) 1 0x104 w1) { target := some 8, branch := true }) :=
  ((h w1 w1 _ (.x 1) (.x 2) 0 3 5 8 (solo (met (by decide +kernel)))).2 (readsX (met (by decide +kernel)) (met (by decide +kernel))) (met (by decide +kernel))).1 (met (by decide +kernel)) (writesX (met (by decide +kernel)) (met (by decide +kernel)))

theorem witness_JumpsLinkAndGo_misaligned (h : JumpsLinkAndGo) :
    exec (.jalr (.x 1) (.x 2) 0) w1 = .next ((trapBase w1 w1.ctx.pops none).takeTrap 0x03 5) :=
  ((h w1 w1 w1 (.x 1) (.x 2) 0 0 5 5 (solo (met (by decide +kernel)))).2 (readsX (met (by decide +kernel)) (met (by decide +kernel))) (met (by decide +kernel))).2 (met (by decide +kernel))

theorem witness_LoopsStart_starts (h : LoopsStart) :
    exec (.loop true (.x 2) 8) w1 =
      .next (retire w1 (w1.mapCtx fun k => k.setLoop true ⟨w1.ctx.iaddr + 4, w1.ctx.iaddr + BitVec.ofNat 64 (4 * 8), 5, true⟩) {}) :=
  (h w1 w1 true (.x 2) 5 5 8 (solo (met (by decide +kernel)))).1 _ (.inl ⟨8, rfl, readsX (met (by decide +kernel)) (met (by decide +kernel)), (met (by decide +kernel)), rfl⟩) (met (by decide +kernel))

theorem witness_LoopsStart_passes (h : LoopsStart) :
    exec (.loopi false 0 4095) w1 = .next (retire w1 w1 { target := some (w1.ctx.iaddr + BitVec.ofNat 64 (4 * 4095) + 4) }) :=
  (h w1 w1 false (.x 2) 5 0 4095 (solo (met (by decide +kernel)))).1 _ (.inr ⟨0, 4095, rfl, rfl, rfl, rfl⟩) (met (by decide +kernel))

theorem witness_LoopsStart_active (h : LoopsStart) :
    exec (.loopi true 1 1) w5 = .next ((trapBase w5 w5.ctx.pops none).takeTrap 0x09 0x014) :=
  (h w5 w5 true (.x 2) 5 0 0 (solo (met (by decide +kernel)))).2 _ (.inr ⟨1, 1, rfl⟩) (met (by decide +kernel))

end Sys2Proof.Tests
end

