-- ==== Sys2Proof/Tests/Witness2.lean ====
section
/-! SUPPORT. Witnesses: loads and stores, control space, bit streams, atomics, fences and locks, system instructions. -/

-- One theorem after the other: elaborating many at once needs more threads than the memory limit holds.
set_option Elab.async false

open Sys2Proof Sys2Proof.Machine Sys2Proof.Statements

namespace Sys2Proof.Tests

/-! ## How hypotheses about accesses are met -/

/-- The state that the checks of an access leave. -/
@[irreducible] def acc (k : AccKind) (ctrl : Bool) (a : Word) (s : State) : State := okState (checkAll k ctrl [a] s)

theorem goes {k : AccKind} {ctrl : Bool} {a : Word} {s : State} {p : Phys} (h : okVal (checkAll k ctrl [a] s) = some [p]) :
    Goes k ctrl a s p (acc k ctrl a s) := by unfold acc; exact ok_of_okVal h

theorem ready {s : State} {p : Phys} {n : Nat} (h : (regionOf p.pa != .control && regionOf p.pa != .fabric && !s.inStep p.pa n) = true) : Ready s p n := by
  unfold Ready; simp at h; exact ⟨h.1.1, h.1.2, h.2⟩

theorem stored_pool {a : Word} {p : Phys} {bs : List Byte} {s : State} (h : regionOf p.pa ≠ .window) (ht : s.ctx.task = none) :
    Stored a p bs s (s.poke (canon p.pa) bs) := by
  unfold Stored; rw [if_neg h]; unfold State.putBytes; rw [ht]; simp [State.stagedTask]

theorem stored_own {a : Word} {p : Phys} {bs : List Byte} {s : State} (h : regionOf p.pa = .window) (hc : windowCore p.pa = s.core.id) :
    Stored a p bs s (s.poke p.pa bs) := by
  unfold Stored; rw [if_pos h, if_neg fun c => c.1 hc]

theorem d8 : (LdWidth.d8, 8, (3 : BitVec 3), fun v => BitVec.ofNat 64 v) ∈ loadWidths := .tail _ (.tail _ (.tail _ (.head _)))
theorem s1 : (LdWidth.s1, 1, (0 : BitVec 3), fun v => BitVec.ofInt 64 (BitVec.ofNat 8 v).toInt) ∈ loadWidths := .head _
theorem w8 : (StWidth.w8, 8, (3 : BitVec 3)) ∈ storeWidths := .tail _ (.tail _ (.tail _ (.head _)))
theorem w2' : (StWidth.w2, 2, (1 : BitVec 3)) ∈ storeWidths := .tail _ (.head _)

/-! ## Loads and stores -/

/-- x1 points into the pool, x2 to the last bytes of local memory, x4 into control space; bytes stand at both places. -/
@[irreducible] def m1 : State :=
  withX [(1, 0x900000), (2, 0xBFF8), (4, 0x1000000), (5, 0x8877665544332211), (6, 0x800000)]
    ((base.poke (2 ^ 48 + 0x100000) [0x10, 0x32, 0x54, 0x76, 0x98, 0xBA, 0xDC, 0xFE]).poke (2 ^ 49 + 0xBFF8) [1, 2, 3, 4, 5, 6, 7, 0x88])

theorem witness_LoadsReadMemory_ld (h : Obligations.LoadsReadMemory) :
    exec (.ld (.x 3) (.x 1) .d8 0) m1 =
      .next (retire m1 (tracedResult (.x 3) 0 3 0x900000 ⟨2 ^ 48 + 0x100000, false, false, true⟩
        (put (.ld (.x 3) (.x 1) .d8 0) 3 0xFEDCBA9876543210 (acc .load true 0x900000 m1))) {}) :=
  h m1 m1 _ _ (.x 3) (.x 1) .d8 0 .core 0x900000 0x900000 ⟨2 ^ 48 + 0x100000, false, false, true⟩ _ 8 3 _ (solo (met (by decide +kernel))) d8 (readsX (met (by decide +kernel)) (met (by decide +kernel))) (.inl ⟨rfl, (met (by decide +kernel))⟩)
    (met (by decide +kernel)) (goes (met (by decide +kernel))) (.inl (met (by decide +kernel))) (ready (met (by decide +kernel))) (met (by decide +kernel)) (writesX (met (by decide +kernel)) (met (by decide +kernel)))

/-- The last byte of local memory, sign-extended. -/
theorem witness_LoadsReadMemory_lda (h : Obligations.LoadsReadMemory) :
    exec (.ld (.x 3) (.x 2) .s1 7) m1 =
      .next (retire m1 (tracedResult (.x 3) 0 0 0xBFFF ⟨2 ^ 49 + 0xBFFF, true, true, false⟩
        (put (.ld (.x 3) (.x 2) .s1 7) 3 (BitVec.ofInt 64 (-0x78)) (acc .load false 0xBFFF m1))) {}) :=
  h m1 m1 _ _ (.x 3) (.x 2) .s1 7 .core 0xBFF8 0xBFFF ⟨2 ^ 49 + 0xBFFF, true, true, false⟩ _ 1 0 _ (solo (met (by decide +kernel))) s1 (readsX (met (by decide +kernel)) (met (by decide +kernel))) (.inl ⟨rfl, (met (by decide +kernel))⟩)
    (met (by decide +kernel)) (goes (met (by decide +kernel))) (.inl (met (by decide +kernel))) (ready (met (by decide +kernel))) (met (by decide +kernel)) (writesX (met (by decide +kernel)) (met (by decide +kernel)))

theorem witness_StoresWriteMemory_st (h : Obligations.StoresWriteMemory) :
    exec (.st (.x 5) (.x 1) .w8 0x400) m1 =
      .next (retire m1 (traced 1 3 0x8FE000 ⟨2 ^ 48 + 0xFE000, false, false, true⟩
        ((acc .store true 0x8FE000 m1).poke (canon (2 ^ 48 + 0xFE000)) (bytesOfNat 8 (0x8877665544332211#64).toNat))) {}) :=
  h m1 m1 _ _ _ (.x 5) (.x 1) .w8 0x400 .core 0x900000 0x8FE000 0x8877665544332211 ⟨2 ^ 48 + 0xFE000, false, false, true⟩ _ 8 3 (solo (met (by decide +kernel))) w8 (readsX (met (by decide +kernel)) (met (by decide +kernel)))
    (.inl ⟨rfl, (met (by decide +kernel))⟩) (met (by decide +kernel)) (goes (met (by decide +kernel))) (met (by decide +kernel)) (.inl (met (by decide +kernel))) (ready (met (by decide +kernel))) (readsX (met (by decide +kernel)) (met (by decide +kernel))) (met (by decide +kernel)) (stored_pool (met (by decide +kernel)) (met (by decide +kernel)))

theorem witness_StoresWriteMemory_stl (h : Obligations.StoresWriteMemory) :
    exec (.stl (.x 5) (.x 2) .w2 .fabric) m1 =
      .next (retire m1 (traced 1 1 0xBFF8 ⟨2 ^ 49 + 0xBFF8, true, true, false⟩
        ((acc .store false 0xBFF8 m1).poke (2 ^ 49 + 0xBFF8) (bytesOfNat 2 (0x8877665544332211#64).toNat))) {}) :=
  h m1 m1 _ _ _ (.x 5) (.x 2) .w2 0 .fabric 0xBFF8 0xBFF8 0x8877665544332211 ⟨2 ^ 49 + 0xBFF8, true, true, false⟩ _ 2 1 (solo (met (by decide +kernel))) w2' (readsX (met (by decide +kernel)) (met (by decide +kernel)))
    (.inr ⟨rfl, rfl, fun _ => ⟨(met (by decide +kernel)), (met (by decide +kernel))⟩⟩) (met (by decide +kernel)) (goes (met (by decide +kernel))) (met (by decide +kernel)) (.inl (met (by decide +kernel))) (ready (met (by decide +kernel))) (readsX (met (by decide +kernel)) (met (by decide +kernel))) (met (by decide +kernel)) (stored_own (met (by decide +kernel)) (met (by decide +kernel)))

theorem witness_ScalarAccessesTrap_misaligned (h : ScalarAccessesTrap) :
    exec (.ld (.x 3) (.x 5) .d8 0) m1 = .next ((trapBase m1 m1.ctx.pops none).takeTrap 0x03 0x8877665544332211) :=
  (h m1 m1 (.x 3) (.x 5) 0x8877665544332211 0x8877665544332211 8 _ .load true (solo (met (by decide +kernel))) (readsX (met (by decide +kernel)) (met (by decide +kernel)))
    (.inl ⟨.d8, 0, 3, _, d8, rfl, rfl, (met (by decide +kernel)), (met (by decide +kernel))⟩)).1 (met (by decide +kernel))

/-- One past the end of local memory. -/
theorem witness_ScalarAccessesTrap_translation (h : ScalarAccessesTrap) :
    exec (.st (.x 3) (.x 2) .w8 1) m1 = .next ((trapBase m1 m1.ctx.pops none).takeTrap 0x05 0xC000) :=
  ((h m1 m1 (.x 3) (.x 2) 0xBFF8 0xC000 8 _ .store true (solo (met (by decide +kernel))) (readsX (met (by decide +kernel)) (met (by decide +kernel)))
    (.inr (.inr (.inl ⟨.w8, 1, 3, w8, rfl, rfl, (met (by decide +kernel)), (met (by decide +kernel))⟩)))).2 (met (by decide +kernel)) (met (by decide +kernel))).1 _ (by rfl)

theorem ok_of_toOption {ε α : Type} {r : Except ε α} {v : α} (h : r.toOption = some v) : r = .ok v := by
  cases r <;> cases h; rfl

/-- What the walk to 0x1000000 gives. -/
@[irreducible] def m1walked : Walked := (m1.walk 0 0 0x1000000).toOption.getD default

/-- An LDA in control space. -/
theorem witness_ScalarAccessesTrap_control (h : ScalarAccessesTrap) :
    exec (.lda (.x 3) (.x 4) .d8 .core) m1 = .next ((trapBase m1 m1.ctx.pops none).takeTrap 0x06 0x1000000) :=
  ((h m1 m1 (.x 3) (.x 4) 0x1000000 0x1000000 8 _ .load false (solo (met (by decide +kernel))) (readsX (met (by decide +kernel)) (met (by decide +kernel)))
    (.inr (.inl ⟨.d8, .core, 3, _, d8, rfl, rfl, rfl, rfl⟩))).2 (met (by decide +kernel)) (met (by decide +kernel))).2 rfl (met (by decide +kernel)) (met (by decide +kernel)) m1walked (ok_of_toOption (met (by decide +kernel))) (met (by decide +kernel))

/-! ## Control space -/

theorem ctrlWrite_xinv {s : State} {v : Word} {cl : BitVec 9} (h : (s.cluster cl).inval = none) :
    s.ctrlWrite v (.xinv cl) = some (s.startInval cl v) := by simp [State.ctrlWrite, h]

theorem ctrlWrite_busy {s : State} {v : Word} {cl : BitVec 9} (h : (s.cluster cl).inval.isSome = true) :
    s.ctrlWrite v (.xinv cl) = none := by simp [State.ctrlWrite, h]

/-- With an invalidation of cluster 0 running. -/
@[irreducible] def m2 : State := m1.setCluster 0 { m1.cluster 0 with inval := some 3 }
@[irreducible] def m1i : State := (acc .store true 0x1000008 m1).startInval 0 0x8877665544332211

theorem witness_ControlSpaceAccesses_reads (h : ControlSpaceAccesses) :
    exec (.ld (.x 3) (.x 4) .d8 0) m1 = .next (retire m1 (tracedResult (.x 3) 0 3 0x1000000 ⟨3 * 2 ^ 48, false, false, true⟩
      (put (.ld (.x 3) (.x 4) .d8 0) 3 (2 ^ 48 + 1) (acc .load true 0x1000000 m1))) {}) :=
  ((h m1 m1 _ _ m1 (.x 3) (.x 4) 0 0x1000000 0x1000000 0 ⟨3 * 2 ^ 48, false, false, true⟩ _ (solo (met (by decide +kernel))) (readsX (met (by decide +kernel)) (met (by decide +kernel))) (met (by decide +kernel)) (met (by decide +kernel)) (met (by decide +kernel)) (met (by decide +kernel)) rfl).1
    (goes (met (by decide +kernel)))).1 (.inl (met (by decide +kernel))) (.xroot 0) (met (by decide +kernel)) (met (by decide +kernel)) (writesX (met (by decide +kernel)) (met (by decide +kernel)))

/-- An offset that no chapter assigns; and a register of MANAGER level. -/
theorem witness_ControlSpaceAccesses_unassigned (h : ControlSpaceAccesses) :
    exec (.ld (.x 3) (.x 4) .d8 4) m1 = .next ((trapBase m1 (acc .load true 0x1000020 m1).ctx.pops none).takeTrap 0x06 0x1000020) :=
  ((h m1 m1 _ m1 m1 (.x 3) (.x 4) 4 0x1000000 0x1000020 0 ⟨3 * 2 ^ 48 + 0x20, false, false, true⟩ _ (solo (met (by decide +kernel))) (readsX (met (by decide +kernel)) (met (by decide +kernel))) (met (by decide +kernel)) (met (by decide +kernel)) (met (by decide +kernel)) (met (by decide +kernel)) rfl).1
    (goes (met (by decide +kernel)))).2 (fun r e => absurd e (by decide +kernel +revert))

theorem witness_ControlSpaceAccesses_refused (h : ControlSpaceAccesses) :
    exec (.st (.x 3) (.x 6) .w8 0) (withX [(6, 0x1001018)] m1) =
      .next ((trapBase (withX [(6, 0x1001018)] m1) (acc .store true 0x1001018 (withX [(6, 0x1001018)] m1)).ctx.pops none).takeTrap 0x06 0x1001018) :=
  ((h _ _ _ m1 m1 (.x 3) (.x 6) 0 0x1001018 0x1001018 0 ⟨3 * 2 ^ 48 + 0x1018, false, false, true⟩ _ (solo (met (by decide +kernel))) (readsX (met (by decide +kernel)) (met (by decide +kernel))) (met (by decide +kernel)) (met (by decide +kernel)) (met (by decide +kernel)) (met (by decide +kernel)) rfl).2
    (goes (met (by decide +kernel)))).2 (fun r e => by
      have : r = .xten 1 := by
        have f : ctrlReg (offsetOf (3 * 2 ^ 48 + 0x1018)) = some (.xten 1) := by decide +kernel
        exact Option.some.inj (e.symm.trans f)
      subst this; exact (met (by decide +kernel)))

theorem witness_ControlSpaceAccesses_writes (h : ControlSpaceAccesses) :
    exec (.st (.x 5) (.x 4) .w8 1) m1 = .next (retire m1 (traced 1 3 0x1000008 ⟨3 * 2 ^ 48 + 8, false, false, true⟩ m1i) {}) :=
  ((((h m1 m1 _ _ _ (.x 5) (.x 4) 1 0x1000000 0x1000008 0x8877665544332211 ⟨3 * 2 ^ 48 + 8, false, false, true⟩ _ (solo (met (by decide +kernel))) (readsX (met (by decide +kernel)) (met (by decide +kernel))) (met (by decide +kernel)) (met (by decide +kernel)) (met (by decide +kernel)) (met (by decide +kernel)) rfl).2
    (goes (met (by decide +kernel)))).1 (.inl (met (by decide +kernel))) (readsX (met (by decide +kernel)) (met (by decide +kernel))) (.xinv 0) (met (by decide +kernel)) (met (by decide +kernel))).2 (fun _ => (met (by decide +kernel)))).1 (by unfold m1i; exact ctrlWrite_xinv (met (by decide +kernel)))

theorem witness_ControlSpaceAccesses_waits (h : ControlSpaceAccesses) : exec (.st (.x 5) (.x 4) .w8 1) m2 = .next m2 :=
  ((((h m2 m2 _ _ m2 (.x 5) (.x 4) 1 0x1000000 0x1000008 0x8877665544332211 ⟨3 * 2 ^ 48 + 8, false, false, true⟩ _ (solo (met (by decide +kernel))) (readsX (met (by decide +kernel)) (met (by decide +kernel))) (met (by decide +kernel)) (met (by decide +kernel)) (met (by decide +kernel)) (met (by decide +kernel)) rfl).2
    (goes (met (by decide +kernel)))).1 (.inl (met (by decide +kernel))) (readsX (met (by decide +kernel)) (met (by decide +kernel))) (.xinv 0) (met (by decide +kernel)) (met (by decide +kernel))).2 (fun _ => (met (by decide +kernel)))).2 (ctrlWrite_busy (met (by decide +kernel)))

/-- With a posted store that is still to be answered. -/
@[irreducible] def m2p : State := { m1 with fabric := { m1.fabric with reqs := [(7, ⟨m1.who, 0, 8, 0, .posted⟩)] } }

theorem witness_ControlSpaceAccesses_awaitsStores (h : ControlSpaceAccesses) : exec (.st (.x 5) (.x 4) .w8 1) m2p = .next m2p :=
  (((h m2p m2p _ _ m2p (.x 5) (.x 4) 1 0x1000000 0x1000008 0x8877665544332211 ⟨3 * 2 ^ 48 + 8, false, false, true⟩ _ (solo (met (by decide +kernel))) (readsX (met (by decide +kernel)) (met (by decide +kernel))) (met (by decide +kernel)) (met (by decide +kernel)) (met (by decide +kernel)) (met (by decide +kernel)) rfl).2
    (goes (met (by decide +kernel)))).1 (.inl (met (by decide +kernel))) (readsX (met (by decide +kernel)) (met (by decide +kernel))) (.xinv 0) (met (by decide +kernel)) (met (by decide +kernel))).1 ⟨0, rfl⟩ (met (by decide +kernel))

/-! ## Bit streams -/

@[irreducible] def accs (k : AccKind) (as : List Word) (s : State) : State := okState (checkAll k false as s)

theorem goesAll {k : AccKind} {as : List Word} {s : State} {ps : List Phys} (h : okVal (checkAll k false as s) = some ps) :
    checkAll k false as s = .ok (ps, accs k as s) := by unfold accs; exact ok_of_okVal h

def readyB (s : State) (p : Phys) (n : Nat) : Bool := regionOf p.pa != .control && regionOf p.pa != .fabric && !s.inStep p.pa n

/-- BA0 at bit 28 of a word in the pool: 8 bits from it cross into the next word. -/
@[irreducible] def m3 : State := m1.mapCtx fun k => k.setBa 0 (8 * 0x900000 + 28)
@[irreducible] def m3s : State :=
  okState (mergeWords ((bitWords (8 * 0x900000 + 28) 8).zip [⟨2 ^ 48 + 0x100000, false, false, true⟩, ⟨2 ^ 48 + 0x100004, false, false, true⟩]) 28 8 0x11
    (accs .store (bitWords (8 * 0x900000 + 28) 8) m3))

theorem witness_BitStreamResults_ldbit (h : Obligations.BitStreamResults) :
    exec (.ldbit (.x 3) 0 7 true) m3 = .next (retire m3 (tracedResult (.x 3) 0 2 0x900000 ⟨2 ^ 48 + 0x100000, false, false, true⟩
      ((put (.ldbit (.x 3) 0 7 true) 3 0x87 (accs .load (bitWords (8 * 0x900000 + 28) 8) m3)).mapCtx fun c =>
        c.setBa 0 (8 * 0x900000 + 28 + BitVec.ofNat 64 8))) {}) :=
  ((h m3 _ _ m3 m3 (.x 3) (.x 1) (.x 1) 0 7 true 0 0 0 (8 * 0x900000 + 28) 8 [⟨2 ^ 48 + 0x100000, false, false, true⟩, ⟨2 ^ 48 + 0x100004, false, false, true⟩]
    (solo (met (by decide +kernel))) rfl (met (by decide +kernel))).1 (met (by decide +kernel))).1 (goesAll (met (by decide +kernel)))
    (fun p hp => ⟨ready ((by decide +kernel : ∀ p ∈ [(⟨2 ^ 48 + 0x100000, false, false, true⟩ : Phys), ⟨2 ^ 48 + 0x100004, false, false, true⟩],
        readyB (accs .load (bitWords (8 * 0x900000 + 28) 8) m3) p 4 = true) p hp),
      (by decide +kernel : ∀ p ∈ [(⟨2 ^ 48 + 0x100000, false, false, true⟩ : Phys), ⟨2 ^ 48 + 0x100004, false, false, true⟩],
        (accs .load (bitWords (8 * 0x900000 + 28) 8) m3).failing p.pa 4 = false) p hp⟩)
    0x87 (met (by decide +kernel)) (met (by decide +kernel)) (writesX rfl (met (by decide +kernel)))

theorem witness_BitStreamResults_stbit (h : Obligations.BitStreamResults) :
    exec (.stbit (.x 5) 0 7 false) m3 = .next (retire m3 (traced 1 2 0x900000 ⟨2 ^ 48 + 0x100000, false, false, true⟩ m3s) {}) :=
  ((h m3 _ _ m3s m3 (.x 5) (.x 1) (.x 1) 0 7 false 0 0 0x8877665544332211 (8 * 0x900000 + 28) 8
    [⟨2 ^ 48 + 0x100000, false, false, true⟩, ⟨2 ^ 48 + 0x100004, false, false, true⟩] (solo (met (by decide +kernel))) rfl (met (by decide +kernel))).1 (met (by decide +kernel))).2 (goesAll (met (by decide +kernel)))
    (fun p hp => ⟨ready ((by decide +kernel : ∀ p ∈ [(⟨2 ^ 48 + 0x100000, false, false, true⟩ : Phys), ⟨2 ^ 48 + 0x100004, false, false, true⟩],
        readyB (accs .store (bitWords (8 * 0x900000 + 28) 8) m3) p 4 = true) p hp),
      fun c => absurd c.1 (met (by decide +kernel))⟩)
    (readsX (met (by decide +kernel)) (met (by decide +kernel))) (by unfold m3s; exact ok_of_okVal (met (by decide +kernel)))

theorem witness_BitStreamResults_baset (h : Obligations.BitStreamResults) :
    exec (.baset 3 (.x 1) (.x 2)) m1 = .next (retire m1 (m1.mapCtx fun c => c.setBa 3 (BitVec.ofNat 64 (8 * 0x900000 + 0xBFF8))) {}) :=
  (h m1 m1 m1 m1 m1 (.x 1) (.x 1) (.x 2) 3 0 true 0x900000 0xBFF8 0 0 1 [] (solo (met (by decide +kernel))) rfl (met (by decide +kernel))).2 (readsX (met (by decide +kernel)) (met (by decide +kernel))) (readsX (met (by decide +kernel)) (met (by decide +kernel)))

end Sys2Proof.Tests
end

