-- ==== Sys2Proof/Tests/Witness3.lean ====
section
/-! SUPPORT. Witnesses: atomics and reductions, fences and locks, control registers, traps and their return. -/

-- One theorem after the other: elaborating many at once needs more threads than the memory limit holds.
set_option Elab.async false

open Sys2Proof Sys2Proof.Machine Sys2Proof.Statements

namespace Sys2Proof.Tests

theorem atomicAt {a : Word} {n : Nat} {s : State} {p : Phys} (h0 : a.toNat % n = 0) (h1 : okVal (checkAll .atomic false [a] s) = some [p])
    (h2 : (acc .atomic false a s).ctx.phase ≠ 1) (h3 : (acc .atomic false a s).ctx.diffMode = .fwd) (h4 : readyB (acc .atomic false a s) p n = true)
    (h5 : (acc .atomic false a s).failing p.pa n = false) (h6 : regionOf p.pa ≠ .window) : AtomicAt a n s p (acc .atomic false a s) :=
  ⟨h0, goes h1, fun c => h2 c.1, .inl h3, ready h4, h5, fun c => h6 c.1⟩

/-- The place in the pool that x1 of `m1` names. -/
def q1 : Phys := ⟨2 ^ 48 + 0x100000, false, false, true⟩

/-! ## Atomics and reductions -/

theorem witness_AtomicsReturnTheOldValue_aadd (h : AtomicsReturnTheOldValue) :
    exec (.aadd (.x 3) (.x 1) (.x 2) .both) m1 = .next (retire m1 (tracedResult (.x 3) 2 3 0x900000 q1
      (put (.aadd (.x 3) (.x 1) (.x 2) .both) 3 0xFEDCBA9876543210 ((acc .atomic false 0x900000 m1).poke (canon q1.pa)
        (bytesOfNat 8 (0xFEDCBA9876543210#64 + 0xBFF8#64).toNat)))) {}) :=
  h m1 m1 m1 _ _ _ (.x 3) (.x 1) (.x 2) .both 0x900000 0xBFF8 0 0xFEDCBA9876543210 _ q1 _ true (solo (met (by decide +kernel))) (readsX (met (by decide +kernel)) (met (by decide +kernel)))
    (atomicAt (met (by decide +kernel)) (met (by decide +kernel)) (met (by decide +kernel)) (met (by decide +kernel)) (met (by decide +kernel)) (met (by decide +kernel)) (met (by decide +kernel))) (readsX (met (by decide +kernel)) (met (by decide +kernel))) (met (by decide +kernel)) (.inl ⟨.head _, rfl⟩) (writesX (met (by decide +kernel)) (met (by decide +kernel)))

/-- ACAS where the element is what d holds. -/
@[irreducible] def m4 : State := withX [(3, 0xFEDCBA9876543210)] m1

theorem witness_AtomicsReturnTheOldValue_acas (h : AtomicsReturnTheOldValue) :
    exec (.acas (.x 3) (.x 1) (.x 2) .relaxed) m4 = .next (retire m4 (tracedResult (.x 3) 2 3 0x900000 q1
      (put (.acas (.x 3) (.x 1) (.x 2) .relaxed) 3 0xFEDCBA9876543210 ((acc .atomic false 0x900000 m4).poke (canon q1.pa)
        (bytesOfNat 8 (if 0xFEDCBA9876543210#64 = 0xFEDCBA9876543210#64 then 0xBFF8#64 else 0xFEDCBA9876543210#64).toNat)))) {}) :=
  h m4 m4 m4 _ _ _ (.x 3) (.x 1) (.x 2) .relaxed 0x900000 0xBFF8 0xFEDCBA9876543210 0xFEDCBA9876543210 _ q1 _ true (solo (met (by decide +kernel))) (readsX (met (by decide +kernel)) (met (by decide +kernel)))
    (atomicAt (met (by decide +kernel)) (met (by decide +kernel)) (met (by decide +kernel)) (met (by decide +kernel)) (met (by decide +kernel)) (met (by decide +kernel)) (met (by decide +kernel))) (readsX (met (by decide +kernel)) (met (by decide +kernel))) (met (by decide +kernel)) (.inr ⟨.head _, readsX (met (by decide +kernel)) (met (by decide +kernel))⟩) (writesX (met (by decide +kernel)) (met (by decide +kernel)))

/-- ABADD one past its bound. -/
theorem witness_AtomicsReturnTheOldValue_abadd (h : AtomicsReturnTheOldValue) :
    exec (.abadd (.x 3) (.x 1) (.x 2) .relaxed) m4 = .next (retire m4 (tracedResult (.x 3) 2 3 0x900000 q1
      (put (.abadd (.x 3) (.x 1) (.x 2) .relaxed) 3 (BitVec.allOnes 64) (acc .atomic false 0x900000 m4))) {}) :=
  h m4 m4 m4 _ _ _ (.x 3) (.x 1) (.x 2) .relaxed 0x900000 0xBFF8 0xFEDCBA9876543210 0xFEDCBA9876543210 0xFEDCBA987654F208 q1 _ false (solo (met (by decide +kernel))) (readsX (met (by decide +kernel)) (met (by decide +kernel)))
    (atomicAt (met (by decide +kernel)) (met (by decide +kernel)) (met (by decide +kernel)) (met (by decide +kernel)) (met (by decide +kernel)) (met (by decide +kernel)) (met (by decide +kernel))) (readsX (met (by decide +kernel)) (met (by decide +kernel))) (met (by decide +kernel)) (.inr ⟨by simp, readsX (met (by decide +kernel)) (met (by decide +kernel))⟩) (writesX (met (by decide +kernel)) (met (by decide +kernel)))

theorem witness_ReductionsUpdateMemory_redadd (h : ReductionsUpdateMemory) :
    exec (.redadd .i32 (.x 1) (.x 2) .relaxed) m1 = .next (retire m1 (traced 2 2 0x900000 q1
      ((acc .atomic false 0x900000 m1).poke (canon q1.pa) (bytesOfNat 4 0x7654F208))) {}) :=
  (h m1 m1 _ _ .i32 (.x 1) (.x 2) .relaxed 0x900000 0xBFF8 q1 _ 4 0x76543210 0x7654F208 2 _ (solo (met (by decide +kernel))) (readsX (met (by decide +kernel)) (met (by decide +kernel))) (.tail _ (.head _))
    (atomicAt (met (by decide +kernel)) (met (by decide +kernel)) (met (by decide +kernel)) (met (by decide +kernel)) (met (by decide +kernel)) (met (by decide +kernel)) (met (by decide +kernel))) (readsX (met (by decide +kernel)) (met (by decide +kernel))) (met (by decide +kernel)) (.head _) (met (by decide +kernel))).2

/-! ## Fences and locks -/

/-- A posted store of the strand has failed. -/
@[irreducible] def m5 : State := m1.mapCtx fun k => { k with failed := some (0x16, 0x2800000) }

theorem witness_FencesWaitAndReport_completes (h : FencesWaitAndReport) : exec (.fence true .fabric .full) m1 = .next (retire m1 m1 {}) :=
  (h m1 true .fabric .full true (solo (met (by decide +kernel))) rfl (fun _ => ⟨(met (by decide +kernel)), (met (by decide +kernel))⟩) (fun _ => (met (by decide +kernel)))).1 (fun _ => (met (by decide +kernel)))

theorem witness_FencesWaitAndReport_reports (h : FencesWaitAndReport) :
    exec (.fence false .fabric .release) m5 =
      .next ((trapBase m5 m5.ctx.pops (some (m5.mapCtx fun k => { k with failed := none }))).takeTrap 0x16 0x2800000) :=
  (h m5 false .fabric .release true (solo (met (by decide +kernel))) rfl (fun e => by cases e) (fun _ => (met (by decide +kernel)))).2 _ _ rfl (met (by decide +kernel))

/-- Lock words in the pool: one reader; a writer; nothing. -/
@[irreducible] def l1 : State := m1.poke (2 ^ 48 + 0x100000) (bytesOfNat 4 1)
@[irreducible] def l2 : State := m1.poke (2 ^ 48 + 0x100000) (bytesOfNat 4 (2 ^ 31))
@[irreducible] def l3 : State := m1.poke (2 ^ 48 + 0x100000) (bytesOfNat 4 0)
/-- One waiting writer, which this strand counted itself as. -/
@[irreducible] def l4 : State :=
  (m1.poke (2 ^ 48 + 0x100000) (bytesOfNat 4 (2 ^ 16))).mapCtx fun k => { k with progress := .lock (.rwlw (.x 3) (.x 1)) (some (2 ^ 48 + 0x100000)) }

theorem witness_LocksGrantAndRelease_read (h : LocksGrantAndRelease) :
    exec (.rwlr (.x 3) (.x 1)) l1 = .next (retire l1 (tracedResult (.x 3) 2 2 0x900000 q1 (put (.rwlr (.x 3) (.x 1)) 3 1
      ((acc .atomic false 0x900000 l1).poke (canon q1.pa) (bytesOfNat 4 2)))) {}) :=
  (h l1 l1 _ _ (.x 3) (.x 1) 0x900000 q1 1 _ (some 2) false (solo (met (by decide +kernel))) (readsX (met (by decide +kernel)) (met (by decide +kernel))) (met (by decide +kernel)) (goes (met (by decide +kernel))) (met (by decide +kernel)) (met (by decide +kernel)) (.inl (met (by decide +kernel))) (met (by decide +kernel)) (met (by decide +kernel))
    (by rw [show (acc .atomic false 0x900000 l1).ctx.progress = .none by decide +kernel]; simp) (.head _)).1 2 rfl (writesX (met (by decide +kernel)) (met (by decide +kernel)))

theorem witness_LocksGrantAndRelease_write (h : LocksGrantAndRelease) :
    exec (.rwlw (.x 3) (.x 1)) l4 = .next (retire l4 (tracedResult (.x 3) 2 2 0x900000 q1 (put (.rwlw (.x 3) (.x 1)) 3 (2 ^ 16)
      ((acc .atomic false 0x900000 l4).poke (canon q1.pa) (bytesOfNat 4 (2 ^ 31))))) {}) :=
  (h l4 l4 _ _ (.x 3) (.x 1) 0x900000 q1 (2 ^ 16) _ (some (2 ^ 31)) true (solo (met (by decide +kernel))) (readsX (met (by decide +kernel)) (met (by decide +kernel))) (met (by decide +kernel)) (goes (met (by decide +kernel))) (met (by decide +kernel)) (met (by decide +kernel)) (.inl (met (by decide +kernel))) (met (by decide +kernel)) (met (by decide +kernel))
    (by rw [show (acc .atomic false 0x900000 l4).ctx.progress = .lock (.rwlw (.x 3) (.x 1)) (some (2 ^ 48 + 0x100000)) by decide +kernel]; simp)
    (.tail _ (.head _))).1 _ rfl (writesX (met (by decide +kernel)) (met (by decide +kernel)))

theorem witness_LocksGrantAndRelease_release (h : LocksGrantAndRelease) :
    exec (.rwuw (.x 3) (.x 1)) l2 = .next (retire l2 (tracedResult (.x 3) 2 2 0x900000 q1 (put (.rwuw (.x 3) (.x 1)) 3 (2 ^ 31)
      ((acc .atomic false 0x900000 l2).poke (canon q1.pa) (bytesOfNat 4 0)))) {}) :=
  (h l2 l2 _ _ (.x 3) (.x 1) 0x900000 q1 (2 ^ 31) _ (some 0) false (solo (met (by decide +kernel))) (readsX (met (by decide +kernel)) (met (by decide +kernel))) (met (by decide +kernel)) (goes (met (by decide +kernel))) (met (by decide +kernel)) (met (by decide +kernel)) (.inl (met (by decide +kernel))) (met (by decide +kernel)) (met (by decide +kernel))
    (by rw [show (acc .atomic false 0x900000 l2).ctx.progress = .none by decide +kernel]; simp) (by simp)).1 0 rfl (writesX (met (by decide +kernel)) (met (by decide +kernel)))

theorem witness_LocksGrantAndRelease_notHeld (h : LocksGrantAndRelease) :
    exec (.rwur (.x 3) (.x 1)) l3 = .next ((trapBase l3 (acc .atomic false 0x900000 l3).ctx.pops none).takeTrap 0x1A 0) :=
  (h l3 l3 _ l3 (.x 3) (.x 1) 0x900000 q1 0 _ none false (solo (met (by decide +kernel))) (readsX (met (by decide +kernel)) (met (by decide +kernel))) (met (by decide +kernel)) (goes (met (by decide +kernel))) (met (by decide +kernel)) (met (by decide +kernel)) (.inl (met (by decide +kernel))) (met (by decide +kernel)) (met (by decide +kernel))
    (by rw [show (acc .atomic false 0x900000 l3).ctx.progress = .none by decide +kernel]; simp) (by simp)).2 rfl (.inl rfl)

/-! ## Control registers, traps -/

theorem witness_ControlRegisterAccesses_none (h : Obligations.ControlRegisterAccesses) :
    exec (.sysr (.x 3) 0xFFF) m1 = .next ((trapBase m1 m1.ctx.pops none).takeTrap 0x01 (wordOf (.sysr (.x 3) 0xFFF))) :=
  ((h m1 m1 (.x 3) (.x 5) 0xFFF 0 .lattol (solo (met (by decide +kernel)))).1 (met (by decide +kernel))).1

/-- LATTOL is MANAGER's. -/
theorem witness_ControlRegisterAccesses_level (h : Obligations.ControlRegisterAccesses) :
    exec (.sysw (.x 5) 0x100) m1 = .next ((trapBase m1 m1.ctx.pops none).takeTrap 0x06 (wordOf (.sysw (.x 5) 0x100))) :=
  ((h m1 m1 (.x 3) (.x 5) 0x100 0 .lattol (solo (met (by decide +kernel)))).2.1 (met (by decide +kernel)) (met (by decide +kernel))).2

theorem witness_ControlRegisterAccesses_reads (h : Obligations.ControlRegisterAccesses) :
    exec (.sysr (.x 3) 1) m1 = .next (retire m1 (put (.sysr (.x 3) 1) 3 0x40 m1) {}) :=
  ((h m1 _ (.x 3) (.x 5) 1 0 .tvec (solo (met (by decide +kernel)))).2.2 (met (by decide +kernel)) (met (by decide +kernel))).1 (writesX (met (by decide +kernel)) (met (by decide +kernel)))

/-- A write to INSTRET is not counted. -/
theorem witness_ControlRegisterAccesses_writes (h : Obligations.ControlRegisterAccesses) :
    exec (.sysw (.x 5) 0x27) m1 = .next (retire m1 (m1.putCreg .instret 0x8877665544332211) { count := false }) :=
  ((((h m1 m1 (.x 3) (.x 5) 0x27 0x8877665544332211 .instret (solo (met (by decide +kernel)))).2.2 (met (by decide +kernel)) (met (by decide +kernel))).2.1 (readsX (met (by decide +kernel)) (met (by decide +kernel))) (met (by decide +kernel)) (met (by decide +kernel)) (met (by decide +kernel))).1
    (fun l e => by rcases e with e | e <;> cases e)).1 (fun e => by cases e)

theorem witness_ControlRegisterAccesses_management (h : Obligations.ControlRegisterAccesses) :
    exec (.controlRegisterWrite 6 7) m1 = .next (m1.putCreg .ydeadline 7) :=
  ((h m1 m1 (.x 3) (.x 5) 6 7 .ydeadline (solo (met (by decide +kernel)))).2.2 (met (by decide +kernel)) (met (by decide +kernel))).2.2.1 (met (by decide +kernel)) (met (by decide +kernel)) (met (by decide +kernel)) (fun l e => by rcases e with e | e <;> cases e) (fun e => by cases e)

/-- A loop register while its level is active. -/
theorem witness_ControlRegisterAccesses_active (h : Obligations.ControlRegisterAccesses) :
    exec (.sysw (.x 0) 0x14) w5 = .next ((trapBase w5 w5.ctx.pops none).takeTrap 0x09 0x14) :=
  (((h w5 w5 (.x 3) (.x 0) 0x14 0 (.lstart true) (solo (met (by decide +kernel)))).2.2 (met (by decide +kernel)) (met (by decide +kernel))).2.1 (readsX (met (by decide +kernel)) (met (by decide +kernel))) (met (by decide +kernel)) (met (by decide +kernel)) (met (by decide +kernel))).2 true (.inl rfl) (met (by decide +kernel))

/-- A store to a declared region is still to be answered: the tape's registers wait, and no other. -/
@[irreducible] def m5c : State :=
  let s : State := { m1 with fabric := { m1.fabric with reqs := [(7, ⟨m1.who, 0x2800000, 8, 0, .posted⟩)] } }
  s.mapCtx fun k => { k with dbase := k.dbase.set 0 0x2800004, dlen := k.dlen.set 0 4, dadj := k.dadj.set 0 0x900000 }

theorem witness_ControlRegisterAccesses_awaitsStores (h : Obligations.ControlRegisterAccesses) :
    exec (.sysw (.x 0) 0x30) m5c = .next m5c :=
  ((((h m5c m5c (.x 3) (.x 0) 0x30 0 .tapebase (solo (met (by decide +kernel)))).2.2 (met (by decide +kernel)) (met (by decide +kernel))).2.1 (readsX (met (by decide +kernel)) (met (by decide +kernel))) (met (by decide +kernel)) (met (by decide +kernel)) (met (by decide +kernel))).1
    (fun l e => by rcases e with e | e <;> cases e)).2 rfl (met (by decide +kernel))

/-- STATUS with a reserved level; with the MANAGER level on a compute core. -/
theorem witness_ControlRegisterAccesses_reserved (h : Obligations.ControlRegisterAccesses) :
    exec (.sysw (.x 5) 0) m1 = .next ((trapBase m1 m1.ctx.pops none).takeTrap 0x01 (wordOf (.sysw (.x 5) 0))) :=
  (((h m1 m1 (.x 3) (.x 5) 0 0x8877665544332211 .status (solo (met (by decide +kernel)))).2.2 (met (by decide +kernel)) (met (by decide +kernel))).2.2.2 (readsX (met (by decide +kernel)) (met (by decide +kernel)))).1 (.inl (met (by decide +kernel)))

@[irreducible] def m5b : State := withX [(7, 6)] m1

theorem witness_ControlRegisterAccesses_denied (h : Obligations.ControlRegisterAccesses) :
    exec (.sysw (.x 7) 0) m5b = .next ((trapBase m5b m5b.ctx.pops none).takeTrap 0x06 (wordOf (.sysw (.x 7) 0))) :=
  (((h m5b m5b (.x 3) (.x 7) 0 6 .status (solo (met (by decide +kernel)))).2.2 (met (by decide +kernel)) (met (by decide +kernel))).2.2.2 (readsX (met (by decide +kernel)) (met (by decide +kernel)))).2 (met (by decide +kernel)) (met (by decide +kernel)) (met (by decide +kernel))

theorem witness_TrapsAreTakenAndReturnedFrom_taken (h : Obligations.TrapsAreTakenAndReturnedFrom) :
    ∃ t, exec (.ecall 0xFFF) m1 = .next t ∧ t.ctx.epc = 0x100 ∧ t.ctx.ecause = 0x08 ∧ t.ctx.evalue = 0xFFF ∧ t.ctx.pc = 0x40 ∧ t.ctx.pl = 1 := by
  obtain ⟨t, e, a, b, c, d, -, -, f, -⟩ := (h m1 0xFFF (solo (met (by decide +kernel)))).1 (met (by decide +kernel)) (met (by decide +kernel)) _ _ (.head _)
  exact ⟨t, e, a.trans (met (by decide +kernel)), b, c, d.trans (met (by decide +kernel)), f.trans (met (by decide +kernel))⟩

/-- In a handler, whose EPC differs from the holding buffer's unit. -/
@[irreducible] def m6 : State :=
  m1.mapCtx fun k => { k with status := 0b000001011, epc := 0x100, hold := [7], holdFor := 0x104, hist := [1, 2, 3, 4, 5, 6, 7, 8] }

theorem witness_TrapsAreTakenAndReturnedFrom_returned (h : Obligations.TrapsAreTakenAndReturnedFrom) :
    ∃ t, exec .eret m6 = .next t ∧ t.ctx.trapBit = false ∧ t.ctx.pl = 1 ∧ t.ctx.hold = [] := by
  obtain ⟨t, e, -, a, b, -, -, -, -, c⟩ := (h m6 0 (solo (met (by decide +kernel)))).2.1 (met (by decide +kernel)) (met (by decide +kernel))
  exact ⟨t, e, a, b.trans (met (by decide +kernel)), c.trans (met (by decide +kernel))⟩

theorem witness_TrapsAreTakenAndReturnedFrom_outside (h : Obligations.TrapsAreTakenAndReturnedFrom) :
    exec .eret m1 = .next ((trapBase m1 m1.ctx.pops none).takeTrap 0x01 (wordOf .eret)) := (h m1 0 (solo (met (by decide +kernel)))).2.2 (met (by decide +kernel))

end Sys2Proof.Tests
end

