-- ==== Sys2Proof/Tests/Witness4.lean ====
section
/-! SUPPORT. Witnesses: every form of an operand, memory, messages and launches, receives, counters, rings, lines and
channels. -/

-- One theorem after the other: elaborating many at once needs more threads than the memory limit holds.
set_option Elab.async false

open Sys2Proof Sys2Proof.Machine Sys2Proof.Statements

namespace Sys2Proof.Tests

/-- The state that a piece of a unit leaves. -/
@[irreducible] def ran {α : Type} (m : M α) (s : State) : State := okState (m s)

theorem runs {α : Type} {m : M α} {s : State} {v : α} (h : okVal (m s) = some v) : m s = .ok (v, ran m s) := by
  unfold ran; exact ok_of_okVal h

/-! ## Operands -/

/-- Ring h1: 4 slots of 64 bytes at 0x1000, its one filled slot the last; q1 holds a result and reserves another place;
c2 is a receiver that holds a word, c3 a sender to core 1; x7 awaits a token. -/
@[irreducible] def o1 : State :=
  m1.mapCtx fun k => { k with
    rings := k.rings.set 1 (some ⟨0x1000, 0x12, 0, 0xFFFFFFFF⟩)
    ports := k.ports.set 1 ⟨[], [11, 12], 1, []⟩
    chans := (k.chans.set 2 ⟨some ⟨1, 0, true⟩, [21]⟩).set 3 ⟨some ⟨1, 5, false⟩, []⟩
    pend := 0x80
    hist := [1, 2, 3, 4, 5, 6, 7, 8] }
/-- With a value in the holding buffer. -/
@[irreducible] def o2 : State := o1.mapCtx fun k => { k with hold := [33], holdFor := k.pc }

theorem witness_SourcesReadEveryForm_x (h : SourcesReadEveryForm) : Reads (.x 1) o1 0x900000 o1 :=
  by have e := (h o1 0 []).1 1 (met (by decide +kernel)); rwa [show (if (1 : BitVec 5) = 0 then (0 : Word) else o1.ctx.x.get (1 : BitVec 5).toFin) = 0x900000 by decide +kernel] at e

theorem witness_SourcesReadEveryForm_ring (h : SourcesReadEveryForm) : Reads (.ring 1) o1 (BitVec.ofNat 64 (0x1000 + 0xFFFFFFFF % 4 * 64)) o1 :=
  (h o1 0 []).2.2.1 1 ⟨0x1000, 0x12, 0, 0xFFFFFFFF⟩ (met (by decide +kernel)) (met (by decide +kernel)) (met (by decide +kernel))

theorem witness_SourcesReadEveryForm_held (h : SourcesReadEveryForm) :
    Reads (.port 0) o2 33 (o2.mapCtx fun k => { k with hold := [] }) ∧ Reads (.chan 0) o2 33 (o2.mapCtx fun k => { k with hold := [] }) :=
  ⟨((h o2 33 []).2.2.2.1 (met (by decide +kernel)) (met (by decide +kernel)) (met (by decide +kernel))).1 0, ((h o2 33 []).2.2.2.1 (met (by decide +kernel)) (met (by decide +kernel)) (met (by decide +kernel))).2 0⟩

theorem witness_SourcesReadEveryForm_port (h : SourcesReadEveryForm) : ∃ t, Reads (.port 1) o1 11 t := by
  obtain ⟨P, r, -⟩ := ((h o1 11 [12]).2.2.2.2 (.inl (met (by decide +kernel)))).1 1 (met (by decide +kernel))
  exact ⟨_, r⟩

theorem witness_SourcesReadEveryForm_chan (h : SourcesReadEveryForm) : ∃ t, Reads (.chan 2) o1 21 t := by
  obtain ⟨C, r, -⟩ := ((h o1 21 []).2.2.2.2 (.inl (met (by decide +kernel)))).2 2 ⟨1, 0, true⟩ (met (by decide +kernel)) (met (by decide +kernel)) (met (by decide +kernel))
  exact ⟨_, r⟩

/-- Ring h2 counts one slot more than it has; h3 is empty; q2 awaits a result; c4 is an empty receiver. -/
@[irreducible] def o3 : State :=
  o1.mapCtx fun k => { k with
    rings := ((k.rings.set 2 (some ⟨0x1000, 0x12, 5, 0⟩)).set 3 (some ⟨0x1000, 0x12, 9, 9⟩)).set 5 (some ⟨0x1000, 0x1812, 0, 0⟩)
    ports := k.ports.set 2 ⟨[], [], 1, []⟩
    chans := k.chans.set 4 ⟨some ⟨1, 0, true⟩, []⟩ }

theorem witness_UnreadableSourcesTrapOrWait_traps (h : UnreadableSourcesTrapOrWait) :
    (exec (.add (.x 3) (.ring 0) (.x 1)) o3 = .next ((trapBase o3 [] none).takeTrap 0x0B (40 + (0 : BitVec 3).setWidth 64))) ∧
    (exec (.add (.x 3) (.ring 2) (.x 1)) o3 = .next ((trapBase o3 [] none).takeTrap 0x0B (40 + (2 : BitVec 3).setWidth 64))) ∧
    (exec (.add (.x 3) (.port 3) (.x 1)) o3 = .next ((trapBase o3 [] none).takeTrap 0x0B (48 + (3 : BitVec 2).setWidth 64))) ∧
    (exec (.add (.x 3) (.chan 0) (.x 1)) o3 = .next ((trapBase o3 [] none).takeTrap 0x0B (56 + (0 : BitVec 3).setWidth 64))) ∧
    exec (.add (.x 3) (.chan 3) (.x 1)) o3 = .next ((trapBase o3 [] none).takeTrap 0x0B (56 + (3 : BitVec 3).setWidth 64)) :=
  have g := (h o3 (.x 3) (.x 1) (solo (met (by decide +kernel))) (.inl (met (by decide +kernel)))).1
  ⟨g _ _ (.inl ⟨0, rfl, rfl, .inl (met (by decide +kernel))⟩), g _ _ (.inl ⟨2, rfl, rfl, .inr ⟨⟨0x1000, 0x12, 5, 0⟩, (met (by decide +kernel)), (met (by decide +kernel))⟩⟩), g _ _ (.inr (.inl ⟨3, rfl, rfl, (met (by decide +kernel)), (met (by decide +kernel))⟩)),
    g _ _ (.inr (.inr ⟨0, rfl, rfl, .inl (met (by decide +kernel))⟩)), g _ _ (.inr (.inr ⟨3, rfl, rfl, .inr ⟨⟨1, 5, false⟩, (met (by decide +kernel)), rfl⟩⟩))⟩

theorem witness_UnreadableSourcesTrapOrWait_waits (h : UnreadableSourcesTrapOrWait) :
    exec (.add (.x 3) (.x 7) (.x 1)) o3 = .next o3 ∧ exec (.add (.x 3) (.ring 3) (.x 1)) o3 = .next o3 ∧
    exec (.add (.x 3) (.port 2) (.x 1)) o3 = .next o3 ∧ exec (.add (.x 3) (.chan 4) (.x 1)) o3 = .next (o3.inReceive (.chan 4 1)) ∧
    exec (.add (.x 3) (.ring 5) (.x 1)) o3 = .next (o3.inReceive (.ring 5 1)) :=
  have g := (h o3 (.x 3) (.x 1) (solo (met (by decide +kernel))) (.inl (met (by decide +kernel)))).2
  ⟨g.1 7 (met (by decide +kernel)), g.2.1 3 ⟨0x1000, 0x12, 9, 9⟩ (met (by decide +kernel)) (met (by decide +kernel)), g.2.2.1 2 (met (by decide +kernel)) (met (by decide +kernel)), by have e := g.2.2.2 4 ⟨1, 0, true⟩ (met (by decide +kernel)) (met (by decide +kernel)) (met (by decide +kernel)); rwa [show o3.ctx.pops = [] by decide +kernel] at e, g.2.1 5 ⟨0x1000, 0x1812, 0, 0⟩ (met (by decide +kernel)) (met (by decide +kernel))⟩

/-- STAT, a whole command of one word and one result; the first word of an RSEND, of three; and its third, and an
RLAUNCH's second, after their earlier ones. -/
def stat0 : Word := BitVec.ofNat 64 (2 ^ 60 + 2 ^ 56 + 3 * 2 ^ 48)
def rsend0 : Word := BitVec.ofNat 64 (3 * 2 ^ 60 + 2 ^ 56 + 2 ^ 48)
def rlaunch0 : Word := BitVec.ofNat 64 (2 * 2 ^ 60 + 2 ^ 56 + 2 * 2 ^ 48)
@[irreducible] def o4 : State := o1.mapCtx fun k => { k with ports := k.ports.set 3 ⟨[rsend0, 0x40], [], 1, []⟩ }
@[irreducible] def o5 : State := o1.mapCtx fun k => { k with ports := k.ports.set 3 ⟨[rlaunch0], [], 1, []⟩ }

theorem witness_DestinationsTakeEveryForm_x (h : DestinationsTakeEveryForm) : ∃ t, Writes (.eret) (.x 31) 5 o1 t ∧ t.ctx.x.get 31 = 5 := by
  obtain ⟨t, w, -, -, e, -⟩ := (h o1 .eret 5).1 31 (met (by decide +kernel))
  exact ⟨t, w, e (by decide)⟩

theorem witness_DestinationsTakeEveryForm_chan (h : DestinationsTakeEveryForm) :
    Writes .eret (.chan 3) 5 o1 { o1 with due := o1.due ++ [⟨.channelWordArrival o1.who 3 1 5 5, none⟩] } :=
  (h o1 .eret 5).2.1 3 ⟨1, 5, false⟩ (met (by decide +kernel)) (met (by decide +kernel)) (met (by decide +kernel))

theorem witness_DestinationsTakeEveryForm_port (h : DestinationsTakeEveryForm) :
    (∃ t, Writes .eret (.port 1) stat0 o1 t) ∧ ∃ t, Writes .eret (.port 3) rsend0 o1 t := by
  obtain ⟨P, -, -, w⟩ := (h o1 .eret stat0).2.2.1 1 ⟨[], [11, 12], 1, []⟩ [stat0] (met (by decide +kernel)) (met (by decide +kernel)) (met (by decide +kernel)) (fun e => absurd rfl e) rfl
  obtain ⟨Q, -, -, u⟩ := (h o1 .eret rsend0).2.2.1 3 ⟨[], [], 0, []⟩ [rsend0] (met (by decide +kernel)) (met (by decide +kernel)) (met (by decide +kernel)) (fun e => absurd rfl e) rfl
  exact ⟨⟨_, w⟩, ⟨_, u⟩⟩

theorem witness_DestinationsTakeEveryForm_rsend (h : DestinationsTakeEveryForm) : ∃ t, Writes .eret (.port 3) 0xBFC0 o4 t :=
  ⟨_, ((h o4 .eret 0xBFC0).2.2.2 ⟨[rsend0, 0x40], [], 1, []⟩ rsend0 0x40 _ (met (by decide +kernel)) (met (by decide +kernel))).1 rfl (by decide) rfl (by decide)⟩

theorem witness_DestinationsTakeEveryForm_rlaunch (h : DestinationsTakeEveryForm) : ∃ t, Writes .eret (.port 3) 0x1000 o5 t :=
  ⟨_, ((h o5 .eret 0x1000).2.2.2 ⟨[rlaunch0], [], 1, []⟩ rlaunch0 0 _ (met (by decide +kernel)) (met (by decide +kernel))).2 [0, 0, 0, 0] _ rfl (by decide) (by decide) (runs (met (by decide +kernel))) rfl⟩

theorem witness_UnwritableDestinationsTrapOrWait (h : UnwritableDestinationsTrapOrWait) :
    exec (.add (.chan 2) (.x 1) (.x 1)) o1 = .next ((trapBase o1 [] none).takeTrap 0x0B (56 + (2 : BitVec 3).setWidth 64)) ∧
    exec (.add (.port 0) (.x 1) (.x 1)) o1 = .next ((trapBase o1 o1.ctx.pops none).takeTrap 0x0B (48 + (0 : BitVec 2).setWidth 64)) ∧
    exec (.add (.x 7) (.x 1) (.x 1)) o1 = .next o1 :=
  have g := h o1 o1 o1 (.x 1) (.x 1) 0x900000 0x900000 (solo (met (by decide +kernel))) (readsX (met (by decide +kernel)) (met (by decide +kernel))) (readsX (met (by decide +kernel)) (met (by decide +kernel)))
  ⟨g.1 2 (.inr ⟨⟨1, 0, true⟩, (met (by decide +kernel)), rfl⟩), g.2.1 0 (.inl (met (by decide +kernel))), g.2.2 7 (met (by decide +kernel))⟩

/-! ## Memory -/

theorem witness_LocalAddressesTranslate_last (h : LocalAddressesTranslate) :
    m1.xlate m1.asker .atomic true 0xBFFF = .ok (⟨2 ^ 49 + m1.core.id.toNat * 2 ^ 16 + (0xBFFF : Word).toNat, true, true, false⟩, none) :=
  (h m1 .atomic true 0xBFFF m1.asker).1 m1.core.id rfl (by decide)

theorem witness_LocalAddressesTranslate_past (h : LocalAddressesTranslate) :
    m1.xlate m1.asker .fetch false 0xC000 = .error 0x04 ∧ m1.xlate m1.asker .store false 0xFFFF = .error 0x05 ∧
    m1.xlate m1.asker .load false 0x10000000000000 = .error 0x04 ∧ m1.xlate ⟨none, 0, 0, false, true⟩ .load false 0 = .error 0x04 :=
  ⟨(h m1 .fetch false 0xC000 m1.asker).2 (met (by decide +kernel)), (h m1 .store false 0xFFFF m1.asker).2 (met (by decide +kernel)), (h m1 .load false 0x10000000000000 m1.asker).2 (met (by decide +kernel)),
    (h m1 .load false 0 ⟨none, 0, 0, false, true⟩).2 (.inr (.inr ⟨(met (by decide +kernel)), rfl⟩))⟩

theorem error_of {ε α : Type} {r : Except ε α} {e : ε} (h : (match r with | .error x => some x | .ok _ => none) = some e) : r = .error e := by
  cases r <;> cases h; rfl

/-- The leaf of the first pool page. -/
def e9 : Word := BitVec.ofNat 64 (2 ^ 48 + 31)
/-- What the walk to 0x900000 gives. -/
@[irreducible] def m1w : Walked := (m1.walk 0 0 0x900000).toOption.getD default

theorem witness_TranslationsFollowTheLeaf_goes (h : TranslationsFollowTheLeaf) :
    m1.xlate m1.asker .atomic false 0x900000 = .ok (⟨2 ^ 48 + 0x100000, false, false, true⟩, some m1w) := by
  have e := (h m1 m1.asker .atomic false true 0x900000 e9 0x900000 (2 ^ 48 + 0x100000) m1w (met (by decide +kernel)) (met (by decide +kernel)) (met (by decide +kernel))).2 (ok_of_toOption (met (by decide +kernel))) (met (by decide +kernel)) (met (by decide +kernel)) (met (by decide +kernel))
  rwa [show (if true = true then (.ok (⟨2 ^ 48 + 0x100000, false, e9.getLsbD 9, regionOf (2 ^ 48 + 0x100000) == .control || e9.extractLsb' 6 2 == 0⟩, some m1w) : Except (BitVec 8) (Phys × Option Walked)) else .error 0x06) =
    .ok (⟨2 ^ 48 + 0x100000, false, false, true⟩, some m1w) from rfl] at e

/-- Control space, for an access that is no LD of 8 bytes; the page at 0x10000, which no entry maps. -/
theorem witness_TranslationsFollowTheLeaf_refused (h : TranslationsFollowTheLeaf) : m1.xlate m1.asker .load false 0x1000000 = .error 0x06 :=
  (h m1 m1.asker .load false false 0x1000000 (BitVec.ofNat 64 (3 * 2 ^ 48 + 31)) 0x1000000 (3 * 2 ^ 48) m1walked (met (by decide +kernel)) (met (by decide +kernel)) (met (by decide +kernel))).2 (ok_of_toOption (met (by decide +kernel))) (met (by decide +kernel)) (met (by decide +kernel)) (met (by decide +kernel))

theorem witness_TranslationsFollowTheLeaf_unmapped (h : TranslationsFollowTheLeaf) : m1.xlate m1.asker .store false 0x10000 = .error 0x05 :=
  (h m1 m1.asker .store false false 0x10000 0 0x10000 0 default (met (by decide +kernel)) (met (by decide +kernel)) (met (by decide +kernel))).1 .translation (error_of (met (by decide +kernel)))

/-- The non-leaf entries on the way to 0x900000. -/
@[irreducible] def m1e9 : List (Nat × Word) := ((m1.walkFrom 0 0 0x900000 3 (2 ^ 48)).toOption.getD default).2.2

/-- A table in the first granule that the tenant does not own. -/
theorem witness_WalksReadTheTables_owner (h : WalksReadTheTables) : m1.walkFrom 0 0 0x900000 3 (2 ^ 48 + 8 * 2 ^ 20) = .error .permission :=
  (h m1 0 0 0x900000 3 (2 ^ 48 + 8 * 2 ^ 20) (2 ^ 48 + 8 * 2 ^ 20) 0 0 (met (by decide +kernel)) (met (by decide +kernel)) (met (by decide +kernel)) rfl).1 (met (by decide +kernel))

theorem witness_WalksReadTheTables_leaf (h : WalksReadTheTables) : m1.walkFrom 0 0 0x900000 1 (2 ^ 48 + 16384) = .ok (e9, 1, []) :=
  (((h m1 0 0 0x900000 1 (2 ^ 48 + 16384) (2 ^ 48 + 16392) e9.toNat e9 (met (by decide +kernel)) (met (by decide +kernel)) (met (by decide +kernel)) (met (by decide +kernel))).2 (met (by decide +kernel)) (met (by decide +kernel)) (met (by decide +kernel)) (met (by decide +kernel))).2 (met (by decide +kernel))).1 (met (by decide +kernel)) (met (by decide +kernel)) (met (by decide +kernel)) (met (by decide +kernel)) (met (by decide +kernel)) (met (by decide +kernel)) (met (by decide +kernel))

theorem witness_WalksReadTheTables_table (h : WalksReadTheTables) :
    m1.walkFrom 0 0 0x900000 2 (2 ^ 48 + 8192) = .ok (e9, 1, [(2, BitVec.ofNat 64 (2 ^ 48 + 16385))]) := by
  have e := (((h m1 0 0 0x900000 2 (2 ^ 48 + 8192) (2 ^ 48 + 8192) (2 ^ 48 + 16385) (BitVec.ofNat 64 (2 ^ 48 + 16385)) (met (by decide +kernel)) (met (by decide +kernel)) (met (by decide +kernel)) (met (by decide +kernel))).2 (met (by decide +kernel)) (met (by decide +kernel)) (met (by decide +kernel)) (met (by decide +kernel))).2 (met (by decide +kernel))).2.1
    1 rfl (met (by decide +kernel)) (met (by decide +kernel)) (met (by decide +kernel)) (met (by decide +kernel))
  rw [ok_of_toOption (v := (e9, 1, [])) (r := m1.walkFrom 0 0 0x900000 1 ((BitVec.ofNat 64 (2 ^ 48 + 16385)).toNat % 2 ^ 52 / 2 ^ 13 * 2 ^ 13)) (met (by decide +kernel))] at e
  exact e

theorem witness_WalksReadTheTables_invalid (h : WalksReadTheTables) : m1.walkFrom 0 0 0x10000 1 (2 ^ 48 + 16384) = .error .translation :=
  (((h m1 0 0 0x10000 1 (2 ^ 48 + 16384) (2 ^ 48 + 16384) 0 0 (met (by decide +kernel)) (met (by decide +kernel)) (met (by decide +kernel)) (met (by decide +kernel))).2 (met (by decide +kernel)) (met (by decide +kernel)) (met (by decide +kernel)) (met (by decide +kernel))).2 (met (by decide +kernel))).2.2 (met (by decide +kernel))

/-- An entry that meets an uncorrectable error. -/
@[irreducible] def m1e : State := { m1 with bad := [2 ^ 48 / 8 + 16392 / 8] }
theorem witness_WalksReadTheTables_error (h : WalksReadTheTables) : m1e.walkFrom 0 0 0x900000 1 (2 ^ 48 + 16384) = .error .memory :=
  ((h m1e 0 0 0x900000 1 (2 ^ 48 + 16384) (2 ^ 48 + 16392) e9.toNat e9 (met (by decide +kernel)) (met (by decide +kernel)) (met (by decide +kernel)) (met (by decide +kernel))).2 (met (by decide +kernel)) (met (by decide +kernel)) (met (by decide +kernel)) (met (by decide +kernel))).1 (met (by decide +kernel))

theorem witness_WalksCheckTheirLeaf_maps (h : WalksCheckTheirLeaf) :
    m1.walk 0 0 0x900000 = .ok ⟨⟨0x800000, 0x800000, e9⟩, (m1e9.map fun n => ⟨n.1, 0x900000 / 2 ^ (13 + 10 * n.1) * 2 ^ (13 + 10 * n.1), n.2⟩)⟩ :=
  ((((h m1 0 0 0x900000 (2 ^ 48) 0x800000 0x800000 1 (BitVec.ofNat 64 (2 ^ 48 + 1)) e9 m1e9 .memory (met (by decide +kernel)) (met (by decide +kernel)) (met (by decide +kernel)) (met (by decide +kernel))).2 (met (by decide +kernel))).2 (ok_of_toOption (met (by decide +kernel)))).2 (met (by decide +kernel)) (met (by decide +kernel))).2 (met (by decide +kernel)) (met (by decide +kernel))

/-- A leaf that covers addresses below 0x10000; one whose page another tenant owns. -/
@[irreducible] def m1l : State := m1.poke (2 ^ 48 + 16384) (pte leaf (2 ^ 48) ++ pte leaf (2 ^ 48 + 0x800000))
@[irreducible] def m1ls : List (Nat × Word) := ((m1l.walkFrom 0 0 0x10000 3 (2 ^ 48)).toOption.getD default).2.2

theorem witness_WalksCheckTheirLeaf_low (h : WalksCheckTheirLeaf) : m1l.walk 0 0 0x10000 = .error .translation :=
  (((h m1l 0 0 0x10000 (2 ^ 48) 0 0x800000 1 (BitVec.ofNat 64 (2 ^ 48 + 1)) e9 m1ls .memory (met (by decide +kernel)) (met (by decide +kernel)) (met (by decide +kernel)) (met (by decide +kernel))).2 (met (by decide +kernel))).2 (ok_of_toOption (met (by decide +kernel)))).1 (met (by decide +kernel))

theorem witness_WalksCheckTheirLeaf_owner (h : WalksCheckTheirLeaf) : m1l.walk 0 0 0x900000 = .error .permission :=
  ((((h m1l 0 0 0x900000 (2 ^ 48 + 0x800000) 0x800000 0x800000 1 (BitVec.ofNat 64 (2 ^ 48 + 1)) (BitVec.ofNat 64 (2 ^ 48 + 0x800000 + 31)) m1ls .memory (met (by decide +kernel)) (met (by decide +kernel)) (met (by decide +kernel)) (met (by decide +kernel))).2 (met (by decide +kernel))).2
    (ok_of_toOption (met (by decide +kernel)))).2 (met (by decide +kernel)) (met (by decide +kernel))).1 (met (by decide +kernel))

theorem witness_WalksCheckTheirLeaf_off (h : WalksCheckTheirLeaf) : m1.walk 1 0 0x900000 = .error .translation :=
  (h m1 1 0 0x900000 0 0x900000 0x2000 0 0 0 [] .memory (met (by decide +kernel)) (met (by decide +kernel)) (met (by decide +kernel)) (met (by decide +kernel))).1 (met (by decide +kernel))

theorem witness_TlbsHoldTranslations (h : TlbsHoldTranslations) :
    m1.entry 0 0 0x900000 = m1.walk 0 0 0x900000 ∧ m1w.leaf ∈ ((m1.fill 0 m1w).cluster 0).tlb :=
  ⟨(h m1 0 0 0x900000 m1w).2.1 (met (by decide +kernel)) (met (by decide +kernel)), (h m1 0 0 0x900000 m1w).2.2.1⟩

theorem witness_StoredBytesReadBack (h : StoredBytesReadBack) :
    (m1.poke 0 [1, 2]).byte (0 + 1) = 2 ∧ (m1.poke 0 [1, 2]).byte 2 = m1.byte 2 :=
  ⟨(h m1 0 2 [1, 2] (by unfold State.Inv; decide +kernel)).2.1 1 (by decide), (h m1 0 2 [1, 2] (by unfold State.Inv; decide +kernel)).2.2 (.inr (by decide))⟩

/-! ## Messages and launches -/

/-- x1 to x8 descriptors and values: to core 1 at 0xBFF8; 64 bytes to core 1 at 0xBFC0; a LEN; misaligned; past the end; and
a record of a launch in memory at 0x900000. -/
@[irreducible] def e1 : State :=
  withX [(1, 0x10BFF8), (2, 0x2_0010_BFC0), (3, 0x10BFF4), (4, 0x10C000), (5, 0xBFC0), (6, 0x900000), (8, 0x100_0000)]
    (base.poke (2 ^ 48 + 0x100000) (bytesOfNat 8 (2 ^ 13 + 1) ++ bytesOfNat 8 0x800 ++ bytesOfNat 8 7 ++ bytesOfNat 8 8))
/-- Cluster 1 is another tenant's. -/
@[irreducible] def e2 : State := e1.setCluster 1 { Cluster.reset with xten := 3 }

theorem witness_MessagesLeaveTheCore_send (h : MessagesLeaveTheCore) :
    exec (.send (.x 1) (.x 5)) e1 = .next (retire e1 (noted (BitVec.ofNat 64 (2 ^ 49 + 2 ^ 16 + 0xBFF8)) 2
      (outgoing (.msg 1 0xBFF8 0 false (bytesOfNat 8 0xBFC0)) (.messageArrival e1.core.id 1) e1)) {}) :=
  ((h e1 e1 e1 (.x 1) (.x 5) 0x10BFF8 0xBFC0 false 0xBFF8 0 1 0 _ (solo (met (by decide +kernel))) (readsX (met (by decide +kernel)) (met (by decide +kernel))) (readsX (met (by decide +kernel)) (met (by decide +kernel))) rfl rfl rfl rfl rfl).1 (met (by decide +kernel)) (met (by decide +kernel)) (met (by decide +kernel)) (met (by decide +kernel))).1 (met (by decide +kernel)) (met (by decide +kernel)) (met (by decide +kernel))

theorem witness_MessagesLeaveTheCore_sendm (h : MessagesLeaveTheCore) :
    exec (.sendm (.x 2) (.x 5) true) e1 = .next (retire e1 (noted (BitVec.ofNat 64 (2 ^ 49 + 2 ^ 16 + 0xBFC0)) 2
      (outgoing (.msg 1 0xBFC0 0 true (e1.view (2 ^ 49 + e1.core.id.toNat * 2 ^ 16 + (0xBFC0 : Word).toNat) (64 * 1))) (.messageArrival e1.core.id 1) e1)) {}) :=
  ((h e1 e1 e1 (.x 2) (.x 5) 0x20010BFC0 0xBFC0 true 0xBFC0 1 1 0 _ (solo (met (by decide +kernel))) (readsX (met (by decide +kernel)) (met (by decide +kernel))) (readsX (met (by decide +kernel)) (met (by decide +kernel))) rfl rfl rfl rfl rfl).1 (met (by decide +kernel)) (met (by decide +kernel)) (met (by decide +kernel)) (met (by decide +kernel))).2
    (met (by decide +kernel)) (met (by decide +kernel)) (met (by decide +kernel)) (met (by decide +kernel)) (met (by decide +kernel)) (met (by decide +kernel)) (met (by decide +kernel))

theorem witness_MessagesLeaveTheCore_traps (h : MessagesLeaveTheCore) :
    exec (.send (.x 2) (.x 5)) e1 = .next ((trapBase e1 e1.ctx.pops none).takeTrap 0x01 (wordOf (.send (.x 2) (.x 5)))) ∧
    exec (.send (.x 3) (.x 5)) e1 = .next ((trapBase e1 e1.ctx.pops none).takeTrap 0x03 (BitVec.ofNat 64 0xBFF4)) ∧
    exec (.send (.x 4) (.x 5)) e1 = .next ((trapBase e1 e1.ctx.pops none).takeTrap 0x1A (BitVec.ofNat 64 (max 0xC000 0xC000))) ∧
    exec (.send (.x 8) (.x 5)) e2 = .next ((trapBase e2 e2.ctx.pops none).takeTrap 0x06 (BitVec.ofNat 64 (2 ^ 49 + 0x10 * 2 ^ 16))) :=
  ⟨(h e1 e1 e1 (.x 2) (.x 5) 0x20010BFC0 0xBFC0 true 0xBFC0 1 1 0 _ (solo (met (by decide +kernel))) (readsX (met (by decide +kernel)) (met (by decide +kernel))) (readsX (met (by decide +kernel)) (met (by decide +kernel))) rfl rfl rfl rfl rfl).2.1 (.inr (met (by decide +kernel))),
   (h e1 e1 e1 (.x 3) (.x 5) 0x10BFF4 0xBFC0 true 0xBFF4 0 1 0 _ (solo (met (by decide +kernel))) (readsX (met (by decide +kernel)) (met (by decide +kernel))) (readsX (met (by decide +kernel)) (met (by decide +kernel))) rfl rfl rfl rfl rfl).2.2.1 (met (by decide +kernel)) rfl (met (by decide +kernel)),
   (h e1 e1 e1 (.x 4) (.x 5) 0x10C000 0xBFC0 true 0xC000 0 1 0 _ (solo (met (by decide +kernel))) (readsX (met (by decide +kernel)) (met (by decide +kernel))) (readsX (met (by decide +kernel)) (met (by decide +kernel))) rfl rfl rfl rfl rfl).2.2.2.1 (met (by decide +kernel)) rfl (met (by decide +kernel)) (met (by decide +kernel)),
   (h e2 e2 e2 (.x 8) (.x 5) 0x1000000 0xBFC0 true 0 0 0x10 0 _ (solo (met (by decide +kernel))) (readsX (met (by decide +kernel)) (met (by decide +kernel))) (readsX (met (by decide +kernel)) (met (by decide +kernel))) rfl rfl rfl rfl rfl).2.2.2.2 (met (by decide +kernel)) rfl (met (by decide +kernel)) (met (by decide +kernel)) (met (by decide +kernel))⟩

theorem witness_LaunchesLeaveTheCore (h : LaunchesLeaveTheCore) : ∃ t, exec (.launch (.x 6)) e1 = .next t :=
  ⟨_, h e1 e1 _ _ (.x 6) 0x900000 0x2001 0x800 7 8 (bytesOfNat 8 (2 ^ 13 + 1) ++ bytesOfNat 8 0x800 ++ bytesOfNat 8 7 ++ bytesOfNat 8 8)
    (solo (met (by decide +kernel))) (readsX (met (by decide +kernel)) (met (by decide +kernel))) (met (by decide +kernel)) (runs (met (by decide +kernel))) (met (by decide +kernel)) (met (by decide +kernel)) (met (by decide +kernel)) (met (by decide +kernel)) (met (by decide +kernel)) (met (by decide +kernel)) (met (by decide +kernel)) (met (by decide +kernel)) (met (by decide +kernel)) (met (by decide +kernel)) (runs (met (by decide +kernel)))⟩

/-! ## Receives, counters, rings, lines, channels -/

/-- Counter 2 at 5, counter 15 at 6 + 2^31. -/
@[irreducible] def r1 : State :=
  (withX [(1, 5), (2, 0x8004), (3, 0x1000), (4, 3), (5, 6)] base).mapFocus fun c => (c.setCounter 2 ⟨5, 0⟩).setCounter 15 ⟨0x80000006, 0⟩

theorem witness_ReceivesCompleteOrWait_wait (h : Obligations.ReceivesCompleteOrWait) :
    exec (.wait (.x 6) 2 (.x 1)) r1 = .next (retire r1 (put (.wait (.x 6) 2 (.x 1)) 6 5 r1) {}) ∧
    exec (.wait (.x 6) 15 (.x 5)) r1 = .next (r1.inReceive (.counter 15 6)) :=
  ⟨((h r1 r1 _ r1 (.x 6) (.x 1) (.x 1) 2 0 5 0 (solo (met (by decide +kernel)))).1 (readsX (met (by decide +kernel)) (met (by decide +kernel)))).1 (met (by decide +kernel)) (writesX (met (by decide +kernel)) (met (by decide +kernel))),
   ((h r1 r1 r1 r1 (.x 6) (.x 1) (.x 5) 15 0 6 0 (solo (met (by decide +kernel)))).1 (readsX (met (by decide +kernel)) (met (by decide +kernel)))).2 (met (by decide +kernel))⟩

theorem witness_ReceivesCompleteOrWait_waitany (h : Obligations.ReceivesCompleteOrWait) :
    exec (.waitany (.x 6) (.x 0) (.x 1)) r1 = .next ((trapBase r1 r1.ctx.pops none).takeTrap 0x01 (wordOf (.waitany (.x 6) (.x 0) (.x 1)))) ∧
    exec (.waitany (.x 6) (.x 2) (.x 1)) r1 = .next (retire r1 (put (.waitany (.x 6) (.x 2) (.x 1)) 6 4 r1) {}) ∧
    exec (.waitany (.x 6) (.x 2) (.x 5)) r1 = .next (r1.inReceive (.any 0x8004 6)) := by
  refine ⟨((h r1 r1 r1 r1 (.x 6) (.x 0) (.x 1) 0 0 5 0 (solo (met (by decide +kernel)))).2 (readsX (met (by decide +kernel)) (met (by decide +kernel))) (readsX (met (by decide +kernel)) (met (by decide +kernel)))).1 (.inl rfl),
    (((h r1 r1 r1 _ (.x 6) (.x 2) (.x 1) 0 0x8004 5 4 (solo (met (by decide +kernel)))).2 (readsX (met (by decide +kernel)) (met (by decide +kernel))) (readsX (met (by decide +kernel)) (met (by decide +kernel)))).2 (met (by decide +kernel)) (met (by decide +kernel)) ?_).1 (met (by decide +kernel)) (writesX (met (by decide +kernel)) (met (by decide +kernel))),
    (((h r1 r1 r1 r1 (.x 6) (.x 2) (.x 5) 0 0x8004 6 0 (solo (met (by decide +kernel)))).2 (readsX (met (by decide +kernel)) (met (by decide +kernel))) (readsX (met (by decide +kernel)) (met (by decide +kernel)))).2 (met (by decide +kernel)) (met (by decide +kernel)) ?_).2 rfl⟩
  · have e : ∀ j : Fin 64, (4#64).getLsbD j.val = (decide (j.val < 16) && (0x8004#64).getLsbD j.val &&
        decide (((r1.core.counters.get (BitVec.ofNat 4 j.val).toFin).val - (5#64).setWidth 32).toNat < 2 ^ 31)) := by decide +kernel
    intro j
    by_cases hj : j < 64
    · exact e ⟨j, hj⟩
    · rw [BitVec.getLsbD_of_ge _ _ (by omega), decide_eq_false (show ¬ j < 16 by omega)]; rfl
  · have e : ∀ j : Fin 64, (0#64).getLsbD j.val = (decide (j.val < 16) && (0x8004#64).getLsbD j.val &&
        decide (((r1.core.counters.get (BitVec.ofNat 4 j.val).toFin).val - (6#64).setWidth 32).toNat < 2 ^ 31)) := by decide +kernel
    intro j
    by_cases hj : j < 64
    · exact e ⟨j, hj⟩
    · rw [BitVec.getLsbD_of_ge _ _ (by omega), decide_eq_false (show ¬ j < 16 by omega)]; rfl

end Sys2Proof.Tests
end

