-- ==== Sys2Proof/Tests/Witness5.lean ====
section
/-! SUPPORT. Witnesses: counters, rings, lines and channels; what arrives, launches, watches, spills and fills. -/

-- One theorem after the other: elaborating many at once needs more threads than the memory limit holds.
set_option Elab.async false

open Sys2Proof Sys2Proof.Machine Sys2Proof.Statements

namespace Sys2Proof.Tests

/-! ## Counters, rings, lines, channels -/

/-- Ring h1 of 4 slots of 64 bytes, two of them filled; x1 = 5, x2 = 0x38 (256 slots of 192 bytes), x3 = 2, x6 = 0xBF80,
x7 = 1, x8 = 0xBFFF, x9 = 2^14. -/
@[irreducible] def c1 : State :=
  (withX [(1, 5), (2, 0x38), (3, 2), (6, 0xBF80), (7, 1), (8, 0xBFFF), (9, 0x4000), (10, 3)] base).mapCtx fun k => { k with
    rings := k.rings.set 1 (some ⟨0x1000, 0x12, 3, 1⟩) }

theorem witness_CountersRingsAndLinesChange_counters (h : CountersRingsAndLinesChange) :
    exec (.ctradd 15 (.x 1)) c1 = .next (retire c1 (c1.mapFocus fun c =>
      { c with counters := c.counters.set (15 : BitVec 4).toNat ⟨(c.counters.get (15 : BitVec 4).toFin).val + (5 : Word).setWidth 32,
        (c.counters.get (15 : BitVec 4).toFin).tag⟩ (15 : BitVec 4).isLt }) {}) ∧
    exec (.ctrset 15 (.x 1) (.x 9)) c1 = .next ((trapBase c1 c1.ctx.pops none).takeTrap 0x01 (wordOf (.ctrset 15 (.x 1) (.x 9)))) ∧
    exec (.ctrset 0 (.x 1) (.x 7)) c1 = .next (retire c1 (c1.mapFocus fun c =>
      { c with counters := c.counters.set (0 : BitVec 4).toNat ⟨(5 : Word).setWidth 32, (1 : Word).setWidth 14⟩ (0 : BitVec 4).isLt }) {}) :=
  have r : Reads (.x 1) c1 5 c1 := readsX (met (by decide +kernel)) (met (by decide +kernel))
  ⟨(h c1 c1 c1 c1 (.x 3) (.x 1) (.x 9) 15 1 5 0x4000 default (solo (met (by decide +kernel))) r).1,
   ((h c1 c1 c1 c1 (.x 3) (.x 1) (.x 9) 15 1 5 0x4000 default (solo (met (by decide +kernel))) r).2.1 (readsX (met (by decide +kernel)) (met (by decide +kernel)))).2.1 (met (by decide +kernel)),
   ((h c1 c1 c1 c1 (.x 3) (.x 1) (.x 7) 0 1 5 1 default (solo (met (by decide +kernel))) r).2.1 (readsX (met (by decide +kernel)) (met (by decide +kernel)))).1 (met (by decide +kernel))⟩

/-- A ring that ends at 0xC000; and one that is unbound. -/
theorem witness_CountersRingsAndLinesChange_rset (h : CountersRingsAndLinesChange) :
    exec (.rset (.ring 7) (.x 0) (.x 2)) c1 = .next (retire c1 (c1.mapCtx fun k => { k with
      rings := k.rings.set (7 : BitVec 3).toNat (some ⟨0, 0x38, 0, 0⟩) (7 : BitVec 3).isLt }) {}) ∧
    exec (.rset (.ring 1) (.x 0) (.x 0)) c1 = .next (retire c1 (c1.mapCtx fun k => { k with
      rings := k.rings.set (1 : BitVec 3).toNat none (1 : BitVec 3).isLt }) {}) :=
  ⟨((h c1 c1 c1 c1 (.x 3) (.x 0) (.x 2) 0 7 0 0x38 ⟨0, 0x38, 0, 0⟩ (solo (met (by decide +kernel))) (readsX (met (by decide +kernel)) (met (by decide +kernel)))).2.1 (readsX (met (by decide +kernel)) (met (by decide +kernel)))).2.2.2.1 8 3 (met (by decide +kernel)) (met (by decide +kernel)) (met (by decide +kernel)) (met (by decide +kernel)) (met (by decide +kernel)) (met (by decide +kernel)) (met (by decide +kernel)) (met (by decide +kernel)) (met (by decide +kernel)) (met (by decide +kernel)) rfl,
   ((h c1 c1 c1 c1 (.x 3) (.x 0) (.x 0) 0 1 0 0 default (solo (met (by decide +kernel))) (readsX (met (by decide +kernel)) (met (by decide +kernel)))).2.1 (readsX (met (by decide +kernel)) (met (by decide +kernel)))).2.2.1 rfl⟩

/-- The last line of local memory. -/
theorem witness_CountersRingsAndLinesChange_lines (h : CountersRingsAndLinesChange) :
    (∃ t, exec (.lfull (.x 6) (.x 7)) c1 = .next t) ∧ (∃ t, exec (.lempty (.x 6) (.x 7)) c1 = .next t) ∧
    exec (.ltest (.x 4) (.x 8)) c1 = .next (retire c1 (put (.ltest (.x 4) (.x 8)) 4 0 c1) {}) := by
  obtain ⟨F, E, -, -, f, e⟩ := ((h c1 c1 c1 c1 (.x 3) (.x 6) (.x 7) 0 7 0xBF80 1 default (solo (met (by decide +kernel))) (readsX (met (by decide +kernel)) (met (by decide +kernel)))).2.1 (readsX (met (by decide +kernel)) (met (by decide +kernel)))).2.2.2.2 1 rfl
    (fun _ => (met (by decide +kernel))) (met (by decide +kernel))
  exact ⟨⟨_, f⟩, ⟨_, e⟩, (h c1 c1 c1 _ (.x 4) (.x 8) (.x 7) 0 7 0xBFFF 1 default (solo (met (by decide +kernel))) (readsX (met (by decide +kernel)) (met (by decide +kernel)))).2.2.1 (met (by decide +kernel)) (writesX (met (by decide +kernel)) (met (by decide +kernel)))⟩

/-- As many slots as are filled, and as are empty; and one slot for RFILL. -/
theorem witness_CountersRingsAndLinesChange_rings (h : CountersRingsAndLinesChange) :
    exec (.radvc 1 (.x 3)) c1 = .next (retire c1 (c1.mapCtx fun k => { k with
      rings := k.rings.set (1 : BitVec 3).toNat (some ⟨0x1000, 0x12, 3, 1 + (2 : Word).setWidth 32⟩) (1 : BitVec 3).isLt }) {}) ∧
    exec (.radvp 1 (.x 3)) c1 = .next (retire c1 (c1.mapCtx fun k => { k with
      rings := k.rings.set (1 : BitVec 3).toNat (some ⟨0x1000, 0x12, 3 + (2 : Word).setWidth 32, 1⟩) (1 : BitVec 3).isLt }) {}) ∧
    exec (.rfill (.x 4) 1 (.x 3) false) c1 = .next (retire c1 (put (.rfill (.x 4) 1 (.x 3) false) 4 0x1040 c1) {}) ∧
    exec (.rfill (.x 4) 1 (.x 3) true) c1 = .next (retire c1 (put (.rfill (.x 4) 1 (.x 3) true) 4 0x10C0 c1) {}) :=
  have g := fun w s3 => (h c1 c1 c1 s3 (.x 4) (.x 3) (.x 3) 0 1 2 2 ⟨0x1000, 0x12, 3, 1⟩ (solo (met (by decide +kernel))) (readsX (met (by decide +kernel)) (met (by decide +kernel)))).2.2.2 w 2 (met (by decide +kernel)) (met (by decide +kernel)) rfl
  ⟨(g true c1).1 (met (by decide +kernel)), (g true c1).2.1 (met (by decide +kernel)) (met (by decide +kernel)), (g false _).2.2.1 (met (by decide +kernel)) rfl (writesX (met (by decide +kernel)) (met (by decide +kernel))), (g true _).2.2.2 (met (by decide +kernel)) (met (by decide +kernel)) rfl (writesX (met (by decide +kernel)) (met (by decide +kernel)))⟩

/-- x1: port 0 of core 0x7FF of the die; x2: of the next die. -/
@[irreducible] def c2 : State := withX [(1, 0x7FF), (2, 0x800), (3, 3), (4, 1)] base

theorem witness_ChannelsAreBound (h : ChannelsAreBound) :
    exec (.rset (.chan 0) (.x 1) (.x 3)) c2 = .next (retire c2 (c2.mapCtx fun k => { k with
      chans := k.chans.set (0 : BitVec 3).toNat ⟨some ⟨(0x7FF : Word).extractLsb' 0 13, (0x7FF : Word).extractLsb' 13 3, decide ((3 : Word) = 3)⟩, []⟩
        (0 : BitVec 3).isLt }) {}) ∧
    exec (.rset (.chan 0) (.x 1) (.x 0)) c2 = .next (retire c2 (c2.mapCtx fun k => { k with
      chans := k.chans.set (0 : BitVec 3).toNat ⟨none, []⟩ (0 : BitVec 3).isLt }) {}) ∧
    exec (.rset (.chan 7) (.x 2) (.x 4)) c2 = .next ((trapBase c2 c2.ctx.pops none).takeTrap 0x0B (56 + (7 : BitVec 3).setWidth 64)) :=
  ⟨(h c2 c2 c2 0 (.x 1) (.x 3) 0x7FF 3 (solo (met (by decide +kernel))) (readsX (met (by decide +kernel)) (met (by decide +kernel))) (readsX (met (by decide +kernel)) (met (by decide +kernel))) (met (by decide +kernel)) (met (by decide +kernel))).2.1 (.inr rfl) (met (by decide +kernel)),
   (h c2 c2 c2 0 (.x 1) (.x 0) 0x7FF 0 (solo (met (by decide +kernel))) (readsX (met (by decide +kernel)) (met (by decide +kernel))) (readsX (met (by decide +kernel)) (met (by decide +kernel))) (met (by decide +kernel)) (met (by decide +kernel))).1 rfl,
   (h c2 c2 c2 7 (.x 2) (.x 4) 0x800 1 (solo (met (by decide +kernel))) (readsX (met (by decide +kernel)) (met (by decide +kernel))) (readsX (met (by decide +kernel)) (met (by decide +kernel))) (met (by decide +kernel)) (met (by decide +kernel))).2.2 (.inl rfl) (met (by decide +kernel))⟩

/-! ## Arrivals -/

theorem takes {a : Act} {t : Option Nat} {s u : State} (h : s = { u with due := ⟨a, t⟩ :: u.due }) : Takes a s u := by
  subst h; exact ⟨⟨t, rfl⟩, rfl⟩

theorem find_mem {α : Type} {i : Nat} {c : α} : ∀ {t : Tab α}, t.find? i = some c → (i, c) ∈ t
  | (k, w) :: r, h => by
    unfold Tab.find? at h
    split at h
    · next e => cases h; subst e; exact .head _
    · exact .tail _ (find_mem h)

theorem named {s : State} (h : (s.others.all fun e => e.2.id == BitVec.ofNat 13 e.1) = true) : s.Named := by
  intro id; unfold State.getCore
  by_cases e : id = s.core.id
  · rw [if_pos e]; exact e.symm
  · rw [if_neg e]; unfold Tab.get
    cases f : s.others.find? id.toNat with
    | none => rfl
    | some c =>
      have := List.all_eq_true.mp h _ (find_mem f)
      simpa using this

/-- With an act due. -/
def due (a : Act) (t : Option Nat) (s : State) : State := { s with due := ⟨a, t⟩ :: s.due }
theorem dueHead (a : Act) (t : Option Nat) (s : State) : (due a t s).due = ⟨a, t⟩ :: s.due := rfl
theorem dueRest (a : Act) (t : Option Nat) (s : State) : s = { (due a t s) with due := s.due } := rfl
theorem takesDue {a : Act} {t : Option Nat} {s : State} : Takes a (due a t s) s := ⟨⟨t, rfl⟩, rfl⟩

/-- A message to core 1, its 8 bytes at the end of local memory, behind a launch. -/
@[irreducible] def a1 : State := base.mapFocus fun c => { c with outbox := [.launch default, .msg 1 0xBFF8 3 true [1, 2, 3, 4, 5, 6, 7, 8]] }
/-- Core 1 in its compute phase; its arrivals held. -/
@[irreducible] def a2 : State := a1.modCore 1 fun c => { c with front := { c.front with life := .live, phase := 1 } }
/-- Core 1 halted in its compute phase: its arrivals land again. -/
@[irreducible] def a5 : State := a1.modCore 1 fun c => { c with front := { c.front with phase := 1 } }
@[irreducible] def a3 : State := a1.modCore 1 fun c => { c with holding := true }

def msg1 : OutMsg := .msg 1 0xBFF8 3 true [1, 2, 3, 4, 5, 6, 7, 8]

theorem witness_ArrivalsLand_message (h : Obligations.ArrivalsLand) :
    exec .messageArrival (due (.messageArrival 0 1) none a3) = .next (due (.messageArrival 0 1) none a3) ∧
    exec .messageArrival (due (.messageArrival 0 1) none a2) =
      .next ((a2.modCore 0 fun c => { c with outbox := [.launch default] ++ [] }).modCore 1 fun c => { c with discards := c.discards + 1 }) ∧
    ∃ t, exec .messageArrival (due (.messageArrival 0 1) none a1) = .next t := by
  have nb : ∀ m ∈ [OutMsg.launch default], ∀ o c g l, m ≠ .msg 1 o c g l := by intro m hm; cases List.mem_singleton.mp hm; intros; intro e; cases e
  refine ⟨((h _ a3 0 1 0xBFF8 3 true [1, 2, 3, 4, 5, 6, 7, 8] [] [] (named (met (by decide +kernel)))).1 takesDue).1 (met (by decide +kernel)),
    (((h _ a2 0 1 0xBFF8 3 true [1, 2, 3, 4, 5, 6, 7, 8] [.launch default] [] (named (met (by decide +kernel)))).1 takesDue).2 (met (by decide +kernel)) (met (by decide +kernel)) nb _ rfl).1 (met (by decide +kernel)) (met (by decide +kernel)), ?_⟩
  obtain ⟨F, e, -⟩ := (((h (due (.messageArrival 0 1) none a1) a1 0 1 0xBFF8 3 true [1, 2, 3, 4, 5, 6, 7, 8] [.launch default] [] (named (met (by decide +kernel)))).1 takesDue).2 (met (by decide +kernel)) (met (by decide +kernel)) nb _ rfl).2
    (.inr (met (by decide +kernel))) (by decide) (by decide)
  exact ⟨_, e⟩

theorem witness_ArrivalsLand_xsend (h : Obligations.ArrivalsLand) :
    exec .xsendArrival (due (.xsendArrival ⟨0, 0⟩ 1 0xBFC0 [1]) none a2) = .next (a2.modCore 1 fun c => { c with discards := c.discards + 1 }) ∧
    exec .xsendArrival (due (.xsendArrival ⟨0, 0⟩ 1 0xBFC0 [1]) none a5) =
      .next (a5.poke (2 ^ 49 + (1 : CoreId).toNat * 2 ^ 16 + (0xBFC0 : BitVec 16).toNat) [1]) :=
  ⟨((h _ a2 0 1 0xBFC0 0 false [1] [] [] (named (met (by decide +kernel)))).2.1 ⟨0, 0⟩ takesDue (met (by decide +kernel))).1 (met (by decide +kernel)) (met (by decide +kernel)),
   ((h _ a5 0 1 0xBFC0 0 false [1] [] [] (named (met (by decide +kernel)))).2.1 ⟨0, 0⟩ takesDue (met (by decide +kernel))).2 (.inr (met (by decide +kernel)))⟩

/-- Core 1's front context holds a receiver that names port 3 of core 0. -/
@[irreducible] def a4 : State := base.modCore 1 fun c => { c with front := { c.front with
  life := .live, chans := c.front.chans.set 5 ⟨some ⟨0, 3, true⟩, [9]⟩ } }

theorem witness_ArrivalsLand_channel (h : Obligations.ArrivalsLand) :
    exec .channelWordArrival (due (.channelWordArrival ⟨0, 0⟩ 2 1 5 77) none a4) = .next (due (.channelWordArrival ⟨0, 0⟩ 2 1 5 77) none a4) ∧
    ∃ t, exec .channelWordArrival (due (.channelWordArrival ⟨0, 0⟩ 3 1 5 77) none a4) = .next t := by
  refine ⟨((h _ a4 0 1 0 0 false [] [] [] (named (met (by decide +kernel)))).2.2 2 5 ⟨0, 0⟩ 77 takesDue).1 (met (by decide +kernel)), ?_⟩
  obtain ⟨t, e, -⟩ := ((h (due (.channelWordArrival ⟨0, 0⟩ 3 1 5 77) none a4) a4 0 1 0 0 false [] [] [] (named (met (by decide +kernel)))).2.2 3 5 ⟨0, 0⟩ 77 takesDue).2 .front _ (met (by decide +kernel)) (Option.some_get (met (by decide +kernel))).symm
  exact ⟨t, e⟩

/-! ## Launches -/

/-- Core 0 holds a launch for core 1, at KERNEL level; core 1 is idle, or holds a live context, or two. -/
def rec1 : LaunchRec := ⟨1, true, 0x800, 7, 8⟩
@[irreducible] def b1 : State := base.mapFocus fun c => { c with outbox := [.launch rec1] }
@[irreducible] def b2 : State := b1.modCore 1 fun c => { c with front := { c.front with life := .live } }
@[irreducible] def b3 : State := b2.modCore 1 fun c => { c with shadow := { c.shadow with life := .live } }
@[irreducible] def b4 : State := b3.modCore 1 fun c => { c with launchQ := [rec1, rec1, rec1, rec1] }
/-- A launch queued at core 1, which is idle. -/
@[irreducible] def b5 : State := base.modCore 1 fun c => { c with launchQ := [rec1] }

def launched (slot : Bool) (s : State) : Ctx :=
  { (Ctx.reset (((if slot then (s.getCore rec1.target).gen1 else (s.getCore rec1.target).gen0) + 1) ++ s.pkgid ++ (s.getCore rec1.target).id ++ BitVec.ofBool slot)) with
    x := ((Vector.replicate 32 0).set 1 7).set 2 8, pc := 0x800, status := 2, life := .live }

theorem launched_eq (slot : Bool) (s : State) : launched slot s =
    { (Ctx.reset (((if slot then (s.getCore rec1.target).gen1 else (s.getCore rec1.target).gen0) + 1) ++ s.pkgid ++ (s.getCore rec1.target).id ++ BitVec.ofBool slot)) with
      x := (launched slot s).x, pc := rec1.pc, status := if rec1.kl then 2 else 0, life := .live } := rfl

theorem took1 {s : State} (h : s.core.outbox = [.launch rec1]) :
    ∃ before after, Takes (.launchArrival s.core.id rec1.target) (due (.launchArrival s.core.id rec1.target) none s) s ∧
      ((due (.launchArrival s.core.id rec1.target) none s).getCore s.core.id).outbox = before ++ .launch rec1 :: after ∧
      (∀ m ∈ before, ∀ q, m = .launch q → q.target ≠ rec1.target) ∧
      s.modCore s.core.id (fun c => { c with outbox := [] }) = s.modCore s.core.id (fun c => { c with outbox := before ++ after }) :=
  ⟨[], [], takesDue, by simpa [State.getCore, due] using h, by simp, rfl⟩

theorem witness_LaunchesStartContexts_front (h : Obligations.LaunchesStartContexts) :
    ∃ t, exec .launchArrival (due (.launchArrival b1.core.id 1) none b1) = .next t ∧ (t.getCore 1).front = launched false (due (.launchArrival b1.core.id 1) none b1) := by
  obtain ⟨t, e, f, -⟩ := ((h (due (.launchArrival b1.core.id 1) none b1) b1 _ b1.core.id rec1 (launched false (due (.launchArrival b1.core.id 1) none b1)) false _ (named (met (by decide +kernel))) rfl (met (by decide +kernel)) (launched_eq ..) rfl).1
    (took1 (met (by decide +kernel)))).1 (met (by decide +kernel)) (met (by decide +kernel)) (met (by decide +kernel))
  exact ⟨t, e, f⟩

theorem witness_LaunchesStartContexts_shadow (h : Obligations.LaunchesStartContexts) :
    ∃ t, exec .launchArrival (due (.launchArrival b2.core.id 1) none b2) = .next t ∧ (t.getCore 1).shadow = launched true (due (.launchArrival b2.core.id 1) none b2) := by
  obtain ⟨t, e, f, -⟩ := ((h (due (.launchArrival b2.core.id 1) none b2) b2 _ b2.core.id rec1 (launched true (due (.launchArrival b2.core.id 1) none b2)) true _ (named (met (by decide +kernel))) rfl (met (by decide +kernel)) (launched_eq ..) rfl).1
    (took1 (met (by decide +kernel)))).2.1 (met (by decide +kernel)) (met (by decide +kernel)) (met (by decide +kernel)) (met (by decide +kernel)) (met (by decide +kernel))
  exact ⟨t, e, f⟩

theorem witness_LaunchesStartContexts_queued (h : Obligations.LaunchesStartContexts) :
    exec .launchArrival (due (.launchArrival b3.core.id 1) none b3) =
      .next ((b3.modCore b3.core.id (fun c => { c with outbox := [] })).modCore 1 fun c => { c with launchQ := c.launchQ ++ [rec1] }) :=
  ((h (due (.launchArrival b3.core.id 1) none b3) b3 _ b3.core.id rec1 (launched true (due (.launchArrival b3.core.id 1) none b3)) true _ (named (met (by decide +kernel))) rfl (met (by decide +kernel)) (launched_eq ..) rfl).1
    (took1 (met (by decide +kernel)))).2.2.1 (.inr ⟨(met (by decide +kernel)), .inl (met (by decide +kernel))⟩) (met (by decide +kernel))

theorem witness_LaunchesStartContexts_full (h : Obligations.LaunchesStartContexts) :
    exec .launchArrival (due (.launchArrival b4.core.id 1) none b4) = .next (due (.launchArrival b4.core.id 1) none b4) :=
  ((h (due (.launchArrival b4.core.id 1) none b4) b4 _ b4.core.id rec1 (launched true (due (.launchArrival b4.core.id 1) none b4)) true _ (named (met (by decide +kernel))) rfl (met (by decide +kernel)) (launched_eq ..) rfl).1
    (took1 (met (by decide +kernel)))).2.2.2 (met (by decide +kernel))

theorem witness_LaunchesStartContexts_start (h : Obligations.LaunchesStartContexts) :
    ∃ t, exec .launchQueueStart (due (.launchQueueStart 1) none b5) = .next t ∧ (t.getCore 1).front = launched false (due (.launchQueueStart 1) none b5) := by
  obtain ⟨t, e, f, -⟩ := (h (due (.launchQueueStart 1) none b5) b5 b5 b5.core.id rec1 (launched false (due (.launchQueueStart 1) none b5)) false _ (named (met (by decide +kernel))) rfl (met (by decide +kernel)) (launched_eq ..) rfl).2 []
    takesDue (met (by decide +kernel)) (met (by decide +kernel)) (met (by decide +kernel)) rfl (met (by decide +kernel))
  exact ⟨t, e, f⟩

/-! ## Watches, countdowns, spills, fills -/

/-- Core 0 waits in a receive on counter 2, whose tag names core 1; its watchdog stands at 100; a probe of it is out. -/
@[irreducible] def t1 : State :=
  ((base.mapFocus fun c => { (c.setCounter 2 ⟨0, 0x2001⟩) with watchdog := some 100, probed := some (c.front.ctxid, c.front.pc), countdown := some 50 }).mapCtx
    fun k => { k with progress := .receive (.counter 2 9) })

/-- A ready shadow context beside it, at cycle 50. -/
@[irreducible] def t2 : State :=
  { (t1.mapFocus fun c => { c with shadow := { c.shadow with life := .live } }) with cycle := 50 }

theorem witness_WatchesAndCountdownsExpire_watch (h : WatchesAndCountdownsExpire) :
    (∃ t, exec .rxwatchExpiry (due (.rxwatchExpiry 0) (some 100) t1) = .next t) ∧
    exec .rxwatchExpiry (due (.rxwatchExpiry 0) (some 99) t1) = .next t1 := by
  refine ⟨?_, ((h (due (.rxwatchExpiry 0) (some 99) t1) t1 0 1 0 [] (.counter 2 9) 99).1 (dueHead ..) (dueRest ..)).1 (met (by decide +kernel))⟩
  obtain ⟨t, e, -⟩ := ((h (due (.rxwatchExpiry 0) (some 100) t1) t1 0 1 0 [] (.counter 2 9) 100).1 (dueHead ..) (dueRest ..)).2 (met (by decide +kernel)) (met (by decide +kernel)) (met (by decide +kernel)) (met (by decide +kernel))
  exact ⟨t, e⟩

theorem witness_WatchesAndCountdownsExpire_probe (h : WatchesAndCountdownsExpire) :
    exec .probe (due (.probe 0 0 8191 0 [0, 1]) none t1) = .next { t1 with due := t1.due ++ [⟨.verdict 0 8191 [0, 1], none⟩] } ∧
    exec .probe (due (.probe 0 1 8192 0 [1]) none t1) = .next t1 ∧
    ∃ t, exec .probe (due (.probe 0 1 8191 1 [1]) none t1) = .next t := by
  refine ⟨((h (due (.probe 0 0 8191 0 [0, 1]) none t1) t1 0 1 8191 [0, 1] (.counter 2 9) 0).2.1 0 0 takesDue).1 rfl,
    ((h (due (.probe 0 1 8192 0 [1]) none t1) t1 0 1 8192 [1] (.counter 2 9) 0).2.1 1 0 takesDue).2.1 (by decide) (.inr (.inl (by decide))), ?_⟩
  obtain ⟨t, e, -⟩ := ((h (due (.probe 0 1 8191 1 [1]) none t1) t1 0 1 8191 [1] (.counter 2 9) 0).2.1 1 1 takesDue).2.2 (by decide) (by decide) (by decide)
    (met (by decide +kernel)) (met (by decide +kernel)) (by decide)
  exact ⟨t, e⟩

theorem witness_WatchesAndCountdownsExpire_verdict (h : WatchesAndCountdownsExpire) :
    exec .verdict (due (.verdict 0 2 [0, 1]) none t1) = .next (t1.takeTrap 0x0C (BitVec.ofNat 64 2) 2 [0, 1]) ∧
    exec .verdict (due (.verdict 1 2 [0, 1]) none t1) = .next t1 :=
  ⟨((h (due (.verdict 0 2 [0, 1]) none t1) t1 0 1 2 [0, 1] (.counter 2 9) 0).2.2.1 takesDue).2 (met (by decide +kernel)) (solo (met (by decide +kernel))) (met (by decide +kernel)) (met (by decide +kernel)),
   ((h (due (.verdict 1 2 [0, 1]) none t1) t1 1 1 2 [0, 1] (.counter 2 9) 0).2.2.1 takesDue).1 (.inl (met (by decide +kernel)))⟩

theorem witness_WatchesAndCountdownsExpire_countdown (h : WatchesAndCountdownsExpire) :
    exec .swapCountdownExpiry (due (.swapCountdownExpiry 0) (some 50) t1) =
      .next (t1.modCore 0 fun c => { c with countdown := none, swapDue := .no }) ∧
    exec .swapCountdownExpiry (due (.swapCountdownExpiry 0) (some 50) t2) =
      .next (t2.modCore 0 fun c => { c with countdown := none, swapDue := .since (due (.swapCountdownExpiry 0) (some 50) t2).cycle.toNat }) ∧
    exec .swapCountdownExpiry (due (.swapCountdownExpiry 0) (some 49) t1) = .next t1 := by
  have a := ((h (due (.swapCountdownExpiry 0) (some 50) t1) t1 0 1 0 [] (.counter 2 9) 50).2.2.2 (dueHead ..) (dueRest ..)).1 (met (by decide +kernel))
  have b := ((h (due (.swapCountdownExpiry 0) (some 50) t2) t2 0 1 0 [] (.counter 2 9) 50).2.2.2 (dueHead ..) (dueRest ..)).1 (met (by decide +kernel))
  rw [show ((due (.swapCountdownExpiry 0) (some 50) t1).getCore 0).requested = false from (met (by decide +kernel))] at a
  rw [show ((due (.swapCountdownExpiry 0) (some 50) t2).getCore 0).requested = true from (met (by decide +kernel))] at b
  exact ⟨a, b, ((h (due (.swapCountdownExpiry 0) (some 49) t1) t1 0 1 0 [] (.counter 2 9) 49).2.2.2 (dueHead ..) (dueRest ..)).2 (met (by decide +kernel))⟩

/-- Core 0 with a live shadow context, which holds a partial sum; with that context spilled to place 1. -/
@[irreducible] def p1 : State := base.mapFocus fun c => { c with shadow := { c.shadow with life := .live, mseq := 0x801, sums := [1] } }
@[irreducible] def p2 : State := p1.mapFocus fun c => { c with spilling := some 3 }
@[irreducible] def p3 : State := base.mapFocus fun c => { c with save := c.save.set 3 (some { c.shadow with life := .live }) }
@[irreducible] def p4 : State := p3.mapFocus fun c => { c with filling := some 3 }

theorem witness_SpillsAndFillsMoveContexts_spill (h : SpillsAndFillsMoveContexts) :
    (∃ t, exec .spill (due (.spill 0) none p1) = .next t) ∧ exec .spill (due (.spill 0) none p3) = .next p3 ∧
    ∃ t, exec .spillComplete (due (.spillComplete 0) none p2) = .next t := by
  obtain ⟨t, e, -⟩ := ((h (due (.spill 0) none p1) p1 0 _ 0 (Ctx.reset 0) (named (met (by decide +kernel))) rfl).1 takesDue).1 (.inl (met (by decide +kernel))) (met (by decide +kernel)) (met (by decide +kernel)) (met (by decide +kernel)) (met (by decide +kernel))
    (fun j hj => absurd hj (Nat.not_lt_zero _))
  obtain ⟨v, f, -⟩ := (h (due (.spillComplete 0) none p2) p2 0 _ 3 (Ctx.reset 0) (named (met (by decide +kernel))) rfl).2.1 takesDue (met (by decide +kernel)) (met (by decide +kernel)) (met (by decide +kernel)) (met (by decide +kernel))
  exact ⟨⟨t, e⟩, ((h (due (.spill 0) none p3) p3 0 _ 0 (Ctx.reset 0) (named (met (by decide +kernel))) rfl).1 takesDue).2 (.inl (met (by decide +kernel))), ⟨v, f⟩⟩

theorem witness_SpillsAndFillsMoveContexts_fill (h : SpillsAndFillsMoveContexts) :
    exec .fill (due (.fill 0 3) none p1) = .next (due (.fill 0 3) none p1) ∧ exec .fill (due (.fill 0 2) none p3) = .next p3 ∧
    (∃ t, exec .fill (due (.fill 0 3) none p3) = .next t) ∧ ∃ t, exec .fillComplete (due (.fillComplete 0) none p4) = .next t := by
  obtain ⟨t, e, -⟩ := ((h (due (.fill 0 3) none p3) p3 0 _ 3 _ (named (met (by decide +kernel))) rfl).2.2.1 takesDue).2.2 (met (by decide +kernel)) (met (by decide +kernel)) (Option.some_get (met (by decide +kernel))).symm
  obtain ⟨v, f, -⟩ := (h (due (.fillComplete 0) none p4) p4 0 _ 3 _ (named (met (by decide +kernel))) rfl).2.2.2 takesDue (met (by decide +kernel)) (Option.some_get (met (by decide +kernel))).symm (met (by decide +kernel)) (met (by decide +kernel)) (met (by decide +kernel))
  exact ⟨((h (due (.fill 0 3) none p1) p1 0 _ 3 (Ctx.reset 0) (named (met (by decide +kernel))) rfl).2.2.1 takesDue).1 (.inl (met (by decide +kernel))),
    ((h (due (.fill 0 2) none p3) p3 0 _ 2 (Ctx.reset 0) (named (met (by decide +kernel))) rfl).2.2.1 takesDue).2.1 (met (by decide +kernel)) (met (by decide +kernel)) (met (by decide +kernel)), ⟨t, e⟩, ⟨v, f⟩⟩

end Sys2Proof.Tests
end

