-- ==== Sys2Proof/Tests/Witness6.lean ====
section
/-! SUPPORT. Witnesses: copies. -/

-- One theorem after the other: elaborating many at once needs more threads than the memory limit holds.
set_option Elab.async false

open Sys2Proof Sys2Proof.Machine Sys2Proof.Statements

namespace Sys2Proof.Tests

/-! ## Copies -/

/-- x1 = 0xBF00, x2 = 0x900000, x3 = 0x100, x4 = 1 row of 0x40 bytes with strides 0, x5 = 8 bytes, one entry;
x6 = 0xBFF8, x7 = 2^24 + 1, x8 = 0x800000. -/
@[irreducible] def k1 : State :=
  withX [(1, 0xBF00), (2, 0x900000), (3, 0x100), (4, 0x10040), (5, 0x10008), (6, 0xBFF8), (7, 0x1000001), (8, 0x101)] base
/-- In REV mode, a region declared at 0x900080. -/
@[irreducible] def k2 : State := k1.mapCtx fun k => { k with mode := .rev, dbase := k.dbase.set 0 0x900080, dlen := k.dlen.set 0 0x1000 }

theorem witness_CopiesAreIssued (h : CopiesAreIssued) :
    (∃ u, exec (.copy 3 (.x 1) (.x 2) true) k1 = .next u) ∧ (∃ u, exec (.copy2d 4 (.x 1) (.x 2) true) k1 = .next u) ∧
    (∃ u, exec (.gather 5 (.x 1) (.x 6) true) k1 = .next u) ∧ ∃ u, exec (.scatter 5 (.x 6) (.x 2)) k1 = .next u := by
  obtain ⟨a, ea, -⟩ := h k1 k1 k1 k1 3 (.x 1) (.x 2) true 0xBF00 0x900000 0x100 (.copy 0xBF00 0x900000 (0x100 : Word).toNat true) _ _ _ (solo (met (by decide +kernel)))
    (readsX (met (by decide +kernel)) (met (by decide +kernel))) (readsX (met (by decide +kernel)) (met (by decide +kernel))) (readsX (met (by decide +kernel)) (met (by decide +kernel))) rfl rfl (.inl ⟨rfl, rfl, (met (by decide +kernel)), (met (by decide +kernel))⟩) (fun _ => (met (by decide +kernel))) (fun e => absurd e (met (by decide +kernel))) (met (by decide +kernel))
  obtain ⟨b, eb, -⟩ := h k1 k1 k1 k1 4 (.x 1) (.x 2) true 0xBF00 0x900000 0x10040
    (.copy2d 0xBF00 0x900000 ((0x10040 : Word).toNat % 2 ^ 16) ((0x10040 : Word).toNat / 2 ^ 16 % 2 ^ 16)
      ((0x10040 : Word).toNat / 2 ^ 32 % 2 ^ 16) ((0x10040 : Word).toNat / 2 ^ 48) true) _ _ _ (solo (met (by decide +kernel)))
    (readsX (met (by decide +kernel)) (met (by decide +kernel))) (readsX (met (by decide +kernel)) (met (by decide +kernel))) (readsX (met (by decide +kernel)) (met (by decide +kernel))) rfl rfl (.inr (.inl ⟨rfl, rfl, (met (by decide +kernel)), (met (by decide +kernel)), .inl (met (by decide +kernel))⟩)) (fun _ => (met (by decide +kernel))) (fun e => absurd e (met (by decide +kernel))) (met (by decide +kernel))
  obtain ⟨c, ec, -⟩ := h k1 k1 k1 k1 5 (.x 1) (.x 6) true 0xBF00 0xBFF8 0x10008
    (.gather 0xBF00 0xBFF8 ((0x10008 : Word).toNat % 2 ^ 16) ((0x10008 : Word).toNat / 2 ^ 16 % 2 ^ 16) true) _ _ _ (solo (met (by decide +kernel)))
    (readsX (met (by decide +kernel)) (met (by decide +kernel))) (readsX (met (by decide +kernel)) (met (by decide +kernel))) (readsX (met (by decide +kernel)) (met (by decide +kernel))) rfl rfl (.inr (.inr (.inl ⟨rfl, rfl, (met (by decide +kernel)), (met (by decide +kernel)), (met (by decide +kernel)), (met (by decide +kernel)), (met (by decide +kernel)), (met (by decide +kernel)), (met (by decide +kernel))⟩))) (fun _ => (met (by decide +kernel))) (fun e => absurd e (met (by decide +kernel))) (met (by decide +kernel))
  obtain ⟨d, ed, -⟩ := h k1 k1 k1 k1 5 (.x 6) (.x 2) true 0xBFF8 0x900000 0x10008
    (.scatter 0xBFF8 0x900000 ((0x10008 : Word).toNat % 2 ^ 16) ((0x10008 : Word).toNat / 2 ^ 16 % 2 ^ 16)) _ _ _ (solo (met (by decide +kernel)))
    (readsX (met (by decide +kernel)) (met (by decide +kernel))) (readsX (met (by decide +kernel)) (met (by decide +kernel))) (readsX (met (by decide +kernel)) (met (by decide +kernel))) rfl rfl (.inr (.inr (.inr ⟨rfl, rfl, (met (by decide +kernel)), (met (by decide +kernel)), (met (by decide +kernel)), (met (by decide +kernel)), (met (by decide +kernel)), (met (by decide +kernel)), (met (by decide +kernel))⟩))) (fun e => absurd e (met (by decide +kernel))) (fun e => absurd e (met (by decide +kernel))) (met (by decide +kernel))
  exact ⟨⟨a, ea⟩, ⟨b, eb⟩, ⟨c, ec⟩, ⟨d, ed⟩⟩

theorem witness_CopiesAreRefused (h : CopiesAreRefused) :
    exec (.copy 7 (.x 1) (.x 2) true) k1 = .next ((trapBase k1 k1.ctx.pops none).takeTrap 0x01 (wordOf (.copy 7 (.x 1) (.x 2) true))) ∧
    exec (.copy 8 (.x 1) (.x 2) true) k1 = .next ((trapBase k1 k1.ctx.pops none).takeTrap 0x1A (BitVec.ofNat 64 (max 0xBF00 0xC000))) ∧
    exec (.copy 3 (.x 1) (.x 2) false) k2 = .next ((trapBase k2 k2.ctx.pops none).takeTrap 0x12 (BitVec.ofNat 64 0x900080)) :=
  ⟨(h k1 k1 k1 k1 7 (.x 1) (.x 2) true 0xBF00 0x900000 0x1000001 (solo (met (by decide +kernel))) (readsX (met (by decide +kernel)) (met (by decide +kernel))) (readsX (met (by decide +kernel)) (met (by decide +kernel))) (readsX (met (by decide +kernel)) (met (by decide +kernel)))).1 (.inr (met (by decide +kernel))),
   (h k1 k1 k1 k1 8 (.x 1) (.x 2) true 0xBF00 0x900000 0x101 (solo (met (by decide +kernel))) (readsX (met (by decide +kernel)) (met (by decide +kernel))) (readsX (met (by decide +kernel)) (met (by decide +kernel))) (readsX (met (by decide +kernel)) (met (by decide +kernel)))).2.1 (met (by decide +kernel)) (met (by decide +kernel)) rfl (met (by decide +kernel)),
   (h k2 k2 k2 k2 3 (.x 1) (.x 2) false 0xBF00 0x900000 0x100 (solo (met (by decide +kernel))) (readsX (met (by decide +kernel)) (met (by decide +kernel))) (readsX (met (by decide +kernel)) (met (by decide +kernel))) (readsX (met (by decide +kernel)) (met (by decide +kernel)))).2.2 (met (by decide +kernel)) (met (by decide +kernel)) rfl (met (by decide +kernel)) (met (by decide +kernel)) _ (met (by decide +kernel))⟩

/-- Commands of core 0: 1 of 64 bytes and 2 of 128, both with F; 3 from an address that does not translate, behind a
destination that command 2 writes too. -/
def cmdOf (n : Nat) (kind : CmdKind) : Cmd :=
  ⟨n, ⟨0, k1.ctx.self⟩, 3, kind, false, 0, .fwd, false, [], false, none, kind.copyFoot, [], none, 0, 0⟩
def copyCmd (n : Nat) (dst src : Word) (bytes : Nat) : Cmd := cmdOf n (.copy dst src bytes true)
@[irreducible] def k3 : State := { k1 with cmds := [copyCmd 1 0xBF00 0x900000 64, copyCmd 2 0x1000 0x900100 128, copyCmd 3 0x1000 0x7FFFFF 64] }
@[irreducible] def k4 : State := { k1 with cmds := [copyCmd 3 0x1000 0x700000 64] }
/-- A GATHER whose list entry meets an uncorrectable error. -/
@[irreducible] def k5 : State := { k1 with cmds := [cmdOf 4 (.gather 0xBF00 0xBFF8 8 1 true)], bad := [(2 ^ 49 + 0xBFF8) / 8] }
/-- A source in a rank that is in step, its window the first row. -/
@[irreducible] def k6 : State :=
  { k1 with cmds := [copyCmd 5 0xBF00 0x2800000 64], ranks := [(0, { StepCtx.reset with state := .inStep, wrow := 0, wrows := 1 })] }
/-- A source in another package. -/
@[irreducible] def k7 : State :=
  { k1 with cmds := [copyCmd 6 0xBF00 0x3000000 64], pkgid := 1, fabric := { k1.fabric with member := true, members := [0, 1] } }

/-- What an element leaves. -/
@[irreducible] def moved (e : Eng) (dst src : Word) (n : Nat) (s : State) : State × List RemoteVal :=
  match moveElem e dst src n (s, []) with
  | .ok (_, p) => p
  | .error _ => (s, [])
def movedOk (e : Eng) (dst src : Word) (n : Nat) (s : State) : Bool :=
  match moveElem e dst src n (s, []) with
  | .ok _ => true
  | .error _ => false
theorem movedEq {e : Eng} {dst src : Word} {n : Nat} {s : State} (h : movedOk e dst src n s = true) :
    moveElem e dst src n (s, []) = .ok ((), ((moved e dst src n s).1, (moved e dst src n s).2)) := by
  unfold movedOk at h; unfold moved
  cases m : moveElem e dst src n (s, []) with
  | ok p => rfl
  | error x => rw [m] at h; cases h

/-- Where an element stops. -/
def movedStop (e : Eng) (dst src : Word) (n : Nat) (s : State) : Option EStop :=
  match moveElem e dst src n (s, []) with
  | .error x => some x
  | _ => none
theorem movedStopEq {e : Eng} {dst src : Word} {n : Nat} {s : State} {x : EStop} (h : movedStop e dst src n s = some x) :
    moveElem e dst src n (s, []) = .error x := by
  unfold movedStop at h
  split at h
  · next m => cases h; exact m
  · cases h

theorem witness_TheCopyUnitGoesOn_turn (h : TheCopyUnitGoesOn) :
    exec .copyComplete (due (.copyComplete 9) none k3) = .next k3 ∧
    exec .copyComplete (due (.copyComplete 3) none k3) = .next (due (.copyComplete 3) none k3) ∧
    exec .copyComplete (due (.copyComplete 4) none k5) =
      .next (k5.finish (cmdOf 4 (.gather 0xBF00 0xBFF8 8 1 true)) (1#1 ++ 0#7 ++ 0x0A#8 ++ BitVec.ofNat 48 0)) :=
  ⟨(h _ k3 k3 9 0 0 (copyCmd 1 0 0 1) 0 0 ((due (.copyComplete 9) none k3).engOf (copyCmd 1 0 0 1)) [] 0 takesDue).1 (met (by decide +kernel)),
   (h _ k3 k3 3 0 0 (copyCmd 3 0x1000 0x7FFFFF 64) 0 0 ((due (.copyComplete 9) none k3).engOf (copyCmd 1 0 0 1)) [] 0 takesDue).2.1 (met (by decide +kernel)) rfl (met (by decide +kernel)),
   (h (due (.copyComplete 4) none k5) k5 k5 4 0 0 (cmdOf 4 (.gather 0xBF00 0xBFF8 8 1 true)) 0 0 ((due (.copyComplete 9) none k3).engOf (copyCmd 1 0 0 1)) [] 0 takesDue).2.2.1 (met (by decide +kernel)) rfl (met (by decide +kernel)) (met (by decide +kernel))⟩

/-- What the elements of command n of a state are moved with. -/
abbrev eng (n : Nat) (c : Cmd) (s : State) : Eng := (due (.copyComplete n) none s).engOf c

/-- Where no line was full before. -/
theorem line {F L : BitVec 384} {g : Nat → Bool} (e : L = 0) (h : ∀ j : Fin 384, F.getLsbD j.val = g j.val) :
    ∀ j, j < 384 → F.getLsbD j = (L.getLsbD j || g j) := by
  subst e; intro j hj; simpa using h ⟨j, hj⟩

theorem witness_TheCopyUnitGoesOn_last (h : TheCopyUnitGoesOn) :
    ∃ t, exec .copyComplete (due (.copyComplete 1) none k3) = .next t := by
  have e : movedOk (eng 1 (copyCmd 1 0xBF00 0x900000 64) k3) 0xBF00 0x900000 64 k3 = true := (met (by decide +kernel))
  have g := ((h _ k3 _ 1 64 1 (copyCmd 1 0xBF00 0x900000 64) 0xBF00 0x900000 _ _ 0 takesDue).2.2.2 (met (by decide +kernel)) rfl (met (by decide +kernel)) (met (by decide +kernel)) (met (by decide +kernel)) (met (by decide +kernel)) rfl).1 (movedEq e)
    (BitVec.ofNat 384 (2 ^ 382)) _
    (line (met (by decide +kernel)) (met (by decide +kernel))) (met (by decide +kernel)) rfl
  exact ⟨_, g.1 (met (by decide +kernel))⟩

theorem witness_TheCopyUnitGoesOn_next (h : TheCopyUnitGoesOn) :
    ∃ t, exec .copyComplete (due (.copyComplete 2) none k3) = .next t := by
  have e : movedOk (eng 2 (copyCmd 2 0x1000 0x900100 128) k3) 0x1000 0x900100 64 k3 = true := (met (by decide +kernel))
  have g := ((h _ k3 _ 2 64 1 (copyCmd 2 0x1000 0x900100 128) 0x1000 0x900100 _ _ 0 takesDue).2.2.2 (met (by decide +kernel)) rfl (met (by decide +kernel)) (met (by decide +kernel)) (met (by decide +kernel)) (met (by decide +kernel)) rfl).1 (movedEq e)
    0 _
    (line (met (by decide +kernel)) (met (by decide +kernel))) (met (by decide +kernel)) rfl
  exact ⟨_, g.2 (met (by decide +kernel))⟩

theorem witness_TheCopyUnitGoesOn_fault (h : TheCopyUnitGoesOn) :
    ∃ t, exec .copyComplete (due (.copyComplete 3) none k4) = .next t :=
  ⟨_, (((h _ k4 k4 3 64 1 (copyCmd 3 0x1000 0x700000 64) 0x1000 0x700000 _ [] 0x04 takesDue).2.2.2 (met (by decide +kernel)) rfl (met (by decide +kernel)) (met (by decide +kernel)) (met (by decide +kernel)) (met (by decide +kernel)) rfl).2.1 (movedStopEq (met (by decide +kernel))) _ rfl).1⟩

theorem witness_TheCopyUnitGoesOn_waits (h : TheCopyUnitGoesOn) :
    exec .copyComplete (due (.copyComplete 5) none k6) = .next (due (.copyComplete 5) none k6) ∧
    exec .copyComplete (due (.copyComplete 6) none k7) =
      .next (k7.issueFor (copyCmd 6 0xBF00 0x3000000 64) (.copyComplete 6) 0x3000000 (2 ^ 51) (.read 64)) :=
  ⟨((h _ k6 k6 5 64 1 (copyCmd 5 0xBF00 0x2800000 64) 0xBF00 0x2800000 _ [] 0 takesDue).2.2.2 (met (by decide +kernel)) rfl (met (by decide +kernel)) (met (by decide +kernel)) (met (by decide +kernel)) (met (by decide +kernel)) rfl).2.2.1 (movedStopEq (met (by decide +kernel))),
   ((h _ k7 k7 6 64 1 (copyCmd 6 0xBF00 0x3000000 64) 0xBF00 0x3000000 _ [] 0 takesDue).2.2.2 (met (by decide +kernel)) rfl (met (by decide +kernel)) (met (by decide +kernel)) (met (by decide +kernel)) (met (by decide +kernel)) rfl).2.2.2 _ _ _ (movedStopEq (met (by decide +kernel)))⟩

/-- Where an engine's access goes, and what the translation leaves in the TLBs. -/
def walked (e : Eng) (k : AccKind) (a : Word) (s : State) : Phys × Option Walked :=
  match s.xlate e.asker k false a with
  | .ok r => r
  | .error _ => (default, none)
theorem walks {e : Eng} {k : AccKind} {a : Word} {s : State} {p : Phys} (h : (s.xlate e.asker k false a).toOption.map (·.1) = some p) :
    s.xlate e.asker k false a = .ok (p, (walked e k a s).2) := by
  unfold walked
  cases x : s.xlate e.asker k false a with
  | error c => rw [x] at h; cases h
  | ok r => rw [x] at h; cases h; rfl

/-- The last 64 bytes of local memory, to themselves and from the source beside them; and from the pool to its granule. -/
theorem witness_ElementsTakeTheirSource_local (h : ElementsTakeTheirSource) :
    (∃ v, moveElem (eng 1 (copyCmd 1 0 0 1) k3) 0xBFC0 0xBFA0 64 (k3, []) = .ok ((), (v, []))) ∧
    ∃ v, moveElem (eng 1 (copyCmd 1 0 0 1) k3) 0xBFC0 0xBFC0 64 (k3, []) = .ok ((), (v, [])) := by
  have inv : k3.Inv := by unfold State.Inv; decide +kernel
  obtain ⟨v, a, -⟩ := (h k3 k3 k3 k3 (eng 1 (copyCmd 1 0 0 1) k3) 0 64 _ _ default 0xBFC0 0xBFA0 default default none none rfl rfl).1 inv (met (by decide +kernel)) (met (by decide +kernel)) (met (by decide +kernel)) (met (by decide +kernel)) (met (by decide +kernel)) (met (by decide +kernel))
  obtain ⟨w, b, -⟩ := (h k3 k3 k3 k3 (eng 1 (copyCmd 1 0 0 1) k3) 0 64 _ _ default 0xBFC0 0xBFC0 default default none none rfl rfl).1 inv (met (by decide +kernel)) (met (by decide +kernel)) (met (by decide +kernel)) (met (by decide +kernel)) (met (by decide +kernel)) (met (by decide +kernel))
  exact ⟨⟨v, a⟩, ⟨w, b⟩⟩

theorem witness_ElementsTakeTheirSource_pool (h : ElementsTakeTheirSource) :
    ∃ v, moveElem (eng 1 (copyCmd 1 0 0 1) k3) 0x9001C0 0x901FC0 64 (k3, []) = .ok ((), v) :=
  ⟨_, (h k3 k3 _ _ (eng 1 (copyCmd 1 0 0 1) k3) 0 64 _ _ default 0x9001C0 0x901FC0 ⟨2 ^ 48 + 0x101FC0, false, false, true⟩ ⟨2 ^ 48 + 0x1001C0, false, false, true⟩
    _ _ rfl rfl).2.1 (met (by decide +kernel)) (met (by decide +kernel)) (met (by decide +kernel)) (met (by decide +kernel)) (met (by decide +kernel)) (walks (met (by decide +kernel))) rfl (met (by decide +kernel)) (met (by decide +kernel)) (met (by decide +kernel)) (met (by decide +kernel)) (walks (met (by decide +kernel))) rfl (met (by decide +kernel)) (met (by decide +kernel)) (met (by decide +kernel)) rfl⟩

/-- The last block of a COPY that is short. -/
@[irreducible] def k8 : State := { k1 with cmds := [cmdOf 7 (.copy 0xBFF0 0x11F0 16 false)] }

theorem witness_ElementsTakeTheirSource_whole (h : ElementsTakeTheirSource) :
    ∃ t, exec .copyComplete (due (.copyComplete 7) none k8) = .next t :=
  ⟨_, (h (due (.copyComplete 7) none k8) k8 k8 k8 _ 7 16 _ _ (cmdOf 7 (.copy 0xBFF0 0x11F0 16 false)) 0xBFF0 0x11F0 default default none none rfl rfl).2.2
    takesDue (met (by decide +kernel)) rfl rfl (met (by decide +kernel)) rfl rfl (met (by decide +kernel)) (met (by decide +kernel)) (met (by decide +kernel)) (met (by decide +kernel)) (met (by decide +kernel)) (met (by decide +kernel)) (met (by decide +kernel)) (met (by decide +kernel)) rfl⟩

end Sys2Proof.Tests
end

