-- ==== Sys2Proof/Tests/Witness6b.lean ====
section
/-! SUPPORT. Witnesses: the transpose exchange. -/

-- One theorem after the other: elaborating many at once needs more threads than the memory limit holds.
set_option Elab.async false

open Sys2Proof Sys2Proof.Machine Sys2Proof.Statements

namespace Sys2Proof.Tests

/-! ## The transpose exchange -/

/-- x1 = 0x1000 and x2 = 0xBC00, blocks of local memory. -/
@[irreducible] def x1 : State := withX [(1, 0x1000), (2, 0xBC00)] base
def xp (f : Bool) : Instr := .xpose 3 (.x 1) (.x 2) f
/-- The exchange lets it retire: with F as it starts; without F as it ends, its command held till then. -/
@[irreducible] def x2 (f : Bool) : State := x1.mapCtx fun k => { k with progress := .xpose (xp f) 0x1000 0xBC00 .done }
def xcmd (step : Nat) : Cmd := ⟨9, ⟨0, x1.ctx.self⟩, 3, .xpose, false, 0, .fwd, false, [], false, none, [], [], none, step, 0x8000⟩
@[irreducible] def x2c : State := { x2 false with cmds := [xcmd 1] }
/-- All cores of cluster 0 have arrived. -/
@[irreducible] def x3 (f : Bool) : State :=
  (List.range 16).foldl (fun s n => s.modCore (BitVec.ofNat 13 n) fun c => { c with front := { c.front with
    life := .live, progress := .xpose (xp f) 0x1000 0xBC00 .arrived } }) x1
def xmem (n : Nat) : XMember := ⟨⟨BitVec.ofNat 13 n, x1.ctx.self⟩, 3, 0xBC00, true, List.replicate 1024 (BitVec.ofNat 8 n), 0, 0⟩
/-- The exchange of cluster 0 runs its last round; and one has ended with a single token to land. -/
@[irreducible] def x4 : State := x1.setCluster 0 { x1.cluster 0 with xrun := (List.range 16).map xmem, round := 15 }
@[irreducible] def x5 : State := { x1.setCluster 0 { x1.cluster 0 with xend := [[xmem 0]] } with cmds := [xcmd 0] }

theorem witness_ExchangesMoveFragments_arrives (h : ExchangesMoveFragments) :
    exec (xp true) (x2 true) = .next (retire (x2 true) (noted ((0x1000 : BitVec 16).setWidth 64) 2 ((x2 true).mapCtx Ctx.takeNoted)) {}) ∧
    exec (xp false) x2c = .next (retire x2c (noted ((0x1000 : BitVec 16).setWidth 64) 2
      ((x2c.mapCtx Ctx.takeNoted).finish (xcmd 1) (BitVec.ofNat 64 (xcmd 1).moved))) {}) ∧
    ∃ t, exec (xp true) x1 = .next t :=
  ⟨(((h (x2 true) x1 x1 x1 3 (.x 1) (.x 2) true 0 0 0).1 (solo (met (by decide +kernel)))).1 (xp true) 0x1000 0xBC00 _ 2 (met (by decide +kernel)) rfl (met (by decide +kernel))).1 rfl,
   (((h x2c x1 x1 x1 3 (.x 1) (.x 2) false 0 0 0).1 (solo (met (by decide +kernel)))).1 (xp false) 0x1000 0xBC00 _ 2 (met (by decide +kernel)) rfl (met (by decide +kernel))).2 rfl (xcmd 1) (met (by decide +kernel)),
   ⟨_, ((h x1 x1 x1 x1 3 (.x 1) (.x 2) true 0x1000 0xBC00 0).1 (solo (met (by decide +kernel)))).2
    (fun i c d st e => absurd e (by rw [show x1.ctx.progress = .none by decide +kernel]; intro e; cases e))
    (met (by decide +kernel)) (readsX (met (by decide +kernel)) (met (by decide +kernel))) (readsX (met (by decide +kernel)) (met (by decide +kernel))) (met (by decide +kernel)) (met (by decide +kernel)) (met (by decide +kernel)) (met (by decide +kernel)) (met (by decide +kernel)) (met (by decide +kernel)) (met (by decide +kernel)) (met (by decide +kernel))⟩⟩

theorem witness_ExchangesMoveFragments_starts (h : ExchangesMoveFragments) :
    (∃ t, exec .transposeExchange (due (.transposeExchange 0) none (x3 false)) = .next t) ∧
    ∃ ids v, exec .transposeExchange (due (.transposeExchange 0) none (x3 true)) = retireXposes ids v := by
  have a := (h (due (.transposeExchange 0) none (x3 false)) x1 x1 (x3 false) 3 (.x 1) (.x 2) true 0 0 0).2.1 takesDue (met (by decide +kernel)) _ _ (Option.some_get (x := (x3 false).arrivals 0) (met (by decide +kernel))).symm rfl
  exact ⟨⟨_, a.2.1 (met (by decide +kernel)) (named (met (by decide +kernel)))⟩, ⟨_, _, ((h (due (.transposeExchange 0) none (x3 true)) x1 x1 (x3 true) 3 (.x 1) (.x 2) true 0 0 0).2.1 takesDue (met (by decide +kernel)) _ _
    (Option.some_get (x := (x3 true).arrivals 0) (met (by decide +kernel))).symm rfl).1⟩⟩

theorem witness_ExchangesMoveFragments_moves (h : ExchangesMoveFragments) :
    (x4.moveFragment 0 15 15).mem = (x4.poke (2 ^ 49 + 14 * 2 ^ 16 + (0xBC00 + 64 * 15)) (((xmem 15).data.drop (64 * 14)).take 64)).mem :=
  (h x4 x4 x4 x4 3 (.x 1) (.x 2) true 0 0 0).2.2.1 15 15 14 14 (xmem 15) (xmem 14) (met (by decide +kernel)) (met (by decide +kernel)) (met (by decide +kernel)) (met (by decide +kernel)) (met (by decide +kernel)) (met (by decide +kernel)) (met (by decide +kernel)) (met (by decide +kernel))

theorem witness_ExchangesMoveFragments_rounds (h : ExchangesMoveFragments) :
    exec .transposeExchange (due (.transposeExchange 0) (some 30) x4) = .next (x4.exchangeRound 0 30) ∧
    exec .transposeExchangeComplete (due (.transposeExchangeComplete 0) none x5) =
      retireXposes [0] ((x5.setCluster 0 { (due (.transposeExchangeComplete 0) none x5).cluster 0 with xend := [] }).endMember (xmem 0)) ∧
    x5.endMember (xmem 0) = x5.finish (xcmd 0) ((xmem 0).errs.setWidth 64) :=
  ⟨(h (due (.transposeExchange 0) (some 30) x4) x4 x4 x4 3 (.x 1) (.x 2) true 0 0 0).2.2.2.1 30 takesDue (met (by decide +kernel)) rfl,
   (h (due (.transposeExchangeComplete 0) none x5) x5 x5 x5 3 (.x 1) (.x 2) true 0 0 0).2.2.2.2.1 [xmem 0] [] _ takesDue (met (by decide +kernel)) rfl,
   (h x5 x5 x5 x5 3 (.x 1) (.x 2) true 0 0 0).2.2.2.2.2 (xmem 0) (xcmd 0) (fun k i c d e f => by
     rw [show x5.ctxOf (xmem 0).who = some x5.ctx by decide +kernel] at e
     cases e
     rw [show x5.ctx.progress = .none by decide +kernel] at f; cases f) (met (by decide +kernel))⟩

/-- A table at 0x900000 that exchanges neighbours; x3 is misaligned. -/
@[irreducible] def x6 : State :=
  withX [(1, 0x900000), (3, 0x900008)] (base.poke (2 ^ 48 + 0x100000) [1, 0, 3, 2, 5, 4, 7, 6, 9, 8, 11, 10, 13, 12, 15, 14])

theorem witness_PermutationsAreTaken (h : PermutationsAreTaken) :
    exec (.xptab (.x 3)) x6 = .next ((trapBase x6 x6.ctx.pops none).takeTrap 0x03 0x900008) ∧ ∃ t, exec (.xptab (.x 1)) x6 = .next t := by
  obtain ⟨t, e, -⟩ := (h x6 x6 _ (.x 1) 0x900000 [1, 0, 3, 2, 5, 4, 7, 6, 9, 8, 11, 10, 13, 12, 15, 14] 0 (solo (met (by decide +kernel))) (readsX (met (by decide +kernel)) (met (by decide +kernel))) (met (by decide +kernel))).2 (met (by decide +kernel)) (runs (met (by decide +kernel)))
    (met (by decide +kernel)) rfl (met (by decide +kernel)) (met (by decide +kernel))
  exact ⟨(h x6 x6 x6 (.x 3) 0x900008 [] 0 (solo (met (by decide +kernel))) (readsX (met (by decide +kernel)) (met (by decide +kernel))) (met (by decide +kernel))).1 (met (by decide +kernel)), ⟨t, e⟩⟩

end Sys2Proof.Tests
end

