-- ==== Sys2Proof/Tests/Witness6c.lean ====
section
/-! SUPPORT. Witnesses: gangs. -/

-- One theorem after the other: elaborating many at once needs more threads than the memory limit holds.
set_option Elab.async false

open Sys2Proof Sys2Proof.Machine Sys2Proof.Statements

namespace Sys2Proof.Tests

/-! ## Gangs -/

/-- x1 names cores 0 and 1, x2 core 1, x3 no mask; core 1 waits in nothing, or in GJOIN of core 0, or in GANG of itself with core 0. -/
@[irreducible] def g1 : State := (withX [(1, 3), (2, 1), (3, 0x10000)] base).modCore 1 fun c => { c with front := { c.front with life := .live } }
@[irreducible] def g2 : State := g1.modCore 1 fun c => { c with front := { c.front with progress := .gjoin (.gjoin (.x 4) (.x 0)) 0 } }
@[irreducible] def g3 : State := g1.modCore 1 fun c => { c with front := { c.front with progress := .gang (.gang (.x 4) (.x 1)) 3 } }
/-- A follower of core 1, attached and detached. -/
@[irreducible] def g4 : State := g1.mapCtx fun k => { k with gang := ⟨true, false, 1, 1, true, false, false, 3, k.ctxid, 0, 0⟩ }
@[irreducible] def g5 : State := g4.mapCtx fun k => { k with gang := { k.gang with gang := false, det := true } }

/-- With no operand noted. -/
def fresh (s : State) : State := s.mapCtx fun k => { k with pops := [] }

theorem witness_GangsFormAndPart_gang (h : Obligations.GangsFormAndPart) :
    exec (.gang (.x 3) (.x 1)) g1 = .next ((keepsPops g1 (fresh g1)).mapCtx fun k => { k with progress := .gang (.gang (.x 3) (.x 1)) 3 }) ∧
    ∃ t, exec (.gang (.x 3) (.x 1)) g2 = .next t := by
  refine ⟨((((h g1 (fresh g1) (fresh g1) g1 g1 (.x 3) (.x 1) 3 0 0 3 (solo (met (by decide +kernel))) (met (by decide +kernel)) (met (by decide +kernel)) rfl).1 (readsX (met (by decide +kernel)) (met (by decide +kernel))) (met (by decide +kernel)) (met (by decide +kernel))).1 (met (by decide +kernel)) (met (by decide +kernel)) (met (by decide +kernel))).1 (met (by decide +kernel))), ?_⟩
  have g := ((h g2 (fresh g2) (fresh g2) (ran (formGang 0 3) (fresh g2)) (put (.gang (.x 3) (.x 1)) 3 2 (ran (formGang 0 3) (fresh g2)))
    (.x 3) (.x 1) 3 0 0 3 (solo (met (by decide +kernel))) (met (by decide +kernel)) (met (by decide +kernel)) rfl).1 (readsX (met (by decide +kernel)) (met (by decide +kernel))) (met (by decide +kernel)) (met (by decide +kernel))).1 (met (by decide +kernel)) (met (by decide +kernel)) (met (by decide +kernel))
  exact ⟨_, (g.2 (met (by decide +kernel)) (runs (met (by decide +kernel)))).2.2.2.2.2.2 (writesX (met (by decide +kernel)) (met (by decide +kernel)))⟩

theorem witness_GangsFormAndPart_gjoin (h : Obligations.GangsFormAndPart) :
    exec (.gjoin (.x 3) (.x 2)) g1 = .next ((keepsPops g1 (fresh g1)).mapCtx fun k => { k with progress := .gjoin (.gjoin (.x 3) (.x 2)) 1 }) ∧
    ∃ t, exec (.gjoin (.x 3) (.x 2)) g3 = .next t := by
  refine ⟨(((h g1 (fresh g1) (fresh g1) g1 g1 (.x 3) (.x 2) 1 0 1 1 (solo (met (by decide +kernel))) (met (by decide +kernel)) (met (by decide +kernel)) rfl).1 (readsX (met (by decide +kernel)) (met (by decide +kernel))) (met (by decide +kernel)) (met (by decide +kernel))).2 (met (by decide +kernel)) (met (by decide +kernel)) (met (by decide +kernel))).2 (fun i m e => absurd e (by
      rw [show ((fresh g1).getCore (g1.core.id.extractLsb' 4 9 ++ (1 : BitVec 4))).front.progress = .none by decide +kernel]; intro e; cases e)), ?_⟩
  exact ⟨_, (((h g3 (fresh g3) (fresh g3) _ _ (.x 3) (.x 2) 1 0 1 1 (solo (met (by decide +kernel))) (met (by decide +kernel)) (met (by decide +kernel)) rfl).1 (readsX (met (by decide +kernel)) (met (by decide +kernel))) (met (by decide +kernel)) (met (by decide +kernel))).2 (met (by decide +kernel)) (met (by decide +kernel)) (met (by decide +kernel))).1 (.gang (.x 4) (.x 1)) 3 _ rfl (met (by decide +kernel)) (met (by decide +kernel)) (met (by decide +kernel)) (met (by decide +kernel))
    (runs (met (by decide +kernel))) (writesX rfl (met (by decide +kernel)))⟩

/-- GLEAVE in a gang of the core that the mask names, and in a detached follower; with a mask of 17 bits; GREJOIN of an
attached follower, of a detached one, and outside every gang. -/
theorem witness_GangsFormAndPart_leaves (h : Obligations.GangsFormAndPart) :
    exec (.gleave (.x 2)) g4 = .next (retire g4 (if g4.ctx.gang.gang = true ∧ ((1 : BitVec 16).getLsbD g4.ctx.gang.leader.toNat = true ∨
        (1 : BitVec 16).getLsbD (0 : BitVec 4).toNat = true) ∨ g4.ctx.gang.gang = false ∧ g4.ctx.gang.isIn = true then g4.mapCtx Ctx.leaveGang else g4) {}) ∧
    exec (.gleave (.x 2)) g5 = .next (retire g5 (if g5.ctx.gang.gang = true ∧ ((1 : BitVec 16).getLsbD g5.ctx.gang.leader.toNat = true ∨
        (1 : BitVec 16).getLsbD (0 : BitVec 4).toNat = true) ∨ g5.ctx.gang.gang = false ∧ g5.ctx.gang.isIn = true then g5.mapCtx Ctx.leaveGang else g5) {}) ∧
    exec (.gleave (.x 3)) g4 = .next ((trapBase g4 g4.ctx.pops none).takeTrap 0x01 (wordOf (.gleave (.x 3)))) :=
  ⟨((h g4 _ g4 g4 g4 (.x 3) (.x 2) 1 0 0 1 (solo (met (by decide +kernel))) (met (by decide +kernel)) (met (by decide +kernel)) rfl).2 (readsX (met (by decide +kernel)) (met (by decide +kernel)))).1 (met (by decide +kernel)),
   ((h g5 _ g5 g5 g5 (.x 3) (.x 2) 1 0 0 1 (solo (met (by decide +kernel))) (met (by decide +kernel)) (met (by decide +kernel)) rfl).2 (readsX (met (by decide +kernel)) (met (by decide +kernel)))).1 (met (by decide +kernel)),
   ((h g4 _ g4 g4 g4 (.x 3) (.x 3) 0x10000 0 0 0 (solo (met (by decide +kernel))) (met (by decide +kernel)) (met (by decide +kernel)) rfl).2 (readsX (met (by decide +kernel)) (met (by decide +kernel)))).2.1 (met (by decide +kernel))⟩

theorem witness_GangsFormAndPart_rejoins (h : Obligations.GangsFormAndPart) :
    exec (.grejoin (.x 3) (.x 2)) g4 = .next (retire g4 (put (.grejoin (.x 3) (.x 2)) 3 0 g4) {}) ∧
    exec (.grejoin (.x 3) (.x 2)) g5 = .next (g5.mapCtx fun k => { k with
        gang := { k.gang with rjw := true, rejoin := k.pc }, progress := .rejoin (.grejoin (.x 3) (.x 2)) }) ∧
    exec (.grejoin (.x 3) (.x 3)) g1 = .next ((trapBase g1 g1.ctx.pops none).takeTrap 0x1A g1.ctx.statusWord) :=
  ⟨(((h g4 _ g4 _ g4 (.x 3) (.x 2) 1 0 0 1 (solo (met (by decide +kernel))) (met (by decide +kernel)) (met (by decide +kernel)) rfl).2 (readsX (met (by decide +kernel)) (met (by decide +kernel)))).2.2.1 (met (by decide +kernel)) (met (by decide +kernel))).1 (met (by decide +kernel)) (writesX rfl (met (by decide +kernel))),
   (((h g5 _ g5 g5 g5 (.x 3) (.x 2) 1 0 0 1 (solo (met (by decide +kernel))) (met (by decide +kernel)) (met (by decide +kernel)) rfl).2 (readsX (met (by decide +kernel)) (met (by decide +kernel)))).2.2.1 (met (by decide +kernel)) (met (by decide +kernel))).2 (met (by decide +kernel)),
   ((h g1 _ g1 g1 g1 (.x 3) (.x 3) 0x10000 0 0 0 (solo (met (by decide +kernel))) (met (by decide +kernel)) (met (by decide +kernel)) rfl).2 (readsX (met (by decide +kernel)) (met (by decide +kernel)))).2.2.2 (met (by decide +kernel))⟩

/-- Core 0 leads cores 0 and 1; core 1 follows, at the same PC or at another. -/
@[irreducible] def g6 : State := (withX [(1, 3), (2, 1)] base).mapCtx fun k => { k with gang := ⟨true, true, 0, 0, true, false, false, 3, k.ctxid, 0, 0⟩ }
@[irreducible] def g7 : State := g6.modCore 1 fun c => { c with front := { c.front with
  life := .live, status := 2, pc := 0x100, gang := ⟨true, false, 0, 1, true, false, false, 3, 1, 0, g6.ctx.ctxid⟩, ctxid := g6.ctx.ctxid } }

theorem witness_FollowersExecuteTheLeadersUnit_alone (h : Obligations.FollowersExecuteTheLeadersUnit) :
    exec (.add (.x 3) (.x 1) (.x 2)) g6 = .next (retire g6 (put (.add (.x 3) (.x 1) (.x 2)) 3 4 g6) {}) :=
  (h g6 g6 g6 _ g6 g6 g6 g6 g6 (.x 3) (.x 1) (.x 2) 3 1 0 0 0 (Ctx.reset 0) (named (met (by decide +kernel))) (met (by decide +kernel)) (met (by decide +kernel)) (met (by decide +kernel)) (readsX (met (by decide +kernel)) (met (by decide +kernel))) (readsX (met (by decide +kernel)) (met (by decide +kernel))) (writesX rfl (met (by decide +kernel)))).1 (met (by decide +kernel))

@[irreducible] def g7a : State := put (.add (.x 3) (.x 1) (.x 2)) 3 4 g7
@[irreducible] def g7f : State := ((retire g7 g7a {}).lendHints [1] g7.ctx.hints).asFollower 1

theorem witness_FollowersExecuteTheLeadersUnit_both (h : Obligations.FollowersExecuteTheLeadersUnit) :
    g7f.cycle = (retire g7 g7a {}).cycle + BitVec.ofNat 64 (g7f.ctx.gang.pos.toNat + 1) ∧ ∃ t, exec (.add (.x 3) (.x 1) (.x 2)) g7 = .next t :=
  have g := (h g7 g7 g7 g7a g7f g7f g7f (put (.add (.x 3) (.x 1) (.x 2)) 3 0 g7f) _ (.x 3) (.x 1) (.x 2) 3 1 0 0 1 _ (named (met (by decide +kernel))) (met (by decide +kernel)) (met (by decide +kernel)) (met (by decide +kernel)) (readsX (met (by decide +kernel)) (met (by decide +kernel))) (readsX (met (by decide +kernel)) (met (by decide +kernel)))
    (by unfold g7a; exact writesX rfl (met (by decide +kernel)))).2 (met (by decide +kernel)) (by unfold g7f; rfl)
  ⟨g.1 (met (by decide +kernel)), _, g.2 (readsX (met (by decide +kernel)) (met (by decide +kernel))) (readsX (met (by decide +kernel)) (met (by decide +kernel))) (writesX rfl (met (by decide +kernel))) rfl rfl⟩

end Sys2Proof.Tests
end

