-- ==== Sys2Proof/Tests/Witness6d.lean ====
section
/-! SUPPORT. Witnesses: huddles and supersteps. -/

-- One theorem after the other: elaborating many at once needs more threads than the memory limit holds.
set_option Elab.async false

open Sys2Proof Sys2Proof.Machine Sys2Proof.Statements

namespace Sys2Proof.Tests

/-! ## Huddles -/

/-- x1 names huddle 0xFFF, which tenant 0 owns; x2 = 3, x4 = 6. -/
@[irreducible] def h1 : State := { withX [(1, 0xFFF), (2, 3), (4, 6)] base with hown := [(0xFFF, 0x80)] }
/-- A registration of core 0: its mode, ARR, WT and HELD, arrived in phase 6; and the huddle of it and of another member,
in phase 7. -/
def hreg (mode : BitVec 2) (arr wt : Bool) (held : Option Nat) : HReg := ⟨h1.who, mode, arr, wt, 6, held, 0⟩
def hother : HReg := ⟨⟨1, 99⟩, 3, false, false, 0, none, 0⟩
def hud (r : HReg) : Huddle := ⟨7, 2, if r.arr then 1 else 0, 0, [r, hother]⟩
@[irreducible] def h2 : State := withHuddle 0xFFF (hud (hreg 3 false false none)) h1
@[irreducible] def h3 : State := withHuddle 0xFFF (hud (hreg 3 true false none)) h1
@[irreducible] def h4 : State := withHuddle 0xFFF (hud (hreg 3 false true none)) h1
@[irreducible] def h5 : State := withHuddle 0xFFF (hud (hreg 3 false true (some 400))) h1

theorem witness_HuddleMembersComeAndGo_hreg (h : Obligations.HuddleMembersComeAndGo) : ∃ t, exec (.hreg (.x 3) (.x 1) (.x 2)) h1 = .next t :=
  ⟨_, (h h1 h1 h1 (put (.hreg (.x 3) (.x 1) (.x 2)) 3 0 (withHuddle 0xFFF { h1.huddle 0xFFF with regs := (h1.huddle 0xFFF).regs ++ [⟨h1.who, (3 : Word).setWidth 2, false, false, 0, none, 0⟩], expect := if (3 : Word) = 2 then (h1.huddle 0xFFF).expect else (h1.huddle 0xFFF).expect + 1 } h1)) (.x 3) (.x 1) (.x 2) 0xFFF 3 0xFFF _ _ (hreg 3 false false none) (solo (met (by decide +kernel))) (readsX (met (by decide +kernel)) (met (by decide +kernel))) (met (by decide +kernel)) rfl rfl (met (by decide +kernel))).1
    (readsX (met (by decide +kernel)) (met (by decide +kernel))) (met (by decide +kernel)) (met (by decide +kernel)) (met (by decide +kernel)) (met (by decide +kernel)) (met (by decide +kernel)) rfl (writesX (met (by decide +kernel)) (met (by decide +kernel)))⟩

theorem witness_HuddleMembersComeAndGo_hdrop (h : Obligations.HuddleMembersComeAndGo) :
    exec (.hdrop (.x 1)) h1 = .next ((trapBase h1 h1.ctx.pops none).takeTrap 0x0F (BitVec.ofNat 64 ((0xFFF : BitVec 12).toNat % 1024))) ∧
    (∃ t, exec (.hdrop (.x 1)) h2 = .next t) ∧ ∃ t, exec (.hdrop (.x 1)) h3 = .next t :=
  ⟨(h h1 h1 h1 h1 (.x 3) (.x 1) (.x 2) 0xFFF 3 0xFFF _ (hud hother) (hreg 3 false false none) (solo (met (by decide +kernel))) (readsX (met (by decide +kernel)) (met (by decide +kernel))) (met (by decide +kernel)) rfl rfl (met (by decide +kernel))).2.1 (met (by decide +kernel)),
   ⟨_, ((h h2 h2 h2 h2 (.x 3) (.x 1) (.x 2) 0xFFF 3 0xFFF _ _ (hreg 3 false false none) (solo (met (by decide +kernel))) (readsX (met (by decide +kernel)) (met (by decide +kernel))) (met (by decide +kernel)) rfl rfl (met (by decide +kernel))).2.2 (met (by decide +kernel))).1 rfl⟩,
   ⟨_, ((h h3 h3 h3 h3 (.x 3) (.x 1) (.x 2) 0xFFF 3 0xFFF _ _ (hreg 3 true false none) (solo (met (by decide +kernel))) (readsX (met (by decide +kernel)) (met (by decide +kernel))) (met (by decide +kernel)) rfl rfl (met (by decide +kernel))).2.2 (met (by decide +kernel))).1 rfl⟩⟩

theorem witness_HuddleMembersComeAndGo_harr (h : Obligations.HuddleMembersComeAndGo) :
    (∃ t, exec (.harr (.x 3) (.x 1)) h2 = .next t) ∧
    exec (.harr (.x 3) (.x 1)) h3 = .next (h3.mapCtx fun k => { k with progress := .barrier (.harr (.x 3) (.x 1)) 0xFFF false }) :=
  ⟨⟨_, ((h h2 h2 h2 (put (.harr (.x 3) (.x 1)) 3 7 (withHuddle 0xFFF { h2.huddle 0xFFF with regs := (h2.huddle 0xFFF).regs.map (fun r => if r.who = h2.who then { r with arr := true, ap := (h2.huddle 0xFFF).phase } else r), arrived := (h2.huddle 0xFFF).arrived + 1 } h2)) (.x 3) (.x 1) (.x 2) 0xFFF 3 0xFFF _ _ (hreg 3 false false none) (solo (met (by decide +kernel))) (readsX (met (by decide +kernel)) (met (by decide +kernel))) (met (by decide +kernel)) rfl rfl (met (by decide +kernel))).2.2 (met (by decide +kernel))).2.1 (met (by decide +kernel)) rfl rfl rfl
     (writesX (met (by decide +kernel)) (met (by decide +kernel)))⟩,
   ((h h3 h3 h3 h3 (.x 3) (.x 1) (.x 2) 0xFFF 3 0xFFF _ (hud hother) (hreg 3 true false none) (solo (met (by decide +kernel))) (readsX (met (by decide +kernel)) (met (by decide +kernel))) (met (by decide +kernel)) rfl rfl (met (by decide +kernel))).2.2 (met (by decide +kernel))).2.2.1 (met (by decide +kernel)) (.inr rfl)⟩

theorem witness_HuddleMembersComeAndGo_hdarr (h : Obligations.HuddleMembersComeAndGo) : ∃ t, exec (.hdarr (.x 3) (.x 1)) h3 = .next t :=
  ⟨_, ((h h3 h3 h3 (put (.hdarr (.x 3) (.x 1)) 3 6 (withHuddle 0xFFF { h3.huddle 0xFFF with regs := (h3.huddle 0xFFF).regs.filter (·.who != h3.who), leaving := (h3.huddle 0xFFF).leaving + 1, arrived := if (hreg 3 true false none).arr then (h3.huddle 0xFFF).arrived else (h3.huddle 0xFFF).arrived + 1 } h3)) (.x 3) (.x 1) (.x 2) 0xFFF 3 0xFFF _ _ (hreg 3 true false none) (solo (met (by decide +kernel))) (readsX (met (by decide +kernel)) (met (by decide +kernel))) (met (by decide +kernel)) rfl rfl (met (by decide +kernel))).2.2 (met (by decide +kernel))).2.2.2.1 (met (by decide +kernel)) rfl (writesX (met (by decide +kernel)) (met (by decide +kernel)))⟩

theorem witness_HuddleMembersComeAndGo_hwait (h : Obligations.HuddleMembersComeAndGo) :
    (∃ t, exec (.hwait (.x 3) (.x 1) (.x 4)) h2 = .next t) ∧
    exec (.hwait (.x 3) (.x 1) (.x 1)) h2 = .next ((withHuddle 0xFFF { h2.huddle 0xFFF with regs := (h2.huddle 0xFFF).regs.map fun r =>
        if r.who = h2.who then { r with goal := (0xFFF : Word).setWidth 32 } else r } h2).mapCtx
      fun k => { k with progress := .barrier (.hwait (.x 3) (.x 1) (.x 1)) 0xFFF false }) :=
  ⟨⟨_, (((h h2 h2 h2 _ (.x 3) (.x 1) (.x 4) 0xFFF 6 0xFFF _ (hud hother) (hreg 3 false false none) (solo (met (by decide +kernel))) (readsX (met (by decide +kernel)) (met (by decide +kernel))) (met (by decide +kernel)) rfl rfl (met (by decide +kernel))).2.2 (met (by decide +kernel))).2.2.2.2.1
     (readsX (met (by decide +kernel)) (met (by decide +kernel))) (met (by decide +kernel))).1 rfl (met (by decide +kernel)) (writesX (v' := 7) (met (by decide +kernel)) (met (by decide +kernel)))⟩,
   (((h h2 h2 h2 h2 (.x 3) (.x 1) (.x 1) 0xFFF 0xFFF 0xFFF _ (hud hother) (hreg 3 false false none) (solo (met (by decide +kernel))) (readsX (met (by decide +kernel)) (met (by decide +kernel))) (met (by decide +kernel)) rfl rfl (met (by decide +kernel))).2.2 (met (by decide +kernel))).2.2.2.2.1
     (readsX (met (by decide +kernel)) (met (by decide +kernel))) (met (by decide +kernel))).2 (.inr (met (by decide +kernel)))⟩

theorem witness_HuddleMembersComeAndGo_hsync (h : Obligations.HuddleMembersComeAndGo) :
    (∃ t, exec (.hsync (.x 3) (.x 1)) h2 = .next t) ∧ (∃ t, exec (.hsync (.x 3) (.x 1)) h4 = .next t) ∧
    exec (.hsync (.x 3) (.x 1)) h5 = .next (h5.mapCtx fun k => { k with progress := .barrier (.hsync (.x 3) (.x 1)) 0xFFF false }) := by
  have e := (((h h2 h2 h2 h2 (.x 3) (.x 1) (.x 4) 0xFFF 6 0xFFF _ (hud hother) (hreg 3 false false none) (solo (met (by decide +kernel))) (readsX (met (by decide +kernel)) (met (by decide +kernel))) (met (by decide +kernel)) rfl rfl (met (by decide +kernel))).2.2 (met (by decide +kernel))).2.2.2.2.2
    rfl).1 rfl rfl rfl
  exact ⟨⟨_, e⟩, ⟨_, (((h h4 h4 h4 (put (.hsync (.x 3) (.x 1)) 3 7 (withHuddle 0xFFF { h4.huddle 0xFFF with regs := (h4.huddle 0xFFF).regs.map fun r => if r.who = h4.who then { r with wt := false } else r } h4)) (.x 3) (.x 1) (.x 4) 0xFFF 6 0xFFF _ (hud hother) (hreg 3 false true none) (solo (met (by decide +kernel))) (readsX (met (by decide +kernel)) (met (by decide +kernel))) (met (by decide +kernel)) rfl rfl (met (by decide +kernel))).2.2 (met (by decide +kernel))).2.2.2.2.2
      rfl).2.1 rfl rfl (met (by decide +kernel)) (writesX (met (by decide +kernel)) (met (by decide +kernel)))⟩,
    (((h h5 h5 h5 h5 (.x 3) (.x 1) (.x 4) 0xFFF 6 0xFFF _ (hud hother) (hreg 3 false true (some 400)) (solo (met (by decide +kernel))) (readsX (met (by decide +kernel)) (met (by decide +kernel))) (met (by decide +kernel)) rfl rfl (met (by decide +kernel))).2.2 (met (by decide +kernel))).2.2.2.2.2
      rfl).2.2 (.inl (met (by decide +kernel)))⟩

/-- All members of huddle 0xFFF have arrived; and its phase is complete and core 0 waits for the release, whose time has come. -/
@[irreducible] def h6 : State := withHuddle 0xFFF ⟨0xFFFFFFFF, 1, 1, 0, [hreg 3 true true none]⟩ h1
@[irreducible] def h7 : State := (withHuddle 0xFFF ⟨0, 1, 0, 0, [hreg 3 false true (some 0)]⟩ h1).mapCtx fun k => { k with
  progress := .barrier (.hsync (.x 3) (.x 1)) 0xFFF false }

/-- Is a member's release due? -/
def dueBy (s : State) (r : HReg) : Bool := match r.held with
  | some t => decide (t ≤ s.cycle.toNat)
  | none => false
theorem dueBy_iff (s : State) (r : HReg) : dueBy s r = true ↔ ∃ t, r.held = some t ∧ t ≤ s.cycle.toNat := by
  unfold dueBy
  cases r.held <;> simp

def release : Act := .huddleRelease ((0xFFF : BitVec 12).extractLsb' 10 2) ((0xFFF : BitVec 12).extractLsb' 0 10)

theorem witness_HuddlePhasesComplete_test (h : Obligations.HuddlePhasesComplete) : (∃ t, h6.testHuddle 0xFFF = t) ∧ h3.testHuddle 0xFFF = h3 :=
  ⟨⟨_, (h h6 h6 0xFFF _ _ _ rfl rfl (dueBy_iff h6)).1 (met (by decide +kernel)) (met (by decide +kernel))⟩, (h h3 h3 0xFFF _ _ _ rfl rfl (dueBy_iff h3)).2.1 (.inl (met (by decide +kernel)))⟩

theorem witness_HuddlePhasesComplete_release (h : Obligations.HuddlePhasesComplete) :
    (∃ t, exec .huddleRelease (due release none h5) = .next t) ∧
    ∃ t, exec .huddleRelease (due release none h7) = exec (.hsync (.x 3) (.x 1)) t := by
  obtain ⟨t, e, -⟩ := ((h (due release none h5) h5 0xFFF _ _ _ rfl rfl (dueBy_iff _)).2.2 takesDue).1 (met (by decide +kernel))
  exact ⟨⟨t, e⟩, ⟨_, ((h (due release none h7) h7 0xFFF _ _ _ rfl rfl (dueBy_iff _)).2.2 takesDue).2
    (hreg 3 false true (some 0)) (.x 3) (.x 1) _ (met (by decide +kernel)) (met (by decide +kernel)) (met (by decide +kernel)) (met (by decide +kernel)) (met (by decide +kernel)) (met (by decide +kernel)) rfl⟩⟩

/-! ## Supersteps -/

/-- Core 0 in its compute phase; released from it; in its exchange phase of slot base 10, in cycle 5, with one slot, in
cycle 3, 0 or 0xFFFFFFFF of that phase, of 64 bytes to core 1. -/
@[irreducible] def s1' : State := h1.mapCtx fun k => { k with phase := 1, domain := 0xFFF }
@[irreducible] def s2' : State := (withHuddle 0xFFF (hud (hreg 3 false true none)) s1').mapCtx fun k => { k with
  progress := .barrier (.sstep (.x 3) (.x 1) false) 0xFFF true }
def slotAt (n : BitVec 32) : XSlot := ⟨n, 0, 64, 0xBFC0, 0x1BFC0⟩
@[irreducible] def s3' (n : BitVec 32) : State :=
  { ((h1.mapCtx fun k => { k with phase := 3, domain := 0xFFF, slotBase := 5 }).mapFocus fun c => { c with slots := [slotAt n], slotTag := some c.front.ctxid }) with
    cycle := 8 }

theorem witness_SuperstepsGoRound (h : SuperstepsGoRound) :
    (∃ t, exec (.sstep (.x 3) (.x 1) false) h1 = .next t) ∧ (∃ t, exec (.sstep (.x 3) (.x 1) true) h1 = .next t) ∧
    exec (.sstep (.x 3) (.x 2) false) s1' = .next ((trapBase s1' s1'.ctx.pops none).takeTrap 0x0F (BitVec.ofNat 64 ((3 : BitVec 12).toNat % 1024))) ∧
    ∃ t, exec (.sstep (.x 3) (.x 1) false) s2' = .next t :=
  ⟨⟨_, (h h1 h1 _ h1 (.x 3) (.x 1) false 0xFFF 0xFFF (hreg 3 false true none) 0 false (solo (met (by decide +kernel))) (readsX (met (by decide +kernel)) (met (by decide +kernel))) rfl (met (by decide +kernel))).1 (met (by decide +kernel)) (writesX (v' := 1) rfl (met (by decide +kernel)))⟩,
   ⟨_, (h h1 h1 _ h1 (.x 3) (.x 1) true 0xFFF 0xFFF (hreg 3 false true none) 0 false (solo (met (by decide +kernel))) (readsX (met (by decide +kernel)) (met (by decide +kernel))) rfl (met (by decide +kernel))).1 (met (by decide +kernel)) (writesX (v' := 0) rfl (met (by decide +kernel)))⟩,
   (h s1' s1' s1' s1' (.x 3) (.x 2) false 3 3 (hreg 3 false true none) 0 false (solo (met (by decide +kernel))) (readsX (met (by decide +kernel)) (met (by decide +kernel))) (met (by decide +kernel)) (met (by decide +kernel))).2.1 (met (by decide +kernel)) (met (by decide +kernel)),
   ⟨_, (h s2' s2' _ (put (.sstep (.x 3) (.x 1) false) 3 3 ((withHuddle 0xFFF { s2'.huddle 0xFFF with regs := (s2'.huddle 0xFFF).regs.map fun r => if r.who = s2'.who then { r with wt := false } else r } s2').mapCtx fun k => { k with phase := 3, domain := if (3 : BitVec 2) = 0 then 0 else k.domain, slotBase := if (3 : BitVec 2) = 3 then s2'.cycle.toNat else k.slotBase })) (.x 3) (.x 1) false 0xFFF 0xFFF (hreg 3 false true none) 3 true (solo (met (by decide +kernel))) (readsX (met (by decide +kernel)) (met (by decide +kernel))) rfl (met (by decide +kernel))).2.2 (met (by decide +kernel)) (met (by decide +kernel)) (met (by decide +kernel)) rfl rfl rfl (met (by decide +kernel)) (fun e => absurd e (met (by decide +kernel))) (met (by decide +kernel)) rfl rfl (writesX (met (by decide +kernel)) (met (by decide +kernel)))⟩⟩

/-- It waits in that XSEND for its slot, whose cycle is over. -/
@[irreducible] def s5' : State := (s3' 2).mapCtx fun k => { k with progress := .slot ((s3' 2).ctx.slotBase + 2) }

/-- Two slots in memory at 0x900000. -/
@[irreducible] def s4' : State := withX [(1, 0x900000), (2, 2)] (base.poke (2 ^ 48 + 0x100000)
  (bytesOfNat 8 (64 * 2 ^ 48 + 5) ++ bytesOfNat 8 (0x1BFC0 * 2 ^ 32 + 0xBFC0) ++ bytesOfNat 8 (4096 * 2 ^ 48 + 15 * 2 ^ 32) ++ bytesOfNat 8 0))

theorem witness_ExchangeSlotsAreSent_xtab (h : ExchangeSlotsAreSent) :
    (∃ t, exec (.xtab (.x 1) (.x 2)) s4' = .next t) ∧
    exec (.xtab (.x 1) (.x 2)) (s3' 0) = .next ((trapBase (s3' 0) (s3' 0).ctx.pops none).takeTrap 0x0D (BitVec.allOnes 64)) := by
  obtain ⟨u, e, -⟩ := (h s4' s4' s4' _ (.x 1) (.x 2) 0x900000 2 _ [⟨5, 0, 64, 0xBFC0, 0x1BFC0⟩, ⟨0, 15, 4096, 0, 0⟩] (slotAt 0) 0 0 0 (solo (met (by decide +kernel)))).1 (met (by decide +kernel)) (readsX (met (by decide +kernel)) (met (by decide +kernel))) (readsX (met (by decide +kernel)) (met (by decide +kernel))) (met (by decide +kernel)) (met (by decide +kernel)) (met (by decide +kernel))
    (runs (v := bytesOfNat 8 (64 * 2 ^ 48 + 5) ++ bytesOfNat 8 (0x1BFC0 * 2 ^ 32 + 0xBFC0) ++ bytesOfNat 8 (4096 * 2 ^ 48 + 15 * 2 ^ 32) ++ bytesOfNat 8 0) (met (by decide +kernel))) (met (by decide +kernel))
  exact ⟨⟨u, e⟩, (h (s3' 0) (s3' 0) (s3' 0) (s3' 0) (.x 1) (.x 2) 0 0 [] [] (slotAt 0) 0 0 0 (solo (met (by decide +kernel)))).2.1 (met (by decide +kernel))⟩

theorem witness_ExchangeSlotsAreSent_xsend (h : ExchangeSlotsAreSent) :
    exec (.xsend (.x 0)) h1 = .next ((trapBase h1 h1.ctx.pops none).takeTrap 0x0D 0) ∧
    exec (.xsend (.x 0)) (s3' 0xFFFFFFFF) = .next ((s3' 0xFFFFFFFF).mapCtx fun k => { k with progress := .slot ((s3' 0xFFFFFFFF).ctx.slotBase + (slotAt 0xFFFFFFFF).cycle.toNat) }) ∧
    (∃ t, exec (.xsend (.x 0)) (s3' 3) = .next t) ∧
    exec (.xsend (.x 0)) (s3' 2) = .next ((trapBase (s3' 2) (s3' 2).ctx.pops none).takeTrap 0x0D 0) ∧
    (∃ t, exec (.xsend (.x 0)) s5' = .next t) :=
  have g (n : BitVec 32) (r : Reads (.x 0) (s3' n) 0 (s3' n)) (so : Solo (s3' n)) := (h (s3' n) (s3' n) (s3' n) (s3' n) (.x 0) (.x 2) 0 0 [] [] (slotAt n) ((slotAt n).dst.extractLsb' 16 13) ((slotAt n).dst.toNat % 2 ^ 16) ((s3' n).ctx.slotBase + (slotAt n).cycle.toNat) so).2.2.2 r
  ⟨(h h1 h1 h1 h1 (.x 0) (.x 2) 0 0 [] [] (slotAt 0) 0 0 0 (solo (met (by decide +kernel)))).2.2.1 (readsX (met (by decide +kernel)) (met (by decide +kernel))) (met (by decide +kernel)),
   (g 0xFFFFFFFF (readsX (met (by decide +kernel)) (met (by decide +kernel))) (solo (met (by decide +kernel))) (met (by decide +kernel)) (met (by decide +kernel)) (met (by decide +kernel)) rfl rfl (met (by decide +kernel)) (met (by decide +kernel)) (met (by decide +kernel)) rfl).1 (met (by decide +kernel)), ⟨_, (g 3 (readsX (met (by decide +kernel)) (met (by decide +kernel))) (solo (met (by decide +kernel))) (met (by decide +kernel)) (met (by decide +kernel)) (met (by decide +kernel)) rfl rfl (met (by decide +kernel)) (met (by decide +kernel)) (met (by decide +kernel)) rfl).2.1 (met (by decide +kernel)) (met (by decide +kernel))⟩,
   (g 2 (readsX (met (by decide +kernel)) (met (by decide +kernel))) (solo (met (by decide +kernel))) (met (by decide +kernel)) (met (by decide +kernel)) (met (by decide +kernel)) rfl rfl (met (by decide +kernel)) (met (by decide +kernel)) (met (by decide +kernel)) rfl).2.2 (met (by decide +kernel)) (met (by decide +kernel)), ⟨_, (h s5' s5' s5' s5' (.x 0) (.x 2) 0 0 [] [] (slotAt 2) ((slotAt 2).dst.extractLsb' 16 13) ((slotAt 2).dst.toNat % 2 ^ 16)
     (s5'.ctx.slotBase + (slotAt 2).cycle.toNat) (solo (met (by decide +kernel)))).2.2.2 (readsX (met (by decide +kernel)) (met (by decide +kernel))) (met (by decide +kernel)) (met (by decide +kernel)) (met (by decide +kernel)) rfl rfl (met (by decide +kernel)) (met (by decide +kernel)) (met (by decide +kernel)) rfl |>.2.1 (met (by decide +kernel)) (met (by decide +kernel))⟩⟩

end Sys2Proof.Tests
end

