-- ==== Sys2Proof/Tests/Witness7.lean ====
section
/-! SUPPORT. Witnesses: the vector unit. -/

-- One theorem after the other: elaborating many at once needs more threads than the memory limit holds.
set_option Elab.async false

open Sys2Proof Sys2Proof.Machine Sys2Proof.Statements

namespace Sys2Proof.Tests

theorem lanesTaken {i : Instr} {s s1 : State} {d : BitVec 5} {t : ElemType} {seed : Word} {f : Nat → Nat} (h : TakesLanes i s s1 d t seed f) :
    ∃ u, exec i s = .next u := by
  obtain ⟨V, e, -⟩ := h; exact ⟨_, e⟩

/-! ## Arithmetic -/

/-- v1 holds 1.0, and a quiet NaN in its last FP32 lane; v2 small integers; p1 the lanes 0 and 31, p2 lane 127. x1 points
into the pool, x2 to the last 128 bytes of local memory. -/
@[irreducible] def v1 : State :=
  (withX [(1, 0x900000), (2, 0xBF80), (3, 77), (4, 0x8FF800)] (base.poke (2 ^ 48 + 0x100000) [1, 2, 3, 4])).mapCtx fun k => { k with
    v := (k.v.set 1 (BitVec.ofNat 1024 (0x3F800000 + 0x7FC00000 * 2 ^ 992))).set 2 (BitVec.ofNat 1024 (3 + 2 ^ 992))
    p := (k.p.set 1 (BitVec.ofNat 128 (1 + 2 ^ 31))).set 2 (BitVec.ofNat 128 (2 ^ 127)) }
/-- The same under stochastic rounding. -/
@[irreducible] def v2 : State := v1.mapCtx fun k => { k with status := (4 : BitVec 9) <<< 3 + 2 }

theorem witness_VectorFloatResults (h : VectorFloatResults) :
    (∃ t, exec (.vadd 3 1 2 0 .f32) v1 = .next t) ∧ (∃ t, exec (.vfma 3 1 2 1 .bf16) v2 = .next t) ∧ ∃ t, exec (.vlog2 1 1 1 .f32) v1 = .next t :=
  ⟨lanesTaken (h v1 3 1 2 0 .f32 .fp32 _ _ _ (solo (met (by decide +kernel))) rfl rfl (.head _)),
   lanesTaken (h v2 3 1 2 1 .bf16 .bf16 _ _ _ (solo (met (by decide +kernel))) rfl rfl (.tail _ (.tail _ (.tail _ (.head _))))),
   lanesTaken (h v1 1 1 2 1 .f32 .fp32 _ (.vlog2 1 1 1 .f32) _ (solo (met (by decide +kernel))) rfl rfl
    (nth 7 rfl))⟩

theorem witness_VectorLaneResults (h : VectorLaneResults) :
    (∃ t, exec (.vsra 3 1 2 1 .i8) v1 = .next t) ∧ (∃ t, exec (.vneg 3 1 0 .i16) v1 = .next t) ∧ ∃ t, exec (.vmin 3 1 2 1 .f32) v1 = .next t :=
  ⟨lanesTaken (h v1 3 1 2 1 .i8 _ _ _ (solo (met (by decide +kernel))) rfl (.inl (nth 6 rfl))),
   lanesTaken (h v1 3 1 2 0 .i16 _ (.vneg 3 1 0 .i16) _ (solo (met (by decide +kernel))) rfl (.inr (.inl ⟨rfl, nth 7 rfl⟩))),
   lanesTaken (h v1 3 1 2 1 .f32 _ _ _ (solo (met (by decide +kernel))) rfl (.inr (.inr ⟨.fp32, rfl, .head _⟩)))⟩

/-! ## Masks and movements -/

theorem witness_MasksAndMovements_masks (h : Obligations.MasksAndMovements) :
    (∃ t, exec (.vcmp .un 1 2 3 .f32) v1 = .next t) ∧ (∃ t, exec (.vcmp .leu 1 2 7 .i8) v1 = .next t) ∧ ∃ t, exec (.mnot 0 2) v1 = .next t := by
  have g := fun m p t => (h v1 v1 v1 3 1 2 3 4 m p 2 t 0 (solo (met (by decide +kernel)))).1
  obtain ⟨P, e, -⟩ := g 1 3 .f32 (.vcmp .un 1 2 3 .f32) _ (.inl ⟨.un, .fp32, rfl, rfl, nth 4 rfl⟩)
  obtain ⟨Q, f, -⟩ := g 1 7 .i8 (.vcmp .leu 1 2 7 .i8) _ (.inr (.inl ⟨.leu, rfl, rfl, nth 5 rfl⟩))
  obtain ⟨R, k, -⟩ := g 2 0 .i8 (.mnot 0 2) _ (.inr (.inr (.tail _ (.tail _ (.head _)))))
  exact ⟨⟨_, e⟩, ⟨_, f⟩, ⟨_, k⟩⟩

theorem witness_MasksAndMovements_moves (h : Obligations.MasksAndMovements) :
    (∃ t, exec (.vperm 3 1 2 1 .i8) v1 = .next t) ∧ (∃ t, exec (.vbcast 3 3 1 .i16) v1 = .next t) ∧
    (∃ t, exec (.mcnt 3 2 .i8) v1 = .next t) ∧ (∃ t, exec (.vext 3 1 31 0 .f32) v1 = .next t) ∧ ∃ t, exec (.vext 3 1 31 3 .i8) v1 = .next t :=
  have g := h v1 v1
  ⟨lanesTaken (g v1 3 1 2 3 4 1 1 2 .i8 0 (solo (met (by decide +kernel)))).2.2.2.1, lanesTaken ((g v1 3 1 2 3 4 1 1 2 .i16 77 (solo (met (by decide +kernel)))).2.2.2.2.1 (readsX (met (by decide +kernel)) (met (by decide +kernel)))),
   ⟨_, (g _ 3 1 2 3 4 2 1 2 .i8 0 (solo (met (by decide +kernel)))).2.2.2.2.2.1 (writesX (v' := 1) (met (by decide +kernel)) (met (by decide +kernel)))⟩,
   ⟨_, (g _ 3 1 2 3 31 2 1 0 .f32 0 (solo (met (by decide +kernel)))).2.2.2.2.2.2 (met (by decide +kernel)) (writesX (v' := 0x7FC00000) (met (by decide +kernel)) (met (by decide +kernel)))⟩,
   ⟨_, (g _ 3 1 2 3 31 2 1 3 .i8 0 (solo (met (by decide +kernel)))).2.2.2.2.2.2 (met (by decide +kernel)) (writesX (v' := 0x7F) (met (by decide +kernel)) (met (by decide +kernel)))⟩⟩

/-! ## Reductions, ranks, conversions -/

theorem witness_VectorReductionsAndRanks (h : VectorReductionsAndRanks) :
    (∃ t, exec (.vrsum 3 1 1 .f32) v2 = .next t) ∧ (∃ t, exec (.vrmin 3 1 1 .e4m3) v1 = .next t) ∧ (∃ t, exec (.vscan 3 1 0 .bf16) v2 = .next t) ∧
    (∃ t, exec (.vrsum 3 2 1 .i32) v1 = .next t) ∧ (∃ t, exec (.vrmax 3 2 1 .i8) v1 = .next t) ∧ (∃ t, exec (.vscan 3 2 1 .i16) v1 = .next t) ∧
    ∃ t, exec (.vtopk 3 1 1 1 .f32) v1 = .next t := by
  have g := fun s t m (r : Solo s) a => h s 3 a m 1 t _ _ _ _ r rfl rfl rfl (fun _ => rfl)
  obtain ⟨f, k, -⟩ := (g v1 .f32 1 (solo (met (by decide +kernel))) 1).2.2 _ _ (fun _ => rfl) (fun _ _ => rfl)
  exact ⟨lanesTaken ((g v2 .f32 1 (solo (met (by decide +kernel))) 1).1 .fp32 rfl).1, lanesTaken (((g v1 .e4m3 1 (solo (met (by decide +kernel))) 1).1 .e4m3 rfl).2.1 _ _ _ (.tail _ (.head _))),
    lanesTaken ((g v2 .bf16 0 (solo (met (by decide +kernel))) 1).1 .bf16 rfl).2.2, lanesTaken (((g v1 .i32 1 (solo (met (by decide +kernel))) 2).2.1 rfl).1 _ rfl),
    lanesTaken ((g v1 .i8 1 (solo (met (by decide +kernel))) 2).2.1 rfl).2.1, lanesTaken ((g v1 .i16 1 (solo (met (by decide +kernel))) 2).2.1 rfl).2.2.2, lanesTaken k⟩

theorem witness_VectorConversions (h : VectorConversions) :
    (∃ t, exec (.vcvt 3 1 0 .f32 1 .f32) v1 = .next t) ∧ (∃ t, exec (.vcvt 3 1 1 .bf16 1 .f32) v1 = .next t) ∧
    (∃ t, exec (.vcvt 3 1 3 .f32 0 .e4m3) v2 = .next t) ∧ (∃ t, exec (.vcvt 3 1 3 .f32 0 .i8) v2 = .next t) ∧
    (∃ t, exec (.vcvt 3 2 3 .i8 0 .f32) v2 = .next t) ∧ ∃ t, exec (.vcvt 3 2 0 .i32 0 .i16) v1 = .next t := by
  have k := fun s a part g t m (r : Solo s) => h s 3 a part g t m _ _ _ _ _ _ r rfl rfl rfl rfl (fun _ => rfl) (fun _ => rfl)
  exact ⟨lanesTaken (((k v1 1 0 .f32 .f32 1 (solo (met (by decide +kernel)))).1 .fp32 .fp32 rfl rfl).1 rfl),
    lanesTaken (((k v1 1 1 .bf16 .f32 1 (solo (met (by decide +kernel)))).1 .bf16 .fp32 rfl rfl).2.1 (by decide) (by decide)),
    lanesTaken (((k v2 1 3 .f32 .e4m3 0 (solo (met (by decide +kernel)))).1 .fp32 .e4m3 rfl rfl).2.2 (by decide) (by decide)),
    lanesTaken ((k v2 1 3 .f32 .i8 0 (solo (met (by decide +kernel)))).2.1 .fp32 rfl rfl), lanesTaken ((k v2 2 3 .i8 .f32 0 (solo (met (by decide +kernel)))).2.2.1 .fp32 rfl rfl),
    lanesTaken ((k v1 2 0 .i32 .i16 0 (solo (met (by decide +kernel)))).2.2.2 rfl rfl)⟩

/-! ## Vector memory -/

/-- Active lanes 0 and 31 from 0x900000 on, or from 0x8FF800 + 0x7FC × 4 on; and in the last line of local memory. -/
def pooled : List (Nat × Word) := [(0, 0x900000), (31, 0x90007C)]
def pooledAt : List Phys := [⟨2 ^ 48 + 0x100000, false, false, true⟩, ⟨2 ^ 48 + 0x10007C, false, false, true⟩]
def lastLine : List (Nat × Word) := [(0, 0xBF80), (31, 0xBFFC)]
def lastLineAt : List Phys := [⟨2 ^ 49 + 0xBF80, true, true, false⟩, ⟨2 ^ 49 + 0xBFFC, true, true, false⟩]
/-- The last line is full. -/
@[irreducible] def v3 : State := v1.mapFocus fun c => { c with full := BitVec.ofNat 384 (2 ^ 383) }

def readyAll (s : State) (ps : List Phys) (n : Nat) : Bool := ps.all fun p => readyB s p n &&
  !(regionOf p.pa == .window && windowCore p.pa != s.core.id && (s.getCore (windowCore p.pa)).holding)
theorem allReady {s : State} {ps : List Phys} {n : Nat} (h : readyAll s ps n = true) : AllReady s ps n := by
  intro p hp
  have := List.all_eq_true.mp h p hp
  simp only [Bool.and_eq_true, Bool.not_eq_true', Bool.and_eq_false_iff] at this
  refine ⟨ready this.1, fun ⟨a, b, c⟩ => ?_⟩
  rcases this.2 with (e | e) | e
  · simp [a] at e
  · simp [b] at e
  · rw [c] at e; cases e

theorem witness_VectorLoadsReadMemory (h : Obligations.VectorLoadsReadMemory) :
    (∃ t, exec (.vld 3 1 false 0 1 .f32) v1 = .next t) ∧ exec (.vld 3 2 true 0 1 .f32) v1 = .next v1 ∧
    (∃ t, exec (.vld 3 2 true 0 1 .f32) v3 = .next t) ∧ ∃ t, exec (.vldx 3 1 4 1 .i8) v1 = .next t := by
  obtain ⟨V, e, -⟩ := (h v1 v1 _ 3 1 4 false 0 1 .f32 0x900000 4 _ pooled pooledAt (solo (met (by decide +kernel))) rfl (readsX (met (by decide +kernel)) (met (by decide +kernel))) (.inl ⟨rfl, (met (by decide +kernel))⟩) (met (by decide +kernel))
    (.inl (met (by decide +kernel))) (goesAll (met (by decide +kernel)))).2 (fun e => absurd e (by decide)) (allReady (met (by decide +kernel))) (met (by decide +kernel))
  obtain ⟨W, f, -⟩ := (h v3 v3 _ 3 2 4 true 0 1 .f32 0xBF80 4 _ lastLine lastLineAt (solo (met (by decide +kernel))) rfl (readsX (met (by decide +kernel)) (met (by decide +kernel))) (.inl ⟨rfl, (met (by decide +kernel))⟩) (met (by decide +kernel))
    (.inl (met (by decide +kernel))) (goesAll (met (by decide +kernel)))).2 (fun _ => (met (by decide +kernel))) (allReady (met (by decide +kernel))) (met (by decide +kernel))
  obtain ⟨X, k, -⟩ := (h v1 v1 _ 3 1 4 false 0 1 .i8 0x900000 1 (.vldx 3 1 4 1 .i8) [(0, 0x900000), (31, 0x900000)]
    [⟨2 ^ 48 + 0x100000, false, false, true⟩, ⟨2 ^ 48 + 0x100000, false, false, true⟩] (solo (met (by decide +kernel))) rfl (readsX (met (by decide +kernel)) (met (by decide +kernel)))
    (.inr ⟨rfl, rfl, (met (by decide +kernel))⟩) (met (by decide +kernel)) (.inl (met (by decide +kernel))) (goesAll (met (by decide +kernel)))).2 (fun e => absurd e (by decide)) (allReady (met (by decide +kernel))) (met (by decide +kernel))
  exact ⟨⟨_, e⟩, (h v1 v1 _ 3 2 4 true 0 1 .f32 0xBF80 4 _ lastLine lastLineAt (solo (met (by decide +kernel))) rfl (readsX (met (by decide +kernel)) (met (by decide +kernel))) (.inl ⟨rfl, (met (by decide +kernel))⟩) (met (by decide +kernel))
    (.inl (met (by decide +kernel))) (goesAll (met (by decide +kernel)))).1 (met (by decide +kernel)), ⟨_, f⟩, ⟨_, k⟩⟩

theorem witness_VectorStoresWriteMemory (h : Obligations.VectorStoresWriteMemory) :
    (∃ t, exec (.vst 1 1 false 0 1 .f32) v1 = .next t) ∧ ∃ t, exec (.vst 1 2 true 0 1 .f32) v1 = .next t := by
  obtain ⟨F, e, -⟩ := h v1 v1 _ _ 1 1 4 false 0 1 .f32 0x900000 4 _ pooled pooledAt (solo (met (by decide +kernel))) rfl (readsX (met (by decide +kernel)) (met (by decide +kernel))) (.inl ⟨rfl, (met (by decide +kernel))⟩) (met (by decide +kernel))
    (.inl (met (by decide +kernel))) (goesAll (met (by decide +kernel))) (met (by decide +kernel)) (allReady (met (by decide +kernel))) ⟨_, stored_pool (met (by decide +kernel)) (met (by decide +kernel)), _, stored_pool (met (by decide +kernel)) (met (by decide +kernel)), rfl⟩
  obtain ⟨G, f, -⟩ := h v1 v1 _ _ 1 2 4 true 0 1 .f32 0xBF80 4 _ lastLine lastLineAt (solo (met (by decide +kernel))) rfl (readsX (met (by decide +kernel)) (met (by decide +kernel))) (.inl ⟨rfl, (met (by decide +kernel))⟩) (met (by decide +kernel))
    (.inl (met (by decide +kernel))) (goesAll (met (by decide +kernel))) (met (by decide +kernel)) (allReady (met (by decide +kernel))) ⟨_, stored_own (met (by decide +kernel)) (met (by decide +kernel)), _, stored_own (met (by decide +kernel)) (met (by decide +kernel)), rfl⟩
  exact ⟨⟨_, e⟩, ⟨_, f⟩⟩

/-- BA0 at bit 28 of a word in the pool. -/
@[irreducible] def v4 : State := v1.mapCtx fun k => k.setBa 0 (8 * 0x900000 + 28)
def fields : List LaneAt :=
  [⟨0, 0x900000, ⟨2 ^ 48 + 0x100000, false, false, true⟩⟩, ⟨0, 0x900004, ⟨2 ^ 48 + 0x100004, false, false, true⟩⟩,
   ⟨31, 0x900078, ⟨2 ^ 48 + 0x100078, false, false, true⟩⟩, ⟨31, 0x90007C, ⟨2 ^ 48 + 0x10007C, false, false, true⟩⟩]

theorem laneWords_mem {ls : List LaneAt} {i : Nat} {w : Word × Phys} (h : w ∈ laneWords ls i) : ∃ l ∈ ls, w = (l.va, l.p) := by
  obtain ⟨l, hl, rfl⟩ := List.mem_map.mp h
  exact ⟨l, (List.mem_filter.mp hl).1, rfl⟩

def readableAll (s : State) (ls : List LaneAt) : Bool := ls.all fun l => regionOf l.p.pa != .fabric && !s.inStep l.p.pa 4 && !s.failing l.p.pa 4
theorem lanesRead {s : State} {ls : List LaneAt} (h : readableAll s ls = true) (j : Nat) :
    loadWords (laneWords ls j) s = .ok (natOfBytes ((laneWords ls j).flatMap fun w => s.view w.2.pa 4), s) := by
  refine Laws.loadWords_readable fun w hw => ?_
  obtain ⟨l, hl, rfl⟩ := laneWords_mem hw
  have := List.all_eq_true.mp h l hl
  simp at this
  exact ⟨this.1.1, this.1.2, this.2⟩

@[irreducible] def lanesLeft (k : AccKind) (as : List (Nat × Word)) (s : State) : State := okState (lanesAt k as s)
theorem lanesAre {k : AccKind} {as : List (Nat × Word)} {s : State} {ls : List LaneAt} (h : okVal (lanesAt k as s) = some ls) :
    lanesAt k as s = .ok (ls, lanesLeft k as s) := by unfold lanesLeft; exact ok_of_okVal h
def laneBits (s : State) : List (Nat × Word) :=
  ((List.range 32).filter (active s 1)).flatMap fun j => (bitWords (8 * 0x900000 + 28 + BitVec.ofNat 64 (31 * j)) 31).map fun a => (j, a)

/-- The state after the loads' and after the stores' checks. -/
@[irreducible] def v4l : State := lanesLeft .load (laneBits v4) v4
@[irreducible] def v4s : State := lanesLeft .store (laneBits v4) v4
def fieldOf (j : Nat) : Nat := natOfBytes ((laneWords fields j).flatMap fun w => v4l.view w.2.pa 4)
theorem v4lanes : lanesAt .load (laneBits v4) v4 = .ok (fields, v4l) ∧ lanesAt .store (laneBits v4) v4 = .ok (fields, v4s) := by
  unfold v4l v4s; exact ⟨lanesAre (met (by decide +kernel)), lanesAre (met (by decide +kernel))⟩
theorem v4reads (j : Nat) : loadWords (laneWords fields j) v4l = .ok (fieldOf j, v4l) := lanesRead (met (by decide +kernel)) j

theorem witness_VectorBitFields_load (h : VectorBitFields) : ∃ t, exec (.vldbit 3 true 0 30 1 .f32) v4 = .next t := by
  obtain ⟨V, e, -⟩ := (h v4 v4l v4 3 true 0 30 1 .f32 (8 * 0x900000 + 28) 31 (fun j => 8 * 0x900000 + 28 + BitVec.ofNat 64 (31 * j)) fields fieldOf
    (solo (met (by decide +kernel))) rfl (met (by decide +kernel)) (fun _ => rfl) (met (by decide +kernel))).1 v4lanes.1 (met (by decide +kernel)) (fun j _ _ => v4reads j)
  exact ⟨_, e⟩

theorem witness_VectorBitFields_store (h : VectorBitFields) : ∃ t, exec (.vstbit 1 false 0 30 1 .f32) v4 = .next t :=
  ⟨_, (h v4 v4s _ 1 false 0 30 1 .f32 (8 * 0x900000 + 28) 31 (fun j => 8 * 0x900000 + 28 + BitVec.ofNat 64 (31 * j)) fields fieldOf
    (solo (met (by decide +kernel))) rfl (met (by decide +kernel)) (fun _ => rfl) (met (by decide +kernel))).2 v4lanes.2 (runs (met (by decide +kernel)))⟩

/-- Both active lanes at 0x900000, whose word is 3; they add their lanes of v1. -/
@[irreducible] def v5 : State := v1.poke (2 ^ 48 + 0x100000) [3, 0, 0, 0]
def sameAt : List (Nat × Word) := [(0, 0x900000), (31, 0x900000)]
def same : List Phys := [⟨2 ^ 48 + 0x100000, false, false, true⟩, ⟨2 ^ 48 + 0x100000, false, false, true⟩]

def atomicReady (s : State) (n : Nat) (ps : List Phys) : Bool := ps.all fun p => readyB s p n && !s.failing p.pa n && !(regionOf p.pa == .window)
theorem atomicsReady {s : State} {n : Nat} {ps : List Phys} (h : atomicReady s n ps = true) :
    ∀ p ∈ ps, Ready s p n ∧ s.failing p.pa n = false ∧ ¬(s.ctx.phase = 1 ∧ p.own = false ∧ regionOf p.pa = .window) ∧
      ¬(regionOf p.pa = .window ∧ windowCore p.pa ≠ s.core.id ∧
        ((s.getCore (windowCore p.pa)).computing = true ∨ (s.getCore (windowCore p.pa)).holding = true)) := by
  intro p hp
  have := List.all_eq_true.mp h p hp
  simp only [Bool.and_eq_true, Bool.not_eq_true'] at this
  have w : regionOf p.pa ≠ .window := by simpa using this.2
  exact ⟨ready this.1.1, this.1.2, fun c => w c.2.2, fun c => w c.1⟩

theorem witness_VectorAtomicsUpdateMemory (h : VectorAtomicsUpdateMemory) :
    (∃ t, exec (.vaadd 1 1 4 1 .i32) v5 = .next t) ∧ (∃ t, exec (.vamax 2 1 4 1 .i32) v5 = .next t) ∧ ∃ t, exec (.vredadd 2 1 0 1 .i32) v5 = .next t := by
  obtain ⟨V, e, -⟩ := (h v5 v5 _ _ 1 1 4 0 1 .i32 0x900000 4 sameAt same (fun j => if j = 0 then 3 else 0x3F800003) (.int 4) (solo (met (by decide +kernel))) rfl (readsX (met (by decide +kernel)) (met (by decide +kernel))) rfl
    (met (by decide +kernel)) (.inl (met (by decide +kernel))) (goesAll (met (by decide +kernel))) (atomicsReady (met (by decide +kernel)))).1 (met (by decide +kernel)) _ _ (.head _) ⟨(met (by decide +kernel)), (met (by decide +kernel)), rfl⟩
  obtain ⟨W, f, -⟩ := (h v5 v5 _ _ 2 1 4 0 1 .i32 0x900000 4 sameAt same (fun _ => 3) (.int 4) (solo (met (by decide +kernel))) rfl (readsX (met (by decide +kernel)) (met (by decide +kernel))) rfl
    (met (by decide +kernel)) (.inl (met (by decide +kernel))) (goesAll (met (by decide +kernel))) (atomicsReady (met (by decide +kernel)))).1 (met (by decide +kernel)) _ _ (.tail _ (.tail _ (.head _))) ⟨(met (by decide +kernel)), (met (by decide +kernel)), rfl⟩
  exact ⟨⟨_, e⟩, ⟨_, f⟩, ⟨_, (h v5 v5 _ _ 2 1 4 0 1 .i32 0x900000 4 pooled pooledAt (fun j => if j = 0 then 3 else 0) (.int 4) (solo (met (by decide +kernel))) rfl (readsX (met (by decide +kernel)) (met (by decide +kernel))) rfl
    (met (by decide +kernel)) (.inl (met (by decide +kernel))) (goesAll (met (by decide +kernel))) (atomicsReady (met (by decide +kernel)))).2 (met (by decide +kernel)) ⟨(met (by decide +kernel)), (met (by decide +kernel)), rfl⟩⟩⟩

end Sys2Proof.Tests
end

