-- ==== Sys2Proof/Tests/Witness8.lean ====
section
/-! SUPPORT. Witnesses: the matrix unit. -/

-- One theorem after the other: elaborating many at once needs more threads than the memory limit holds.
set_option Elab.async false

open Sys2Proof Sys2Proof.Machine Sys2Proof.Statements

namespace Sys2Proof.Tests

/-! ## Tile registers -/

/-- t1 holds 1.0 in element (0, 0), t2 a signalling NaN; t1's flags are SO, t2's all with an address. x1 and x2 point into
local memory, x3 into the pool, x4 is a stride of 192, x5 to scales. -/
@[irreducible] def t1' : State :=
  (withX [(1, 0x1000), (2, 0x2000), (3, 0x900000), (4, 192), (5, 0x3000)] base).mapCtx fun k => { k with
    t := (k.t.set 1 ((Vector.replicate 16 0).set 0 0x3F800000)).set 2 ((Vector.replicate 16 0).set 15 (BitVec.ofNat 1024 (0x7F800001 * 2 ^ 992)))
    tf := (k.tf.set 1 ⟨32, 0⟩).set 2 ⟨63, 77⟩ }
@[irreducible] def t2' : State := t1'.mapCtx fun k => { k with status := (4 : BitVec 9) <<< 3 + 2 }

theorem tileTaken {i : Instr} {s s1 : State} {d : BitVec 3} {seed : Word} {f : Nat → Nat → Nat} {fl : TileFlags} (h : TakesTile i s s1 d seed f fl) :
    ∃ u, exec i s = .next u := by
  obtain ⟨V, e, -⟩ := h; exact ⟨_, e⟩

theorem witness_TileRegisterResults (h : TileRegisterResults) :
    (∃ t, exec (.madd 7 1 2 false) t2' = .next t) ∧ ∃ t, exec (.mxpose 1 1 2 true) t1' = .next t :=
  ⟨tileTaken (h t2' 7 1 2 true _ _ _ _ (solo (met (by decide +kernel))) rfl rfl rfl (fun _ _ => rfl)).2.2.2.1,
   tileTaken (h t1' 1 1 2 true _ _ _ _ (solo (met (by decide +kernel))) rfl rfl rfl (fun _ _ => rfl)).2.2.2.2⟩

theorem witness_TileBranches (h : TileBranches) :
    exec (.bts 1 32 false 8191) t1' = .next (retire t1' t1' (if true ≠ false then { target := some (t1'.ctx.iaddr + BitVec.ofInt 64 ((8191 : BitVec 14).toInt * 4)), branch := true } else {})) :=
  h t1' 1 32 false 8191 true (solo (met (by decide +kernel))) (met (by decide +kernel))

/-! ## How the hypotheses about places are met -/

theorem modesFwd {rs : List (Word × Nat)} {places : List (List Piece)} {s : State} (h : s.ctx.diffMode = .fwd) :
    matModes rs places s = .ok ((), s) := by
  unfold matModes revCheck
  show Except.bind ((if s.ctx.diffMode == DiffMode.rev && !s.ctx.modPrimal then
    match lowestRegion s.ctx.regions rs with | some a => trap 0x12 (BitVec.ofNat 64 a) | none => pure () else pure () : M Unit) s) _ = _
  rw [h]
  show (if s.ctx.diffMode != DiffMode.fwd && !s.ctx.modPrimal then _ else pure () : M Unit) s = _
  rw [h]; rfl

def bytesOfPieces (s : State) (ps : List Piece) : List Byte := ps.flatMap fun q => s.view q.p.pa q.n
def piecesReady (s : State) (ps : List Piece) : Bool :=
  (ps.all fun q => regionOf q.p.pa != .fabric && !s.inStep q.p.pa q.n && !s.failing q.p.pa q.n) && s.failIn ps == none
theorem piecesRead {s : State} {ps : List Piece} (h : piecesReady s ps = true) : readRange ps s = .ok (.ok (bytesOfPieces s ps), s) := by
  unfold piecesReady at h
  rw [Bool.and_eq_true] at h
  refine Laws.readRange_readable (fun q hq => ?_) (by simpa using h.2)
  have := List.all_eq_true.mp h.1 q hq
  simp at this
  exact ⟨this.1.1, this.1.2, this.2⟩

def scalesOf (s : State) (q : Piece) : List (Option Byte) :=
  (List.range q.n).map fun i => if s.failing (q.p.pa + i) 1 then none else some (s.viewByte (canon (q.p.pa + i)))
theorem scalesAre {q : Piece} {s : State} {v : List (Option Byte)} {o : Option Word} (h : readyB s q.p q.n = true) (g : s.failAddr q.va q.p q.n = o)
    (e : scalesOf s q = v) : scaleBytes [q] s = .ok ((v, o), s) := by
  have r := ready h
  subst e g
  exact Laws.scaleBytes_local r.2.1 r.2.2

theorem forallIn {α : Type} {P : α → Prop} [DecidablePred P] {l : List α} (h : (l.all fun a => decide (P a)) = true) : ∀ a ∈ l, P a :=
  fun a ha => of_decide_eq_true (List.all_eq_true.mp h a ha)

/-- Rows of n bytes in local memory, from an address, with a stride. -/
def localRows (base n stride count : Nat) : List (List Piece) :=
  (List.range count).map fun i => [⟨BitVec.ofNat 64 (base + stride * i), n, ⟨2 ^ 49 + base + stride * i, true, true, false⟩⟩]
def rowsOf (base stride : Word) : List Word := (List.range 16).map fun i => base + BitVec.ofNat 64 i * stride

/-! ## Tiles in memory -/

@[irreducible] def t3' : State := ran (matPlaces .load ((rowsOf 0x1000 192).map fun p => (p, 128))) t1'

theorem witness_TilesMoveToAndFromMemory_mld (h : TilesMoveToAndFromMemory) : ∃ t, exec (.mld 1 (.x 1) (.x 4) false) t1' = .next t := by
  obtain ⟨T, u, e, -⟩ := (h t1' t1' t1' t3' t1' 1 2 (.x 1) (.x 4) false false 0x1000 192 192 128 (rowsOf 0x1000 192)
    (localRows 0x1000 128 192 16) (fun i => .ok (bytesOfPieces t3' ((localRows 0x1000 128 192 16).getD i [])))
    (solo (met (by decide +kernel))) (readsX (met (by decide +kernel)) (met (by decide +kernel))) (readsX (met (by decide +kernel)) (met (by decide +kernel))) rfl (.inr (met (by decide +kernel))) (met (by decide +kernel))).1 rfl (forallIn (met (by decide +kernel))) (by unfold t3'; exact runs (met (by decide +kernel))) (modesFwd (met (by decide +kernel)))
    (fun i hi => piecesRead ((by decide +kernel : ∀ i, i < 16 → piecesReady t3' ((localRows 0x1000 128 192 16).getD i []) = true) i hi))
  exact ⟨_, e⟩

/-- Row 3 meets an uncorrectable error in its last bytes. -/
@[irreducible] def t6' : State := { t1' with bad := [(2 ^ 49 + 0x1000 + 3 * 192 + 120) / 8] }
@[irreducible] def t7' : State := ran (matPlaces .load ((rowsOf 0x1000 192).map fun p => (p, 128))) t6'
def rowGot (i : Nat) : Except Word (List Byte) :=
  if i = 3 then .error (0x1000 + 3 * 192 + 120) else .ok (bytesOfPieces t7' ((localRows 0x1000 128 192 16).getD i []))
theorem rowGets (i : Nat) (hi : i < 16) : readRange ((localRows 0x1000 128 192 16).getD i []) t7' = .ok (rowGot i, t7') := by
  unfold rowGot
  split
  · next e => subst e; exact Laws.readRange_failing (met (by decide +kernel))
  · next e => exact piecesRead ((by decide +kernel : ∀ i, i < 16 → i ≠ 3 → piecesReady t7' ((localRows 0x1000 128 192 16).getD i []) = true) i hi e)

theorem witness_TilesMoveToAndFromMemory_mldError (h : TilesMoveToAndFromMemory) : ∃ t, exec (.mld 1 (.x 1) (.x 4) false) t6' = .next t := by
  obtain ⟨T, u, e, -⟩ := (h t6' t6' t6' t7' t6' 1 2 (.x 1) (.x 4) false false 0x1000 192 192 128 (rowsOf 0x1000 192)
    (localRows 0x1000 128 192 16) rowGot (solo (met (by decide +kernel))) (readsX (met (by decide +kernel)) (met (by decide +kernel))) (readsX (met (by decide +kernel)) (met (by decide +kernel))) rfl (.inr (met (by decide +kernel))) (met (by decide +kernel))).1 rfl (forallIn (met (by decide +kernel))) (by unfold t7'; exact runs (met (by decide +kernel))) (modesFwd (met (by decide +kernel))) rowGets
  exact ⟨_, e⟩

/-- v2 skips every row of a scatter but the last, which goes to place 3. -/
@[irreducible] def t4' : State := t2'.mapCtx fun k => { k with v := k.v.set 2 (BitVec.ofNat 1024 (2 ^ 240 - 1 + 3 * 2 ^ 240)) }
def scatterAt : List (List Piece) := [[⟨0x1240, 64, ⟨2 ^ 49 + 0x1240, true, true, false⟩⟩], [⟨0xFFC, 4, ⟨2 ^ 49 + 0xFFC, true, true, false⟩⟩]]
@[irreducible] def t5' : State := ran (matPlaces .store [(0x1240, 64), (0xFFC, 4)]) t4'

theorem witness_TilesMoveToAndFromMemory_mst (h : TilesMoveToAndFromMemory) : ∃ t, exec (.mst 2 2 (.x 1) (.x 4) true true) t4' = .next t := by
  obtain ⟨u, e, -⟩ := (h t4' t4' t4' t5' (ran (writeRows scatterAt _) _) 2 2 (.x 1) (.x 4) true true 0x1000 192 192 64 [0x1240]
    scatterAt (fun _ => .ok []) (solo (met (by decide +kernel))) (readsX (met (by decide +kernel)) (met (by decide +kernel))) (readsX (met (by decide +kernel)) (met (by decide +kernel))) rfl (.inr (met (by decide +kernel))) (met (by decide +kernel))).2 [15] _ _ _ 0xFFC (met (by decide +kernel)) (met (by decide +kernel)) (met (by decide +kernel)) rfl (fun _ _ => rfl) rfl (forallIn (met (by decide +kernel))) (met (by decide +kernel))
    (by unfold t5'; exact runs (met (by decide +kernel))) (modesFwd (met (by decide +kernel))) (runs (met (by decide +kernel)))
  exact ⟨_, e⟩

/-! ## Weights and codebooks -/

/-- No interruption point lies between two units. -/
theorem between {c : Bool} {start stop : Nat} (h : ∀ u, u < stop → start < u → u % 16 ≠ 0) : c = true → ∀ u, start < u → u < stop → u % 16 ≠ 0 :=
  fun _ u a b => h u b a

/-- Units of 128 bytes from an address of local memory. -/
def unitsAt (base n : Nat) : List (Word × Nat) := (List.range n).map fun u => (BitVec.ofNat 64 (base + 128 * u), 128)
/-- The lines of the first 16 units from 0x4000 on are full; the context has a swap due. -/
@[irreducible] def w0' : State := (t1'.mapCtx fun k => k.writeX 7 0x4000).mapFocus fun c => { c with full := BitVec.ofNat 384 (2 ^ 144 - 2 ^ 128) }
@[irreducible] def w0i : State := w0'.mapFocus fun c => { c with countdown := some 50 }
/-- 16 units are done, the context's; all lines are full. -/
@[irreducible] def w0r : State := (w0'.mapCtx fun k => { k with mseq := 0xC10 }).mapFocus fun c => { c with
  full := BitVec.allOnes 384, wbuf := Vector.replicate 128 ⟨0, some c.front.ctxid, 0⟩ }
/-- Unit 1 meets an uncorrectable error. -/
@[irreducible] def w0e : State := { w0' with bad := [(2 ^ 49 + 0x4080) / 8] }
@[irreducible] def placedAt (rs : List (Word × Nat)) (s : State) : State := ran (matPlaces .load rs) s
theorem arePlaced {rs : List (Word × Nat)} {s : State} {v : List (List Piece)} (h : okVal (matPlaces .load rs s) = some v) :
    matPlaces .load rs s = .ok (v, placedAt rs s) := by unfold placedAt; exact runs h
def poolUnits : List (List Piece) := [[⟨0x900000, 128, ⟨2 ^ 48 + 0x100000, false, false, true⟩⟩], [⟨0x900080, 128, ⟨2 ^ 48 + 0x100080, false, false, true⟩⟩]]

theorem witness_WeightsLoad_whole (h : WeightsLoad) : ∃ t, exec (.mldw (.x 3) 126 1) t1' = .next t := by
  obtain ⟨t, e, -⟩ := (h t1' t1' _ (.x 3) 126 1 0x900000 poolUnits (fun i => bytesOfPieces (placedAt [(0x900000, 128), (0x900080, 128)] t1') (poolUnits.getD i []))
    [(0x900000, 128), (0x900080, 128)] 0 2
    (solo (met (by decide +kernel))) (readsX (met (by decide +kernel)) (met (by decide +kernel))) (met (by decide +kernel)) (met (by decide +kernel)) (met (by decide +kernel)) (arePlaced (met (by decide +kernel))) (modesFwd (met (by decide +kernel))) (.inl ⟨(met (by decide +kernel)), rfl⟩) (met (by decide +kernel)) (between (met (by decide +kernel)))
    (fun u _ hu _ => ⟨piecesRead ((by decide +kernel : ∀ u, u < 2 → piecesReady (placedAt [(0x900000, 128), (0x900080, 128)] t1') (poolUnits.getD u []) = true) u hu),
      (by decide +kernel : ∀ u, u < 2 → (placedAt [(0x900000, 128), (0x900080, 128)] t1').core.unitReady (poolUnits.getD u []) = true) u hu⟩)).1 rfl
  exact ⟨t, e⟩

/-- Of 17 units the first 16 can be read: where it waits, and where it is interrupted; then the last from MSEQ on. -/
theorem unitsRead {s : State} {n : Nat} (h : ∀ u, u < n → piecesReady s ((localRows 0x4000 128 128 17).getD u []) = true ∧
      s.core.unitReady ((localRows 0x4000 128 128 17).getD u []) = true) (start : Nat) :
    ∀ u, start ≤ u → u < n → u ≤ (16 : BitVec 7).toNat → readRange ((localRows 0x4000 128 128 17).getD u []) s =
      .ok (.ok (bytesOfPieces s ((localRows 0x4000 128 128 17).getD u [])), s) ∧ s.core.unitReady ((localRows 0x4000 128 128 17).getD u []) = true :=
  fun u _ hu _ => ⟨piecesRead (h u hu).1, (h u hu).2⟩

theorem witness_WeightsLoad_waits (h : WeightsLoad) :
    (∃ t, exec (.mldw (.x 7) 0 16) w0' = .next t) ∧ ∃ t, exec (.mldw (.x 7) 0 16) w0i = .next t := by
  obtain ⟨t, e, -⟩ := (h w0' w0' _ (.x 7) 0 16 0x4000 (localRows 0x4000 128 128 17) (fun u => bytesOfPieces (placedAt (unitsAt 0x4000 17) w0') ((localRows 0x4000 128 128 17).getD u []))
    (unitsAt 0x4000 17) 0 16 (solo (met (by decide +kernel))) (readsX (met (by decide +kernel)) (met (by decide +kernel))) (met (by decide +kernel)) (met (by decide +kernel)) (met (by decide +kernel)) (arePlaced (met (by decide +kernel))) (modesFwd (met (by decide +kernel))) (.inl ⟨(met (by decide +kernel)), rfl⟩) (met (by decide +kernel)) (between (met (by decide +kernel))) (unitsRead (met (by decide +kernel)) 0)).2.1 (met (by decide +kernel)) (.inr ⟨(met (by decide +kernel)), (met (by decide +kernel))⟩)
  obtain ⟨u, f, -⟩ := (h w0i w0i _ (.x 7) 0 16 0x4000 (localRows 0x4000 128 128 17) (fun u => bytesOfPieces (placedAt (unitsAt 0x4000 17) w0i) ((localRows 0x4000 128 128 17).getD u []))
    (unitsAt 0x4000 17) 0 16 (solo (met (by decide +kernel))) (readsX (met (by decide +kernel)) (met (by decide +kernel))) (met (by decide +kernel)) (met (by decide +kernel)) (met (by decide +kernel)) (arePlaced (met (by decide +kernel))) (modesFwd (met (by decide +kernel))) (.inl ⟨(met (by decide +kernel)), rfl⟩) (met (by decide +kernel)) (between (met (by decide +kernel))) (unitsRead (met (by decide +kernel)) 0)).2.1 (met (by decide +kernel)) (.inl ⟨(met (by decide +kernel)), (met (by decide +kernel)), (met (by decide +kernel))⟩)
  exact ⟨⟨t, e⟩, ⟨u, f⟩⟩

theorem witness_WeightsLoad_resumes (h : WeightsLoad) : ∃ t, exec (.mldw (.x 7) 0 16) w0r = .next t := by
  obtain ⟨t, e, -⟩ := (h w0r w0r _ (.x 7) 0 16 0x4000 (localRows 0x4000 128 128 17) (fun u => bytesOfPieces (placedAt (unitsAt 0x4000 17) w0r) ((localRows 0x4000 128 128 17).getD u []))
    (unitsAt 0x4000 17) 16 17 (solo (met (by decide +kernel))) (readsX (met (by decide +kernel)) (met (by decide +kernel))) (met (by decide +kernel)) (met (by decide +kernel)) (met (by decide +kernel)) (arePlaced (met (by decide +kernel))) (modesFwd (met (by decide +kernel))) (.inr (met (by decide +kernel))) (met (by decide +kernel)) (between (met (by decide +kernel))) (unitsRead (met (by decide +kernel)) 16)).1 rfl
  exact ⟨t, e⟩

theorem witness_WeightsLoad_error (h : WeightsLoad) : ∃ t, exec (.mldw (.x 7) 0 16) w0e = .next t := by
  obtain ⟨t, e, -⟩ := (h w0e w0e _ (.x 7) 0 16 0x4000 (localRows 0x4000 128 128 17) (fun u => bytesOfPieces (placedAt (unitsAt 0x4000 17) w0e) ((localRows 0x4000 128 128 17).getD u []))
    (unitsAt 0x4000 17) 0 1 (solo (met (by decide +kernel))) (readsX (met (by decide +kernel)) (met (by decide +kernel))) (met (by decide +kernel)) (met (by decide +kernel)) (met (by decide +kernel)) (arePlaced (met (by decide +kernel))) (modesFwd (met (by decide +kernel))) (.inl ⟨(met (by decide +kernel)), rfl⟩) (met (by decide +kernel)) (between (met (by decide +kernel))) (unitsRead (met (by decide +kernel)) 0)).2.2 0x4080 (met (by decide +kernel)) (met (by decide +kernel)) (met (by decide +kernel)) (Laws.readRange_failing (met (by decide +kernel)))
  exact ⟨t, e⟩

def codebookAt : List (List Piece) := [[⟨0x900000, 1024, ⟨2 ^ 48 + 0x100000, false, false, true⟩⟩]]
/-- The table meets an uncorrectable error in its last byte. -/
@[irreducible] def w3e : State := { t1' with bad := [(2 ^ 48 + 0x1003FF) / 8] }

theorem witness_CodebooksLoad (h : CodebooksLoad) : (∃ t, exec (.mcb (.x 3)) t1' = .next t) ∧ ∃ t, exec (.mcb (.x 3)) w3e = .next t := by
  obtain ⟨t, e, -⟩ := (h t1' t1' _ (.x 3) 0x900000 codebookAt _ 0 (solo (met (by decide +kernel))) (readsX (met (by decide +kernel)) (met (by decide +kernel))) (met (by decide +kernel)) (arePlaced (met (by decide +kernel))) (modesFwd (met (by decide +kernel)))).1 (piecesRead (met (by decide +kernel)))
  obtain ⟨u, f, -⟩ := (h w3e w3e _ (.x 3) 0x900000 codebookAt [] 0x9003F8 (solo (met (by decide +kernel))) (readsX (met (by decide +kernel)) (met (by decide +kernel))) (met (by decide +kernel)) (arePlaced (met (by decide +kernel))) (modesFwd (met (by decide +kernel)))).2 (Laws.readRange_failing (met (by decide +kernel)))
  exact ⟨⟨t, e⟩, ⟨u, f⟩⟩

/-! ## Products -/

/-- Every unit is the context's, and holds the positions 0, 1, 2, 3 over and over; every line of A is full. -/
@[irreducible] def p1' : State := t1'.mapFocus fun c => { c with
  wbuf := Vector.replicate 128 ⟨BitVec.ofNat 1024 (0x3210 * ((2 ^ 1024 - 1) / (2 ^ 16 - 1))), some c.front.ctxid, 0⟩
  full := BitVec.ofNat 384 (2 ^ 48 - 2 ^ 32) }
/-- No line is full; or unit 1 is nobody's; or the swap is due. -/
@[irreducible] def p2' : State := p1'.mapFocus fun c => { c with full := 0 }
@[irreducible] def p3' : State := p1'.mapFocus fun c => { c with wbuf := c.wbuf.set 1 default }
@[irreducible] def p4' : State := p1'.mapFocus fun c => { c with countdown := some 50 }
/-- An MM of 32 steps has done 16 of them. -/
@[irreducible] def p5' : State := (p1'.mapFocus fun c => { c with countdown := some 50 }).mapCtx fun k => { k with mseq := 0x910, sums := List.replicate 1025 0 }
/-- Line 32 alone is full; every row starts 96 bytes into it. -/
@[irreducible] def p6' : State := (p1'.mapFocus fun c => { c with full := BitVec.ofNat 384 (2 ^ 32) }).mapCtx fun k => { k with
  v := k.v.set 3 (BitVec.ofNat 1024 (2 * ((2 ^ 1024 - 1) / (2 ^ 16 - 1)))) }
def rowsA (n : Nat) : List Word := (List.range 16).map fun r => 0x1000 + BitVec.ofNat 64 (r * n)
def rowsSame (base : Word) : List Word := (List.range 16).map fun _ => base

/-- The accumulators of t1 and +0. -/
def fromTile (s : State) (r j : Nat) : Chains := ⟨elem (s.ctx.t.get (1 : BitVec 3).toFin) r j, 0, ⟨false, false, false, false⟩⟩
/-- The partial sums. -/
def fromSums (s : State) (r j : Nat) : Chains :=
  ⟨(s.ctx.sums.getD (32 * r + j) 0).toNat, (s.ctx.sums.getD (512 + 32 * r + j) 0).toNat, ⟨false, false, false, false⟩⟩
theorem afresh {s : State} {kind : BitVec 3} {k : Nat} (h : s.ctx.mseq = 0) : Begins s 1 kind k 0 (fromTile s) [] := .inl ⟨h, rfl, rfl, fun _ _ => rfl⟩

/-- The lines are full that the steps of the rows read. -/
theorem linesFull {s : State} {f : Pair} {as : List Word} {start stop : Nat}
    (h : (as.all fun a => (List.range stop).all fun j => decide (j < start) || stepReady s f a j) = true) :
    ∀ p ∈ as, ∀ j, start ≤ j → j < stop → stepReady s f p j = true := by
  intro p hp j hj hs
  have := List.all_eq_true.mp (List.all_eq_true.mp h p hp) j (List.mem_range.mpr hs)
  simpa [Nat.not_lt.mpr hj] using this

theorem witness_ProductsAccumulate_mm (h : ProductsAccumulate) : ∃ t, exec (.mm 1 (.x 1) 120 .k32 .e4m3_e5m2) p1' = .next t :=
  tileTaken ((h p1' p1' _ 1 (.x 1) 120 .k32 .e4m3_e5m2 0x1000 _ (.mm 1 (.x 1) 120 .k32 .e4m3_e5m2) 1 (rowsA 32) _
    (localRows 0x1000 32 32 16) 32 0 _ _ _ (solo (met (by decide +kernel))) (readsX (met (by decide +kernel)) (met (by decide +kernel))) (met (by decide +kernel)) (met (by decide +kernel)) (.inl ⟨rfl, rfl, rfl, rfl⟩) rfl (arePlaced (met (by decide +kernel))) (forallIn (met (by decide +kernel))) (modesFwd (met (by decide +kernel))) (met (by decide +kernel)) (fun e => absurd e (met (by decide +kernel)))
    (met (by decide +kernel)) (afresh (met (by decide +kernel)))).1 (linesFull (met (by decide +kernel))) (.inl (met (by decide +kernel))) (met (by decide +kernel)) (forallIn (met (by decide +kernel))) (met (by decide +kernel)) (fun _ _ => rfl))

theorem witness_ProductsAccumulate_mms (h : ProductsAccumulate) : ∃ t, exec (.mms 1 (.x 1) 0 .k48 .i8_i8 false) p1' = .next t :=
  tileTaken ((h p1' p1' _ 1 (.x 1) 0 .k48 .i8_i8 0x1000 _ (.mms 1 (.x 1) 0 .k48 .i8_i8 false) 2 (rowsA 48) _
    (localRows 0x1000 48 48 16) 48 0 _ _ _ (solo (met (by decide +kernel))) (readsX (met (by decide +kernel)) (met (by decide +kernel))) (met (by decide +kernel)) (met (by decide +kernel)) (.inr (.inl ⟨false, rfl, rfl, rfl, rfl⟩)) rfl (arePlaced (met (by decide +kernel))) (forallIn (met (by decide +kernel))) (modesFwd (met (by decide +kernel))) (met (by decide +kernel))
    (fun e => absurd e (met (by decide +kernel))) (met (by decide +kernel)) (afresh (met (by decide +kernel)))).1 (linesFull (met (by decide +kernel))) (.inl (met (by decide +kernel))) (met (by decide +kernel)) (forallIn (met (by decide +kernel))) (met (by decide +kernel)) (fun _ _ => rfl))

theorem witness_ProductsAccumulate_mmg (h : ProductsAccumulate) : ∃ t, exec (.mmg 1 (.x 1) 0 .k32 .bf16_bf16 3) p1' = .next t :=
  tileTaken ((h p1' p1' _ 1 (.x 1) 0 .k32 .bf16_bf16 0x1000 _ (.mmg 1 (.x 1) 0 .k32 .bf16_bf16 3) 3 (rowsSame 0x1000) _
    (localRows 0x1000 64 0 16) 64 0 _ _ _ (solo (met (by decide +kernel))) (readsX (met (by decide +kernel)) (met (by decide +kernel))) (met (by decide +kernel)) (met (by decide +kernel)) (.inr (.inr ⟨3, rfl, rfl, rfl, (met (by decide +kernel))⟩)) rfl (arePlaced (met (by decide +kernel))) (forallIn (met (by decide +kernel))) (modesFwd (met (by decide +kernel))) (met (by decide +kernel))
    (fun e => absurd e (met (by decide +kernel))) (met (by decide +kernel)) (afresh (met (by decide +kernel)))).1 (linesFull (met (by decide +kernel))) (.inl (met (by decide +kernel))) (met (by decide +kernel)) (forallIn (met (by decide +kernel))) (met (by decide +kernel)) (fun _ _ => rfl))

/-- From the partial sums, though a swap may be due: the last stretch is 16 steps. -/
theorem witness_ProductsAccumulate_resumes (h : ProductsAccumulate) : ∃ t, exec (.mm 1 (.x 1) 120 .k32 .e4m3_e5m2) p5' = .next t :=
  tileTaken ((h p5' p5' _ 1 (.x 1) 120 .k32 .e4m3_e5m2 0x1000 _ (.mm 1 (.x 1) 120 .k32 .e4m3_e5m2) 1 (rowsA 32) _
    (localRows 0x1000 32 32 16) 32 16 (fromSums p5') _ _ (solo (met (by decide +kernel))) (readsX (met (by decide +kernel)) (met (by decide +kernel))) (met (by decide +kernel)) (met (by decide +kernel)) (.inl ⟨rfl, rfl, rfl, rfl⟩) rfl (arePlaced (met (by decide +kernel))) (forallIn (met (by decide +kernel))) (modesFwd (met (by decide +kernel))) (met (by decide +kernel))
    (fun e => absurd e (met (by decide +kernel))) (met (by decide +kernel)) (.inr ⟨(met (by decide +kernel)), (met (by decide +kernel)), (met (by decide +kernel)), rfl, fun _ _ => rfl⟩)).1 (linesFull (met (by decide +kernel))) (.inr (met (by decide +kernel))) (met (by decide +kernel)) (forallIn (met (by decide +kernel))) (met (by decide +kernel)) (fun _ _ => rfl))

/-- It waits at its first step; and it keeps 16 steps as a swap is due, and 32 where the row runs into a line that is not full. -/
theorem witness_ProductsAccumulate_waits (h : ProductsAccumulate) :
    (∃ t, exec (.mm 1 (.x 1) 120 .k32 .e4m3_e5m2) p2' = .next t) ∧ (∃ t, exec (.mm 1 (.x 1) 120 .k32 .e4m3_e5m2) p4' = .next t) ∧
    ∃ t, exec (.mmg 1 (.x 1) 0 .k48 .e4m3_e4m3 3) p6' = .next t := by
  obtain ⟨S, a, -⟩ := ((h p4' p4' _ 1 (.x 1) 120 .k32 .e4m3_e5m2 0x1000 _ (.mm 1 (.x 1) 120 .k32 .e4m3_e5m2) 1 (rowsA 32) _
    (localRows 0x1000 32 32 16) 32 0 _ _ (fun _ _ => default) (solo (met (by decide +kernel))) (readsX (met (by decide +kernel)) (met (by decide +kernel))) (met (by decide +kernel)) (met (by decide +kernel)) (.inl ⟨rfl, rfl, rfl, rfl⟩) rfl (arePlaced (met (by decide +kernel))) (forallIn (met (by decide +kernel))) (modesFwd (met (by decide +kernel))) (met (by decide +kernel))
    (fun e => absurd e (met (by decide +kernel))) (met (by decide +kernel)) (afresh (met (by decide +kernel)))).2 16 (met (by decide +kernel)) (met (by decide +kernel)) (linesFull (met (by decide +kernel))) (.inl ⟨(met (by decide +kernel)), rfl⟩)).2 (met (by decide +kernel))
  obtain ⟨U, b, -⟩ := ((h p6' p6' _ 1 (.x 1) 0 .k48 .e4m3_e4m3 0x1000 _ (.mmg 1 (.x 1) 0 .k48 .e4m3_e4m3 3) 3 (rowsSame 0x1060) _
    (localRows 0x1060 48 0 16) 48 0 _ _ (fun _ _ => default) (solo (met (by decide +kernel))) (readsX (met (by decide +kernel)) (met (by decide +kernel))) (met (by decide +kernel)) (met (by decide +kernel)) (.inr (.inr ⟨3, rfl, rfl, rfl, (met (by decide +kernel))⟩)) rfl (arePlaced (met (by decide +kernel))) (forallIn (met (by decide +kernel))) (modesFwd (met (by decide +kernel))) (met (by decide +kernel))
    (fun e => absurd e (met (by decide +kernel))) (met (by decide +kernel)) (afresh (met (by decide +kernel)))).2 32 (met (by decide +kernel)) (met (by decide +kernel)) (linesFull (met (by decide +kernel))) (.inr ⟨⟨0x1060, (met (by decide +kernel)), (met (by decide +kernel))⟩, (met (by decide +kernel))⟩)).2 (met (by decide +kernel))
  exact ⟨⟨_, ((h p2' p2' _ 1 (.x 1) 120 .k32 .e4m3_e5m2 0x1000 _ (.mm 1 (.x 1) 120 .k32 .e4m3_e5m2) 1 (rowsA 32) _
    (localRows 0x1000 32 32 16) 32 0 _ _ (fun _ _ => default) (solo (met (by decide +kernel))) (readsX (met (by decide +kernel)) (met (by decide +kernel))) (met (by decide +kernel)) (met (by decide +kernel)) (.inl ⟨rfl, rfl, rfl, rfl⟩) rfl (arePlaced (met (by decide +kernel))) (forallIn (met (by decide +kernel))) (modesFwd (met (by decide +kernel))) (met (by decide +kernel))
    (fun e => absurd e (met (by decide +kernel))) (met (by decide +kernel)) (afresh (met (by decide +kernel)))).2 0 (met (by decide +kernel)) (met (by decide +kernel)) (linesFull (met (by decide +kernel))) (.inr ⟨⟨0x1000, (met (by decide +kernel)), (met (by decide +kernel))⟩, (met (by decide +kernel))⟩)).1 (met (by decide +kernel))⟩, ⟨_, a⟩, ⟨_, b⟩⟩

theorem witness_ProductsTrap (h : ProductsTrap) : ∃ t, exec (.mm 1 (.x 1) 0 .k32 .e4m3_e5m2) p3' = .next t := by
  obtain ⟨t, e, -⟩ := h p3' p3' _ 1 (.x 1) 0 .k32 .e4m3_e5m2 0x1000 _ (.mm 1 (.x 1) 0 .k32 .e4m3_e5m2) 1 (rowsA 32) _ (localRows 0x1000 32 32 16) 32 1
    (solo (met (by decide +kernel))) (readsX (met (by decide +kernel)) (met (by decide +kernel))) (met (by decide +kernel)) (met (by decide +kernel)) (.inl ⟨rfl, rfl, rfl, rfl⟩) rfl (arePlaced (met (by decide +kernel))) (forallIn (met (by decide +kernel))) (modesFwd (met (by decide +kernel))) (met (by decide +kernel)) (met (by decide +kernel)) (met (by decide +kernel))
  exact ⟨t, e⟩

/-! ## Scales -/

/-- 16 scales 0, 17, …, 255 at 0x3000, and 32 of 127 behind them; x6 = 0x3010. -/
@[irreducible] def q1' : State := withX [(6, 0x3010)] (t1'.poke (2 ^ 49 + 0x3000) ((List.range 16).map (fun i => BitVec.ofNat 8 (i * 17 % 256)) ++ List.replicate 32 127))
/-- The scales of the columns meet an error in their last granule. -/
@[irreducible] def q2' : State := { q1' with bad := [(2 ^ 49 + 0x3028) / 8] }
def scaled (s : State) (d a : BitVec 3) (sa sb : Nat → Option Byte) (i j : Nat) : Nat × Conds :=
  match sa i, sb j with
  | some e, some f =>
    let p := match Fmt.value .fp32 (elem (s.ctx.t.get a.toFin) i j) with
        | .fin sg m x k => Machine.Num.fin sg m (x + e.toNat + f.toNat - 254) k
        | v => v
    if e = 0xFF ∨ f = 0xFF then (0x7FC00000, ⟨true, false, false, false⟩)
    else ((Machine.round .fp32 .nearest false 0 (addN .nearest (Fmt.value .fp32 (elem (s.ctx.t.get d.toFin) i j)) p).1).1,
      (Machine.round .fp32 .nearest false 0 (addN .nearest (Fmt.value .fp32 (elem (s.ctx.t.get d.toFin) i j)) p).1).2.or
        ⟨(addN .nearest (Fmt.value .fp32 (elem (s.ctx.t.get d.toFin) i j)) p).2, false, false, false⟩)
  | _, _ => (0x7FC00000, ⟨false, false, false, false⟩)
theorem scaledSome {s : State} {d a : BitVec 3} {sa sb : Nat → Option Byte} : ∀ i j e f p, sa i = some e → sb j = some f →
    (p = match Fmt.value .fp32 (elem (s.ctx.t.get a.toFin) i j) with
        | .fin sg m x k => Machine.Num.fin sg m (x + e.toNat + f.toNat - 254) k
        | v => v) →
    scaled s d a sa sb i j = if e = 0xFF ∨ f = 0xFF then (0x7FC00000, ⟨true, false, false, false⟩)
        else ((Machine.round .fp32 .nearest false 0 (addN .nearest (Fmt.value .fp32 (elem (s.ctx.t.get d.toFin) i j)) p).1).1,
          (Machine.round .fp32 .nearest false 0 (addN .nearest (Fmt.value .fp32 (elem (s.ctx.t.get d.toFin) i j)) p).1).2.or
            ⟨(addN .nearest (Fmt.value .fp32 (elem (s.ctx.t.get d.toFin) i j)) p).2, false, false, false⟩) := by
  intro i j e f p he hf hp
  subst hp
  unfold scaled; rw [he, hf]
theorem scaledNone {s : State} {d a : BitVec 3} {sa sb : Nat → Option Byte} : ∀ i j, sa i = none ∨ sb j = none →
    scaled s d a sa sb i j = (0x7FC00000, ⟨false, false, false, false⟩) := by
  intro i j h
  unfold scaled
  rcases h with e | e <;> rw [e]
  cases sa i <;> rfl

def scaleA (i : Nat) : Option Byte := some (BitVec.ofNat 8 (i * 17 % 256))
def scaleB (_ : Nat) : Option Byte := some 127
def scaleBad (j : Nat) : Option Byte := if j < 24 then some 127 else none
def scalesAt : List (List Piece) := [[⟨0x3000, 16, ⟨2 ^ 49 + 0x3000, true, true, false⟩⟩], [⟨0x3010, 32, ⟨2 ^ 49 + 0x3010, true, true, false⟩⟩]]

theorem witness_ScalesApply (h : ScalesApply) :
    (∃ t, exec (.mscale 1 2 (.x 5) (.x 6)) q1' = .next t) ∧ ∃ t, exec (.mscale 1 2 (.x 5) (.x 6)) q2' = .next t := by
  obtain ⟨T, u, e, -⟩ := h q1' q1' q1' (placedAt [(0x3000, 16), (0x3010, 32)] q1') _ _ 1 2 (.x 5) (.x 6) 0x3000 0x3010 _ _ scaleA scaleB none none (scaled q1' 1 2 scaleA scaleB)
    (solo (met (by decide +kernel))) (readsX (met (by decide +kernel)) (met (by decide +kernel))) (readsX (met (by decide +kernel)) (met (by decide +kernel))) (arePlaced (v := scalesAt) (met (by decide +kernel))) (modesFwd (met (by decide +kernel))) (scalesAre (met (by decide +kernel)) (met (by decide +kernel)) (met (by decide +kernel))) (scalesAre (met (by decide +kernel)) (met (by decide +kernel)) (met (by decide +kernel))) scaledSome scaledNone
  obtain ⟨U, v, f, -⟩ := h q2' q2' q2' (placedAt [(0x3000, 16), (0x3010, 32)] q2') _ _ 1 2 (.x 5) (.x 6) 0x3000 0x3010 _ _ scaleA scaleBad none (some 0x3028) (scaled q2' 1 2 scaleA scaleBad)
    (solo (met (by decide +kernel))) (readsX (met (by decide +kernel)) (met (by decide +kernel))) (readsX (met (by decide +kernel)) (met (by decide +kernel))) (arePlaced (v := scalesAt) (met (by decide +kernel))) (modesFwd (met (by decide +kernel))) (scalesAre (met (by decide +kernel)) (met (by decide +kernel)) (met (by decide +kernel))) (scalesAre (met (by decide +kernel)) (met (by decide +kernel)) (met (by decide +kernel))) scaledSome scaledNone
  exact ⟨⟨_, e⟩, ⟨_, f⟩⟩

end Sys2Proof.Tests
end

