-- ==== Sys2Proof/Tests/Witness9.lean ====
section
/-! SUPPORT. Witnesses: the end of a strand, hints, tasks, the Work Scheduler, the routing core. -/

-- One theorem after the other: elaborating many at once needs more threads than the memory limit holds.
set_option Elab.async false

open Sys2Proof Sys2Proof.Machine Sys2Proof.Statements

namespace Sys2Proof.Tests

/-! ## Stages and tasks -/

/-- Stage 2 of die 0, whose cores run at KERNEL level: its entry 0x800, clusters 0 to 3, 16 tasks, PARK, its expert table at
0x900000, some tasks and its expert 0. -/
def stg (tasks : Tab Task) (x : Expert) : Stage := ⟨0x800, BitVec.ofNat 64 (3 * 2 ^ 8 + 2 ^ 27), 0, 0x900000, 0, 0, 0, tasks, [(0, 5)], [(0, x)], 7⟩
/-- The same with a stream from slice 1 on at the end of local memory. -/
def strm (tasks : Tab Task) (x : Expert) : Stage :=
  { stg tasks x with conf := BitVec.ofNat 64 (3 * 2 ^ 8 + 2 ^ 18 + 2 ^ 19 + 2 ^ 27), sbuf := 0xBF80 }
/-- The task in slot 0: of generation 4, in a state, with a further count and an expert. -/
def tsk (st : TaskState) (extra : Nat) (e : Option Nat) : Task := ⟨4, st, 9, [], extra, e, 11, 12, [⟨0x20000, 64, true⟩], 0x900100, none⟩
def ref : TaskRef := ⟨0, 2, 0⟩
def gone : Expert := ⟨.absent, []⟩

def withStage (g : Stage) (s : State) : State := s.setDie 0 { s.die 0 with stages := [(2, g)], spawned := 10, assign := [(0, 2), (1, 2)] }
/-- Core 0 runs the task. -/
def running (k : Task) (g : Stage) (s : State) : State := (withStage { g with tasks := [(0, k)] } s).mapCtx fun c => { c with task := some ref }

/-! ## The end of a strand -/

@[irreducible] def y1 : State := base
@[irreducible] def y2 : State := base.mapFocus fun c => { c with shadow := { c.shadow with life := .live, pc := 0x200 } }
@[irreducible] def y3 : State := running (tsk .running 0 none) (stg [] gone) base

theorem answered {s : State} (h : (s.fabric.reqs.any fun q => q.2.who == s.who && q.2.use == .posted) = false) (g : s.ctx.failed = none) : Answered s := ⟨h, g⟩

theorem witness_StrandsEnd (h : StrandsEnd) :
    exec .yield y1 = .next (retire y1 y1 {}) ∧ (∃ t, exec .yield y2 = .next t) ∧ (∃ t, exec .halt y1 = .next t) ∧
    (∃ t, exec .halt y2 = .next t) ∧ ∃ t, exec .halt y3 = .next t := by
  obtain ⟨a, ea, -⟩ := (h y2 ref default default (solo (met (by decide +kernel))) (met (by decide +kernel))).2.1 (met (by decide +kernel)) (met (by decide +kernel)) (met (by decide +kernel)) (met (by decide +kernel))
  obtain ⟨b, eb, -⟩ := ((h y1 ref default default (solo (met (by decide +kernel))) (met (by decide +kernel))).2.2.1 (answered (met (by decide +kernel)) (met (by decide +kernel))) (met (by decide +kernel))).1 (met (by decide +kernel))
  obtain ⟨c, ec, -⟩ := ((h y2 ref default default (solo (met (by decide +kernel))) (met (by decide +kernel))).2.2.1 (answered (met (by decide +kernel)) (met (by decide +kernel))) (met (by decide +kernel))).2 (met (by decide +kernel)) (met (by decide +kernel)) (met (by decide +kernel))
  obtain ⟨d, ed, -⟩ := (h y3 ref _ _ (solo (met (by decide +kernel))) (met (by decide +kernel))).2.2.2 (answered (met (by decide +kernel)) (met (by decide +kernel))) (met (by decide +kernel)) (met (by decide +kernel)) (Option.some_get (met (by decide +kernel))).symm (met (by decide +kernel))
  exact ⟨(h y1 ref default default (solo (met (by decide +kernel))) (met (by decide +kernel))).1 (.inl (met (by decide +kernel))), ⟨a, ea⟩, ⟨b, eb⟩, ⟨c, ec⟩, ⟨d, ed⟩⟩

@[irreducible] def y4 : State := base.mapCtx fun k => { k with hints := [0xFC000000] }
@[irreducible] def y5 : State := base.mapCtx fun k => { k with hints := [0xFC000000, 0xFC000000] }

theorem witness_HintsBind (h : HintsBind) :
    (∃ t, exec (.illegalInstruction 0xFFFFFFFF false) y4 = .next t) ∧ (∃ t, exec (.hintImm 5) y5 = .next t) ∧
    exec (.illegalInstruction 0 true) y1 = .next ((trapBase y1 y1.ctx.pops none).takeTrap 0x02 ((0 : BitVec 32).setWidth 64)) :=
  ⟨⟨_, (h y4 (.illegalInstruction 0xFFFFFFFF false) 0xFFFFFFFF false (solo (met (by decide +kernel)))).1 (.inr (.inr (.inr ⟨rfl, (met (by decide +kernel))⟩)))⟩,
   ⟨_, (h y5 (.hintImm 5) 0 false (solo (met (by decide +kernel)))).1 (.inl ⟨5, rfl⟩)⟩, (h y1 (.hintImm 5) 0 true (solo (met (by decide +kernel)))).2 (met (by decide +kernel))⟩

/-- Two hints of one kind are a misuse; an empty HINT.MOD before TABORT is. -/
theorem witness_HintsAreJudged (h : HintsAreJudged) :
    y5.ctx.hintMisuse .yield ≠ none ∧ acceptsHint .tabort (.hintMod none false false .default) = false :=
  ⟨fun e => absurd (((h.1 y5.ctx .yield).1.mp e).2.1) (met (by decide +kernel)), h.2 (.x 1) (.x 1) (.x 1) 0 false .core .full .fwd .tabort (nth 12 rfl)⟩

/-! ## The task instructions -/

/-- A stage of clusters 0 to 3; and a task of stage 2, with a footprint up to the top of the address space. -/
def stageBytes : List Byte := bytesOfNat 8 0x800 ++ bytesOfNat 8 (3 * 2 ^ 8) ++ List.replicate 48 0
def taskBytes : List Byte :=
  bytesOfNat 8 (2 + 2 ^ 8 + 0xFFFF * 2 ^ 32) ++ bytesOfNat 8 21 ++ bytesOfNat 8 22 ++ List.replicate 8 0 ++
    bytesOfNat 8 (2 ^ 64 - 64) ++ bytesOfNat 8 (64 + 2 ^ 40) ++ List.replicate 48 0
@[irreducible] def z1 : State := withX [(1, 0x900000), (2, 0x900020), (3, 0x900100), (4, 2), (5, 15)]
  ((base.poke (2 ^ 48 + 0x100000) stageBytes).poke (2 ^ 48 + 0x100100) taskBytes)
@[irreducible] def z2 : State := withStage (stg [] gone) z1
@[irreducible] def z3 : State := withStage (stg [(0, tsk .ready 0 none)] gone) z1
/-- All 16 places of the stage are taken. -/
@[irreducible] def z4 : State := withStage (stg ((List.range 16).map fun i => (i, tsk .ready 0 none)) gone) z1

theorem witness_StagesAreDeclared_stdecl (h : StagesAreDeclared) :
    exec (.stdecl (.x 3) (.x 2)) z1 = .next ((trapBase z1 z1.ctx.pops none).takeTrap 0x03 0x900020) ∧
    (∃ t, exec (.stdecl (.x 6) (.x 3)) z1 = .next t) ∧ ∃ t, exec (.stdecl (.x 6) (.x 1)) z2 = .next t :=
  ⟨(h z1 z1 z1 z1 z1 (.x 3) (.x 2) 0x900020 [] 0 default 0 (solo (met (by decide +kernel))) (readsX (met (by decide +kernel)) (met (by decide +kernel)))).1 (met (by decide +kernel)),
   ⟨_, ((h z1 z1 (ran (memLoad 0x900100 64) z1) z1 z1 (.x 6) (.x 3) 0x900100 (taskBytes.take 64) 0 default 0 (solo (met (by decide +kernel))) (readsX (met (by decide +kernel)) (met (by decide +kernel)))).2.1 (met (by decide +kernel)) (runs (met (by decide +kernel)))).1 (met (by decide +kernel))⟩,
   ⟨_, ((h z2 z2 (ran (memLoad 0x900000 64) z2) _ _ (.x 6) (.x 1) 0x900000 stageBytes 0 _ 0 (solo (met (by decide +kernel))) (readsX (met (by decide +kernel)) (met (by decide +kernel)))).2.1 (met (by decide +kernel)) (runs (met (by decide +kernel)))).2 (met (by decide +kernel)) (met (by decide +kernel)) rfl (met (by decide +kernel)) (fun c _ hc =>
     (by decide +kernel : ∀ c, c < 4 → ((ran (memLoad 0x900000 64) z2).cluster ((0 : BitVec 2) ++ BitVec.ofNat 7 c)).xten = (ran (memLoad 0x900000 64) z2).tenant) c (Nat.lt_succ_of_le hc)) (met (by decide +kernel)) (met (by decide +kernel)) (met (by decide +kernel))
     (writesX (v' := 0) rfl (met (by decide +kernel))) (runs (met (by decide +kernel)))⟩⟩

theorem witness_StagesAreDeclared_free (h : StagesAreDeclared) :
    (∃ t, exec (.stdeclFree (.x 4)) z2 = .next t) ∧ exec (.stdeclFree (.x 4)) z3 = .next z3 ∧
    exec (.stdeclFree (.x 5)) z2 = .next ((trapBase z2 z2.ctx.pops none).takeTrap 0x1A 15) :=
  ⟨⟨_, ((h z2 z2 z2 z2 z2 (.x 3) (.x 4) 2 [] 0 (stg [] gone) 0 (solo (met (by decide +kernel))) (readsX (met (by decide +kernel)) (met (by decide +kernel)))).2.2 (met (by decide +kernel))).2.1 (met (by decide +kernel)) (met (by decide +kernel)) (met (by decide +kernel)) (met (by decide +kernel))⟩,
   ((h z3 z3 z3 z3 z3 (.x 3) (.x 4) 2 [] 0 (stg [(0, tsk .ready 0 none)] gone) 0 (solo (met (by decide +kernel))) (readsX (met (by decide +kernel)) (met (by decide +kernel)))).2.2 (met (by decide +kernel))).1 (met (by decide +kernel)) (met (by decide +kernel)) (met (by decide +kernel)) (met (by decide +kernel)),
   ((h z2 z2 z2 z2 z2 (.x 3) (.x 5) 15 [] 0 default 0 (solo (met (by decide +kernel))) (readsX (met (by decide +kernel)) (met (by decide +kernel)))).2.2 (met (by decide +kernel))).2.2 (.inr (.inl (met (by decide +kernel))))⟩

@[irreducible] def z5 : State := ran (memLoad 0x900100 96) z3
def spawned : Task := ⟨0, .ready, 10, [], 0, none, 21, 22, [⟨BitVec.ofNat 64 (2 ^ 64 - 64), 64, true⟩], 0x900100, none⟩
def stg3 : Stage := stg [(0, tsk .ready 0 none)] gone
@[irreducible] def z6 : State :=
  (z5.setDie 0 { z5.die 0 with
    spawned := (z5.die 0).spawned + 1
    stages := (z5.die 0).stages.set 2 { stg3 with
      tasks := stg3.tasks.set 1 ⟨stg3.gens.get 1 0, if ([] : List Nat) = [] ∧ 0 = 0 then .ready else .waiting, (z5.die 0).spawned, [], 0,
        if 0xFFFF = 0xFFFF then none else some 0xFFFF, dwordAt taskBytes 8, dwordAt taskBytes 16, [⟨BitVec.ofNat 64 (2 ^ 64 - 64), 64, true⟩], 0x900100, none⟩
      gens := stg3.gens.set 1 (stg3.gens.get 1 0 + 1) } }).offer 0

theorem witness_TasksAreSpawned_waits (h : TasksAreSpawned) : exec (.tspawn (.x 6) (.x 3)) z4 = .next z4 :=
  ((h z4 z4 (ran (memLoad 0x900100 96) z4) z4 z4 z4 (.x 6) (.x 3) 0x900100 0 taskBytes 0 2 0xFFFF 0 0 _ _ [] (solo (met (by decide +kernel))) (readsX (met (by decide +kernel)) (met (by decide +kernel))) (met (by decide +kernel)) (runs (met (by decide +kernel))) (met (by decide +kernel)) (met (by decide +kernel)) (met (by decide +kernel)) rfl (met (by decide +kernel))).2
    (met (by decide +kernel)) (Option.some_get (met (by decide +kernel))).symm (met (by decide +kernel)) (.inl rfl)).1 (met (by decide +kernel))

/-- The one other task of its die touches none of its bytes. -/
theorem noEarlier (o : Nat) : o ∈ ([] : List Nat) ↔ ∃ g' ∈ (z5.die 0).stages, g'.2.tenant = stg3.tenant ∧ ∃ k ∈ g'.2.tasks, k.2.order = o ∧
    ∃ f ∈ k.2.foots, ∃ f' ∈ [(⟨BitVec.ofNat 64 (2 ^ 64 - 64), 64, true⟩ : Footprint)], (f.write = true ∨ f'.write = true) ∧
      f.base.toNat < f'.base.toNat + f'.len ∧ f'.base.toNat < f.base.toNat + f.len := by
  rw [show (z5.die 0).stages = [(2, stg3)] by decide +kernel]
  constructor
  · intro m; cases m
  · rintro ⟨g', hg, -, k, hk, -, f, hf, f', hf', -, a, b⟩
    cases List.mem_singleton.mp hg; cases List.mem_singleton.mp hk; cases List.mem_singleton.mp hf; cases List.mem_singleton.mp hf'
    exact absurd b (by decide)

@[irreducible] def z7 : State := put (.tspawn (.x 6) (.x 3)) 6 0x201 z6
theorem z7puts : Writes (.tspawn (.x 6) (.x 3)) (.x 6) 0x201 z6 z7 := by unfold z7; exact writesX rfl (met (by decide +kernel))
@[irreducible] def z8 : State := ran (traceCommandVa 0x900100) z7
theorem z8goes : okVal (traceCommandVa 0x900100 z7) = some () := by decide +kernel
theorem z8traces : traceCommandVa 0x900100 z7 = .ok ((), z8) := by unfold z8; exact runs (m := traceCommandVa 0x900100) (s := z7) z8goes

theorem witness_TasksAreSpawned (h : TasksAreSpawned) : ∃ t, exec (.tspawn (.x 6) (.x 3)) z3 = .next t := by
  have k := (h z3 z3 z5 z7 z8 z6 (.x 6) (.x 3) 0x900100 0x201 taskBytes 0 2 0xFFFF 0 1
    stg3 [⟨BitVec.ofNat 64 (2 ^ 64 - 64), 64, true⟩] [] (solo (met (by decide +kernel))) (readsX (met (by decide +kernel)) (met (by decide +kernel))) (met (by decide +kernel)) (by unfold z5; exact runs (met (by decide +kernel))) (met (by decide +kernel)) (met (by decide +kernel)) (met (by decide +kernel)) (met (by decide +kernel)) (met (by decide +kernel))).2 (met (by decide +kernel)) (met (by decide +kernel)) (met (by decide +kernel)) (.inl rfl)
  obtain ⟨p, e, g⟩ := k.2 (met (by decide +kernel)) (met (by decide +kernel)) (met (by decide +kernel)) (met (by decide +kernel)) (met (by decide +kernel)) noEarlier
  have e0 : p = [] := List.eq_nil_iff_forall_not_mem.mpr fun o ho => by cases (e o).mp ho
  subst e0
  exact ⟨_, g (by unfold z6; rfl) z7puts z8traces⟩

end Sys2Proof.Tests
end

