-- ==== Sys2Proof/Tests/Witness10.lean ====
section
/-! SUPPORT. Witnesses: the ends of a task, the Work Scheduler, the routing core. -/

-- One theorem after the other: elaborating many at once needs more threads than the memory limit holds.
set_option Elab.async false

open Sys2Proof Sys2Proof.Machine Sys2Proof.Statements

namespace Sys2Proof.Tests

/-! ## The ends of a task -/

/-- Core 0 runs the task, with a token pending; the same of a DIRECT stage. -/
@[irreducible] def e1' : State := y3.mapCtx fun k => { k with pend := 1 }
@[irreducible] def e2' : State := running (tsk .running 0 none) { stg [] gone with conf := BitVec.ofNat 64 (2 ^ 25) } base

theorem witness_TasksEnd (h : TasksEnd) :
    exec .tabort y1 = .next ((trapBase y1 y1.ctx.pops none).takeTrap 0x1A 0) ∧ exec .tret e1' = .next e1' ∧
    (∃ t, exec .tret y3 = .next t) ∧ exec .tabort e2' = .next ((trapBase e2' e2'.ctx.pops none).takeTrap 0x1A 0x900100) ∧
    ∃ t, exec .tabort y3 = .next t := by
  obtain ⟨a, ea, -⟩ := ((h y3 ref _ _ (solo (met (by decide +kernel)))).2 (met (by decide +kernel)) (Option.some_get (met (by decide +kernel))).symm).2.1 (met (by decide +kernel)) (met (by decide +kernel)) (answered (met (by decide +kernel)) (met (by decide +kernel))) (met (by decide +kernel))
  obtain ⟨b, eb, -⟩ := ((h y3 ref _ _ (solo (met (by decide +kernel)))).2 (met (by decide +kernel)) (Option.some_get (met (by decide +kernel))).symm).2.2.2 (met (by decide +kernel)) (met (by decide +kernel)) (met (by decide +kernel)) (met (by decide +kernel)) (met (by decide +kernel))
  exact ⟨((h y1 ref default default (solo (met (by decide +kernel)))).1 (met (by decide +kernel))).2, ((h e1' ref _ _ (solo (met (by decide +kernel)))).2 (met (by decide +kernel)) (Option.some_get (met (by decide +kernel))).symm).1 (.inl (met (by decide +kernel))), ⟨a, ea⟩,
    ((h e2' ref { stg [(0, tsk .running 0 none)] gone with conf := BitVec.ofNat 64 (2 ^ 25) } (tsk .running 0 none) (solo (met (by decide +kernel)))).2 (met (by decide +kernel)) (met (by decide +kernel))).2.2.1 (.inl (met (by decide +kernel))), ⟨b, eb⟩⟩

/-! ## The Work Scheduler -/

def owner : Who := ⟨0, base.ctx.self⟩

/-- The task is at its commit point with two staged lines of one address. -/
@[irreducible] def c1' : State :=
  (running (tsk .committing 0 none) (stg [] gone) base).mapFocus fun c => { c with
    front := { c.front with life := .draining }
    commit := [⟨c.front.self, 0x1000000000000, 1, List.replicate 64 5⟩, ⟨c.front.self, 0x1000000000000, 3, List.replicate 64 6⟩] }

theorem witness_TasksCommit (h : TasksCommit) : ∃ t, exec .taskCommit (due (.taskCommit c1'.core.id) none c1') = .next t := by
  obtain ⟨t, e, -⟩ := h (due (.taskCommit c1'.core.id) none c1') c1' ref _ _ _ takesDue (by unfold State.Inv; decide +kernel) (met (by decide +kernel)) (met (by decide +kernel)) (Option.some_get (met (by decide +kernel))).symm (met (by decide +kernel)) (met (by decide +kernel)) (met (by decide +kernel)) rfl
  exact ⟨t, e⟩

/-- The task is READY, and core 1 is idle. -/
@[irreducible] def c2' : State := withStage (stg [(0, tsk .ready 0 none)] gone) base

/-- The task asks for expert 0, which is ABSENT; the shadow slot of core 1 is empty, or taken. -/
@[irreducible] def c2x : State := withStage (stg [(0, tsk .ready 0 (some 0))] gone) base
@[irreducible] def c2y : State := c2x.modCore 1 fun c => { c with shadow := { c.shadow with life := .live } }

/-- A core whose contexts run no task takes the one task of its stage. -/
theorem places {s : State} {g : Stage} {k : Task} (a : (s.die 0).assign.find? (1 : CoreId).toNat = some 2)
    (n : (allPlaces.all fun p => match (s.getCore 1).ctxAt p with | some x => x.task == none | none => true) = true)
    (e : s.stageAt 0 (2 : BitVec 4).toNat = some g) (t : g.tasks = [(0, k)]) (r : k.state = .ready) (v : k.avoid ≠ some 1) : Places s 0 2 1 g 0 k := by
  refine ⟨a, fun p x r hp hx => ?_, e, by rw [t]; rfl, by decide, r, v, fun q hq _ => .inl (List.mem_singleton.mp (t ▸ hq))⟩
  have m : p ∈ allPlaces := by
    rcases p with _ | _ | i
    · decide
    · decide
    · clear hp; revert i; decide
  have c := List.all_eq_true.mp n p m
  rw [hp] at c
  simp [hx] at c

theorem witness_TasksArePlaced_runs (h : TasksArePlaced) :
    exec .taskPlacement (due (.taskPlacement 0 2 2) none c2') = .next c2' ∧ ∃ t, exec .taskPlacement (due (.taskPlacement 0 2 1) none c2') = .next t := by
  obtain ⟨t, e, -⟩ := (h (due (.taskPlacement 0 2 1) none c2') c2' 0 2 1 _ (stg [(0, tsk .ready 0 none)] gone) 0 (tsk .ready 0 none) _ 0 gone owner (named (met (by decide +kernel))) takesDue rfl rfl).2.1
    (places (met (by decide +kernel)) (met (by decide +kernel)) (met (by decide +kernel)) rfl rfl (met (by decide +kernel))) (met (by decide +kernel)) rfl
  exact ⟨(h (due (.taskPlacement 0 2 2) none c2') c2' 0 2 2 _ default 0 default _ 0 gone owner (named (met (by decide +kernel))) takesDue rfl rfl).1 (met (by decide +kernel)), ⟨t, e⟩⟩

theorem witness_TasksArePlaced_fills (h : TasksArePlaced) :
    (∃ t, exec .taskPlacement (due (.taskPlacement 0 2 1) none c2x) = .next t) ∧ exec .taskPlacement (due (.taskPlacement 0 2 1) none c2y) = .next c2y := by
  obtain ⟨t, e, -⟩ := ((h (due (.taskPlacement 0 2 1) none c2x) c2x 0 2 1 _ (stg [(0, tsk .ready 0 (some 0))] gone) 0 (tsk .ready 0 (some 0)) _ 0 gone _ (named (met (by decide +kernel))) takesDue rfl rfl).2.2
    (places (met (by decide +kernel)) (met (by decide +kernel)) (met (by decide +kernel)) rfl rfl (met (by decide +kernel))) rfl (met (by decide +kernel)) (met (by decide +kernel)) (met (by decide +kernel)) rfl).2 (met (by decide +kernel)) (met (by decide +kernel))
  exact ⟨⟨t, e⟩, ((h (due (.taskPlacement 0 2 1) none c2y) c2y 0 2 1 _ (stg [(0, tsk .ready 0 (some 0))] gone) 0 (tsk .ready 0 (some 0)) _ 0 gone _ (named (met (by decide +kernel))) takesDue rfl rfl).2.2
    (places (met (by decide +kernel)) (met (by decide +kernel)) (met (by decide +kernel)) rfl rfl (met (by decide +kernel))) rfl (met (by decide +kernel)) (met (by decide +kernel)) (met (by decide +kernel)) rfl).1 (met (by decide +kernel)) (met (by decide +kernel))⟩

@[irreducible] def c3' : State := base.setDie 0 { base.die 0 with stages := [], assign := [(0, 2)] }

theorem witness_CoresAreAssigned (h : CoresAreAssigned) :
    exec .coreAssignment (due (.coreAssignment 0) none c3') = .next (c3'.setDie 0 { c3'.die 0 with assign := [] }) ∧
    ∃ t, exec .coreAssignment (due (.coreAssignment 0) none c2') = .next t := by
  obtain ⟨t, e, -⟩ := (h (due (.coreAssignment 0) none c2') c2' 0 takesDue).2 (met (by decide +kernel)) (met (by decide +kernel)) (met (by decide +kernel)) (met (by decide +kernel))
  exact ⟨(h (due (.coreAssignment 0) none c3') c3' 0 takesDue).1 (met (by decide +kernel)), ⟨t, e⟩⟩

/-! ## Experts -/

/-- Core 0 runs the task, of expert 0, RESIDENT with a pin, or DRAINING, or FILLING; the entry of the expert names 1 slice of
128 bytes, and 2 for a stream. -/
def entryBytes (ns : Nat) : List Byte := bytesOfNat 8 0x2000000 ++ bytesOfNat 8 0xA00000 ++ bytesOfNat 8 (ns + 2 ^ 8) ++ List.replicate 8 0
def expState (st : ExpertState) (ns : Nat) (f : Tab Task → Expert → Stage) : State :=
  running (tsk .filling 0 (some 0)) (f [] ⟨st, [0]⟩) (base.poke (2 ^ 48 + 0x100000) (entryBytes ns))
@[irreducible] def d1 : State := expState .resident 1 stg
@[irreducible] def d2 : State := expState .draining 1 stg
@[irreducible] def d3 : State := expState .filling 1 stg
@[irreducible] def d4 : State := expState .resident 2 strm
@[irreducible] def d5 : State := d4.mapFocus fun c => { c with holding := true }

theorem runEok {α : Type} {m : E α} {s : State} {v : α} (h : okVal (runE m s) = some v) : runE m s = .ok (v, okState (runE m s)) := ok_of_okVal h

@[irreducible] def filled : State :=
  match d3.fillExpert ref (stg [(0, tsk .filling 0 (some 0))] ⟨.filling, [0]⟩) owner 0 with
  | .ok s => s
  | .error _ => State.reset
def isFilled : Bool :=
  match d3.fillExpert ref (stg [(0, tsk .filling 0 (some 0))] ⟨.filling, [0]⟩) owner 0 with
  | .ok _ => true
  | .error _ => false
theorem fills : d3.fillExpert ref (stg [(0, tsk .filling 0 (some 0))] ⟨.filling, [0]⟩) owner 0 = .ok filled := by
  have e : isFilled = true := (met (by decide +kernel))
  unfold isFilled at e; unfold filled
  split at e
  · next m => rw [m]
  · cases e

def mine (st : ExpertState) : Stage := stg [(0, tsk .filling 0 (some 0))] ⟨st, [0]⟩

theorem witness_ExpertsComeAndGo_fill (h : ExpertsComeAndGo) :
    exec .expertFillComplete (due (.expertFillComplete owner) none c2') = .next c2' ∧
    exec .expertFillComplete (due (.expertFillComplete owner) none d2) = .next (due (.expertFillComplete owner) none d2) ∧
    (∃ t, exec .expertFillComplete (due (.expertFillComplete owner) none d1) = .next t) ∧
    exec .expertFillComplete (due (.expertFillComplete owner) none d3) = .next ((filled.pinAll ref 0).readyTask owner ref) := by
  obtain ⟨t, e, -⟩ := (((h (due (.expertFillComplete owner) none d1) d1 d1 owner ref (mine .resident) (tsk .filling 0 (some 0)) 0 0 0 0 0 [] _ [] 0 0).1 takesDue).2 (met (by decide +kernel)) rfl).2.1 (met (by decide +kernel)) (met (by decide +kernel))
  exact ⟨((h (due (.expertFillComplete owner) none c2') c2' c2' owner ref default default 0 0 0 0 0 [] default [] 0 0).1 takesDue).1 (met (by decide +kernel)),
    (((h (due (.expertFillComplete owner) none d2) d2 d2 owner ref (mine .draining) default 0 0 0 0 0 [] _ [] 0 0).1 takesDue).2 (met (by decide +kernel)) rfl).1 (met (by decide +kernel)), ⟨t, e⟩,
    (((h (due (.expertFillComplete owner) none d3) d3 filled owner ref (mine .filling) default 0 0 0 0 0 [] _ [] 0 0).1 takesDue).2 (met (by decide +kernel)) rfl).2.2 (met (by decide +kernel)) (met (by decide +kernel)) fills⟩

def slice1 : E (List Byte × Nat × Nat) := do
  let (src, _, ns, size) ← expertEntry (strm [(0, tsk .filling 0 (some 0))] ⟨.resident, [0]⟩) owner 0
  return (← eRead ((strm [(0, tsk .filling 0 (some 0))] ⟨.resident, [0]⟩).eng owner) (src + BitVec.ofNat 64 (1 * size)) size, ns, size)
@[irreducible] def sliced : State := okState (runE slice1 d4)

theorem witness_ExpertsComeAndGo_stream (h : ExpertsComeAndGo) :
    exec .streamSliceArrival (due (.streamSliceArrival owner 1) none d5) = .next (due (.streamSliceArrival owner 1) none d5) ∧
    exec .streamSliceArrival (due (.streamSliceArrival owner 1) none c2') = .next c2' ∧
    ∃ t, exec .streamSliceArrival (due (.streamSliceArrival owner 1) none d4) = .next t := by
  obtain ⟨F, -, e⟩ := ((h (due (.streamSliceArrival owner 1) none d4) d4 sliced owner ref (strm [(0, tsk .filling 0 (some 0))] ⟨.resident, [0]⟩) default 0 1 2 128 0xBF80
    (List.replicate 128 0) default [] 0 0).2.1 takesDue).2.2 (met (by decide +kernel)) (met (by decide +kernel)) (by unfold sliced; exact runEok (m := slice1) (met (by decide +kernel))) (met (by decide +kernel)) (named (met (by decide +kernel)))
  exact ⟨((h (due (.streamSliceArrival owner 1) none d5) d5 d5 owner ref default default 0 1 0 0 0 [] default [] 0 0).2.1 takesDue).1 (met (by decide +kernel)),
    ((h (due (.streamSliceArrival owner 1) none c2') c2' c2' owner ref default default 0 1 0 0 0 [] default [] 0 0).2.1 takesDue).2.1 (met (by decide +kernel)) (met (by decide +kernel)), ⟨_, e⟩⟩

theorem witness_ExpertsComeAndGo_drained (h : ExpertsComeAndGo) :
    exec .expertDrained (due (.expertDrained 0 3 0) none d2) = .next d2 ∧ exec .expertDrained (due (.expertDrained 0 2 0) none d1) = .next d1 ∧
    ∃ t, exec .expertDrained (due (.expertDrained 0 2 0) none d2) = .next t :=
  ⟨((h (due (.expertDrained 0 3 0) none d2) d2 d2 owner ref default default 0 0 0 0 0 [] default [] 0 3).2.2.1 takesDue).1 (met (by decide +kernel)),
   (((h (due (.expertDrained 0 2 0) none d1) d1 d1 owner ref (mine .resident) default 0 0 0 0 0 [] _ [] 0 2).2.2.1 takesDue).2 (met (by decide +kernel)) rfl).1 (.inl (met (by decide +kernel))),
   ⟨_, (((h (due (.expertDrained 0 2 0) none d2) d2 d2 owner ref (mine .draining) default 0 0 0 0 0 [] _ [] 0 2).2.2.1 takesDue).2 (met (by decide +kernel)) rfl).2 (met (by decide +kernel)) (met (by decide +kernel)) (by
     rw [show d2.due = [] by decide +kernel]; intro y hy; cases hy)⟩⟩

/-- Words of EVICT for expert 0 of stage 2, of stage 3, and of expert 1 of stage 2. -/
def ev (n e : Nat) : List Word := [BitVec.ofNat 64 (2 ^ 60 + 2 ^ 8 * n + e)]

theorem witness_ExpertsComeAndGo_evict (h : ExpertsComeAndGo) :
    (∃ t, exec .evict (due (.evict owner (ev 3 0)) none d1) = .next t) ∧
    exec .evict (due (.evict owner (ev 2 0)) none d2) = .next (due (.evict owner (ev 2 0)) none d2) ∧
    (∃ t, exec .evict (due (.evict owner (ev 2 1)) none d1) = .next t) ∧ ∃ t, exec .evict (due (.evict owner (ev 2 0)) none d1) = .next t :=
  ⟨⟨_, ((h (due (.evict owner (ev 3 0)) none d1) d1 d1 owner ref default default 0 0 0 0 0 [] default (ev 3 0) 0 0).2.2.2 takesDue).1 (met (by decide +kernel))⟩,
   (((h (due (.evict owner (ev 2 0)) none d2) d2 d2 owner ref default default 0 0 0 0 0 [] ⟨.draining, [0]⟩ (ev 2 0) 0 2).2.2.2 takesDue).2 (met (by decide +kernel))).1 rfl,
   ⟨_, (((h (due (.evict owner (ev 2 1)) none d1) d1 d1 owner ref default default 1 0 0 0 0 [] ⟨.absent, []⟩ (ev 2 1) 0 2).2.2.2 takesDue).2 (met (by decide +kernel))).2.1 rfl (met (by decide +kernel))⟩,
   ⟨_, (((h (due (.evict owner (ev 2 0)) none d1) d1 d1 owner ref (mine .resident) default 0 0 0 0 0 [] ⟨.resident, [0]⟩ (ev 2 0) 0 2).2.2.2 takesDue).2 (met (by decide +kernel))).2.2 rfl (met (by decide +kernel))⟩⟩

/-- A task that awaits one count more. -/
@[irreducible] def d6 : State := withStage (stg [(0, tsk .waiting 1 none)] gone) base

theorem witness_CountsAreReleasedAndRead (h : CountsAreReleasedAndRead) :
    (∃ t, exec .trel (due (.trel owner [0x40200]) none d6) = .next t) ∧ (∃ t, exec .trel (due (.trel owner [0x50200]) none d6) = .next t) ∧
    (∃ t, exec .stat (due (.stat owner [2]) none d6) = .next t) ∧ ∃ t, exec .stat (due (.stat owner [15]) none d6) = .next t := by
  obtain ⟨t, e, -⟩ := ((h (due (.trel owner [0x40200]) none d6) d6 owner [0x40200] ref _ _ 0 0 (met (by decide +kernel))).1 takesDue (met (by decide +kernel))).2 (Option.some_get (met (by decide +kernel))).symm (met (by decide +kernel)) (met (by decide +kernel)) (met (by decide +kernel))
  exact ⟨⟨t, e⟩, ⟨_, ((h (due (.trel owner [0x50200]) none d6) d6 owner [0x50200] ref default default 0 0 (met (by decide +kernel))).1 takesDue (met (by decide +kernel))).1
      (.inr ⟨_, _, (Option.some_get (met (by decide +kernel))).symm, .inl (met (by decide +kernel))⟩)⟩,
    ⟨_, ((h (due (.stat owner [2]) none d6) d6 owner [2] ref _ default 0 2 (met (by decide +kernel))).2 takesDue (met (by decide +kernel))).1 (Option.some_get (met (by decide +kernel))).symm (met (by decide +kernel))⟩,
    ⟨_, ((h (due (.stat owner [15]) none d6) d6 owner [15] ref default default 0 15 (met (by decide +kernel))).2 takesDue (met (by decide +kernel))).2 (.inl (met (by decide +kernel)))⟩⟩

/-! ## The routing core -/

/-- A configuration of one expert, with K = C = 1, that spawns to stage 2, its counters, list and homes in the pool; its
homes outside it; and ROUTE of token 7 with logits at 0x900200. -/
def cfgWords (homes : Word) : List Word := [BitVec.ofNat 64 (2 ^ 8 + 2 ^ 12 + 2 ^ 17 + 2 ^ 20), 0x900100, 4, 0x900300, BitVec.ofNat 64 (2 ^ 32), homes]
def cfg1 : RouteCfg := ⟨cfgWords 0x900000, 0, 0⟩
def cfg2 : RouteCfg := ⟨cfgWords 0x700000, 0, 0⟩
def rt : List Word := [7, 0x900200]
/-- What all accesses of the ROUTE gave; and what they gave where the home of the expert does not translate. -/
def gotAll : List RemoteVal := [.data [0x80, 0x3F], .data (List.replicate 8 0), .data [0], .data (List.replicate 8 0), .data []]
def gotFault : List RemoteVal := [.data [0x80, 0x3F], .data (List.replicate 8 0), .fail 0x04]
def routing (c : Option RouteCfg) (got : List RemoteVal) (s : State) : State := withRouting 0 (fun r => { r with cfg := c, got := got, faulted := 0xFFFF }) s
@[irreducible] def r1' : State := routing (some cfg1) [] base
@[irreducible] def r2' : State := routing (some cfg1) gotAll base
@[irreducible] def r3' : State := routing (some cfg2) gotFault base
@[irreducible] def r4' : State := withRouting 0 (fun r => { r with tag := some 3 }) r1'

def rDone (m : R Unit) (got : List RemoteVal) : Option (List RemoteVal) :=
  match m got with
  | .ok (_, p) => some p
  | .error _ => none
theorem rDoneEq {m : R Unit} {got p : List RemoteVal} (h : rDone m got = some p) : m got = .ok ((), p) := by
  unfold rDone at h
  split at h
  · next e => cases h; exact e
  · cases h
def rEnded (m : R Unit) (got : List RemoteVal) : Option (BitVec 8 × Word) :=
  match m got with
  | .error (.ended c v) => some (c, v)
  | _ => none
theorem rEndedEq {m : R Unit} {got : List RemoteVal} {c : BitVec 8} {v : Word} (h : rEnded m got = some (c, v)) : m got = .error (.ended c v) := by
  unfold rEnded at h
  split at h
  · next e => cases h; exact e
  · cases h
def eGot (m : E (List Byte)) (s : State) : Option (List Byte) :=
  match m (s, []) with
  | .ok (b, _) => some b
  | .error _ => none
@[irreducible] def eLeft (m : E (List Byte)) (s : State) : State × List RemoteVal :=
  match m (s, []) with
  | .ok (_, p) => p
  | .error _ => (s, [])
theorem eGotEq {m : E (List Byte)} {s : State} {b : List Byte} (h : eGot m s = some b) : m (s, []) = .ok (b, ((eLeft m s).1, (eLeft m s).2)) := by
  unfold eGot at h; unfold eLeft
  cases e : m (s, []) with
  | ok p => rw [e] at h; cases h; rfl
  | error x => rw [e] at h; cases h

theorem witness_TheRoutingCoreActs_ports (h : Obligations.TheRoutingCoreActs) :
    (∃ t, exec .rcfg (due (.rcfg owner (cfgWords 0)) none r1') = .next t) ∧ (∃ t, exec .rfault (due (.rfault owner [0]) none r1') = .next t) ∧
    ∃ t, exec .rrel (due (.rrel owner [0]) none r1') = .next t :=
  ⟨⟨_, (h (due (.rcfg owner (cfgWords 0)) none r1') r1' r1' owner (cfgWords 0) 0 _ cfg1 _ (met (by decide +kernel)) rfl rfl).1 takesDue
      (by rw [show ((due (.rcfg owner (cfgWords 0)) none r1').die 0).routing.cfg = some cfg1 by decide +kernel]; intro c e; cases e; exact (met (by decide +kernel))) (met (by decide +kernel))⟩,
   ⟨_, (h (due (.rfault owner [0]) none r1') r1' r1' owner [0] 0 _ cfg1 _ (met (by decide +kernel)) rfl rfl).2.1 takesDue⟩,
   ⟨_, (h (due (.rrel owner [0]) none r1') r1' r1' owner [0] 0 _ cfg1 _ (met (by decide +kernel)) rfl rfl).2.2.1 takesDue⟩⟩

theorem witness_TheRoutingCoreActs_route (h : Obligations.TheRoutingCoreActs) :
    (∃ t, exec .route (due (.route owner rt) none base) = .next t) ∧ exec .route (due (.route owner rt) none r4') = .next (due (.route owner rt) none r4') ∧
    (∃ t, exec .route (due (.route owner rt) none r1') = .next t) ∧ (∃ t, exec .route (due (.route owner rt) none r2') = .next t) ∧
    ∃ t, exec .route (due (.route owner rt) none r3') = .next t :=
  ⟨⟨_, ((h (due (.route owner rt) none base) base base owner rt 0 _ cfg1 _ (met (by decide +kernel)) rfl rfl).2.2.2.1 takesDue).1 (met (by decide +kernel))⟩,
   ((h (due (.route owner rt) none r4') r4' r4' owner rt 0 _ cfg1 _ (met (by decide +kernel)) rfl rfl).2.2.2.1 takesDue).2.1 (met (by decide +kernel)) (met (by decide +kernel)),
   ⟨_, ((h (due (.route owner rt) none r1') r1' _ owner rt 0 _ cfg1 _ (met (by decide +kernel)) rfl rfl).2.2.2.1 takesDue).2.2.1 (met (by decide +kernel)) (met (by decide +kernel)) (met (by decide +kernel)) [0, 0] _ (eGotEq (met (by decide +kernel)))⟩,
   ⟨_, ((h (due (.route owner rt) none r2') r2' r2' owner rt 0 _ cfg1 _ (met (by decide +kernel)) rfl rfl).2.2.2.1 takesDue).2.2.2.1 (met (by decide +kernel)) (met (by decide +kernel)) [] (rDoneEq (met (by decide +kernel)))⟩,
   ⟨_, ((h (due (.route owner rt) none r3') r3' r3' owner rt 0 _ cfg2 _ (met (by decide +kernel)) rfl rfl).2.2.2.1 takesDue).2.2.2.2 (met (by decide +kernel)) (met (by decide +kernel)) 0x04 0x700000 (rEndedEq (met (by decide +kernel)))⟩⟩

theorem witness_TheRoutingCoreActs_flush (h : Obligations.TheRoutingCoreActs) :
    (∃ t, exec .flush (due (.flush owner [0]) none base) = .next t) ∧ ∃ t, exec .flush (due (.flush owner [0]) none r1') = .next t :=
  ⟨⟨_, ((h (due (.flush owner [0]) none base) base base owner [0] 0 _ cfg1 _ (met (by decide +kernel)) rfl rfl).2.2.2.2.1 takesDue).1 (.inl (met (by decide +kernel))) (met (by decide +kernel))⟩,
   ⟨_, ((h (due (.flush owner [0]) none r1') r1' _ owner [0] 0 _ cfg1 _ (met (by decide +kernel)) rfl rfl).2.2.2.2.1 takesDue).2 (met (by decide +kernel)) (met (by decide +kernel)) (met (by decide +kernel)) (met (by decide +kernel)) [0] _ (eGotEq (met (by decide +kernel)))⟩⟩

theorem witness_TheRoutingCoreActs_release (h : Obligations.TheRoutingCoreActs) :
    exec .routingRelease (due (.routingRelease 0 2) none r1') = .next r1' ∧ (∃ t, exec .routingRelease (due (.routingRelease 0 1) none r2') = .next t) ∧
    ∃ t, exec .routingRelease (due (.routingRelease 0 1) none (due (.route owner rt) none r2')) = .next t := by
  have n : ∀ z ∈ r2'.due, z.act.onQ2 0 = false := by rw [show r2'.due = [] by decide +kernel]; intro y hy; cases hy
  exact ⟨((h (due (.routingRelease 0 2) none r1') r1' r1' owner [] 0 _ cfg1 _ (met (by decide +kernel)) rfl rfl).2.2.2.2.2 2 takesDue).1 (met (by decide +kernel)),
    ⟨_, ((h (due (.routingRelease 0 1) none r2') r2' r2' owner [] 0 _ cfg1 _ (met (by decide +kernel)) rfl rfl).2.2.2.2.2 1 takesDue).2.1 (met (by decide +kernel)) n⟩,
    ⟨_, ((h (due (.routingRelease 0 1) none (due (.route owner rt) none r2')) (due (.route owner rt) none r2') r2' owner [] 0 _ cfg1 _ (met (by decide +kernel)) rfl rfl).2.2.2.2.2 1
      takesDue).2.2 ⟨.route owner rt, none⟩ _ (met (by decide +kernel)) (dueHead ..) ⟨owner, rt, rfl, (met (by decide +kernel))⟩ n (.inl (met (by decide +kernel)))⟩⟩

end Sys2Proof.Tests
end

