-- ==== Sys2Proof/Tests/Witness11.lean ====
section
/-! SUPPORT. Witnesses: differentiable memory and the stack engines. -/

-- One theorem after the other: elaborating many at once needs more threads than the memory limit holds.
set_option Elab.async false

open Sys2Proof Sys2Proof.Machine Sys2Proof.Statements

namespace Sys2Proof.Tests

/-! ## Differentiable memory -/

/-- Region 0 is [0x3800000, 0x3800040), of FP32, its cells from 0x3801000 on; the tape, empty, of one entry from 0x3810000.
x1 is the last element, x2 lies inside one, x3 in no region, x4 = 1.0, x5 = the region's base, x6 = 0x3803000, x7 = its length
as region 7 takes it, x8 undeclares region 0, x9 has a bit that is no field. -/
@[irreducible] def f1 : State :=
  (withX [(1, 0x380003C), (2, 0x3800002), (3, 0x3900000), (4, 0x3F800000), (5, 0x3800000), (6, 0x3803000), (7, 0x4007), (8, 0), (9, 0x10), (10, 0x3804000)] base).mapCtx
    fun k => { k with
      dbase := k.dbase.set 0 0x3800000, dlen := k.dlen.set 0 0x40, dadj := k.dadj.set 0 0x3801000
      tapeBase := 0x3810000, tapePos := 0x3810000, tapeLim := 0x3810010 }
@[irreducible] def f2 : State := f1.mapCtx fun k => { k with tapePos := 0x3810018 }
@[irreducible] def f3 : State := f1.mapCtx fun k => { k with status := 0 }

/-- A store to the last element is on its way to another package. -/
@[irreducible] def f9 : State := { f1 with fabric := { f1.fabric with reqs := [(3, { (default : Request) with who := f1.who, va := 0x380003C, len := 4, use := .posted })] } }
/-- In TAPE mode. -/
@[irreducible] def f4 : State := f1.mapCtx fun k => { k with mode := .tape }

theorem apartOf {k : Ctx} {a n : Nat} (but : Option Nat) (h : ∀ i, i < 8 → some i ≠ but → Apart a n (Statements.dbase k i) (Statements.dlen k i) ∧
    Apart a n (Statements.dadj k i).toNat (Statements.dlen k i / Statements.esize k i * 4)) : ApartFromRegions k a n but := h
theorem f9late : Late f9 := by
  refine ⟨(3, { (default : Request) with who := f1.who, va := 0x380003C, len := 4, use := .posted }), by unfold f9; exact .head _, by decide +kernel, rfl, fun h => ?_⟩
  exact absurd (h 0 (by decide) (by decide)).1 (by unfold Apart; decide +kernel)
theorem notLate {s : State} (h : s.fabric.reqs = []) : ¬Late s := by
  rintro ⟨q, hq, -⟩
  rw [h] at hq; cases hq

theorem witness_ModesAndRegionsAreSet_dmode (h : ModesAndRegionsAreSet) :
    exec (.dmode (.x 11) .tape) f1 = .next (retire f1 (put (.dmode (.x 11) .tape) 11 0 (f1.mapCtx fun k => { k with mode := .tape })) {}) ∧
    exec (.dmode (.x 11) .fwd) f9 = .next f9 ∧
    exec (.dmode (.x 11) .rev) f2 = .next ((trapBase f2 f2.ctx.pops none).takeTrap 0x1A f2.ctx.tapePos) := by
  have ok : ApartFromRegions f1.ctx f1.ctx.tapeBase.toNat (f1.ctx.tapeLim.toNat - f1.ctx.tapeBase.toNat) none :=
    apartOf none (by unfold Apart; decide +kernel)
  exact ⟨((h f1 (put (.dmode (.x 11) .tape) 11 0 (f1.mapCtx fun k => { k with mode := .tape })) f1 f1 (.x 11) (.x 1) (.x 1) (.x 1) .tape 0 0 0 0 0 0 _ (solo (met (by decide +kernel)))).1 rfl).1
      (.inr ⟨(met (by decide +kernel)), (met (by decide +kernel)), (met (by decide +kernel)), ok⟩) (notLate (met (by decide +kernel))) (writesX (met (by decide +kernel)) (met (by decide +kernel))),
    ((h f9 f9 f9 f9 (.x 11) (.x 1) (.x 1) (.x 1) .fwd 0 0 0 0 0 0 _ (solo (met (by decide +kernel)))).1 rfl).2.1 (.inl rfl) f9late,
    ((h f2 f2 f2 f2 (.x 11) (.x 1) (.x 1) (.x 1) .rev 0 0 0 0 0 0 _ (solo (met (by decide +kernel)))).1 rfl).2.2 (by decide) (fun c => absurd c.2.1 (met (by decide +kernel)))⟩

theorem witness_ModesAndRegionsAreSet_dregset (h : ModesAndRegionsAreSet) :
    exec (.dregset (.x 10) (.x 6) (.x 7)) f3 = .next ((trapBase f3 f3.ctx.pops none).takeTrap 0x06 (wordOf (.dregset (.x 10) (.x 6) (.x 7)))) ∧
    exec (.dregset (.x 10) (.x 6) (.x 9)) f1 = .next ((trapBase f1 f1.ctx.pops none).takeTrap 0x01 (wordOf (.dregset (.x 10) (.x 6) (.x 9)))) ∧
    exec (.dregset (.x 10) (.x 6) (.x 7)) f4 = .next ((trapBase f4 f4.ctx.pops none).takeTrap 0x1A f4.ctx.dstatWord) ∧
    (∃ t, exec (.dregset (.x 10) (.x 6) (.x 8)) f1 = .next t) ∧ exec (.dregset (.x 10) (.x 6) (.x 8)) f9 = .next f9 := by
  have sets := fun (s : State) (j a b : Opnd) (adj base c : Word) (so : Solo s) (p : s.ctx.pl ≠ 0) (rj : Reads j s adj s) (ra : Reads a s base s) (rb : Reads b s c s) =>
    (h s s s s (.x 11) j a b .fwd adj base c _ _ _ True so).2.2 p rj ra rb rfl rfl rfl
  obtain ⟨D, L, J, E, e, -⟩ := ((sets f1 (.x 10) (.x 6) (.x 8) 0x3804000 0x3803000 0 (solo (met (by decide +kernel))) (met (by decide +kernel)) (readsX (met (by decide +kernel)) (met (by decide +kernel))) (readsX (met (by decide +kernel)) (met (by decide +kernel))) (readsX (met (by decide +kernel)) (met (by decide +kernel)))).2.2 (met (by decide +kernel)) (met (by decide +kernel)) (met (by decide +kernel))).1 (met (by decide +kernel)) (notLate (met (by decide +kernel)))
  exact ⟨(h f3 f3 f3 f3 (.x 11) (.x 10) (.x 6) (.x 7) .fwd 0 0 0 0 0 0 True (solo (met (by decide +kernel)))).2.1 (met (by decide +kernel)),
    (sets f1 (.x 10) (.x 6) (.x 9) 0x3804000 0x3803000 0x10 (solo (met (by decide +kernel))) (met (by decide +kernel)) (readsX (met (by decide +kernel)) (met (by decide +kernel))) (readsX (met (by decide +kernel)) (met (by decide +kernel))) (readsX (met (by decide +kernel)) (met (by decide +kernel)))).1 (.inl (met (by decide +kernel))),
    (sets f4 (.x 10) (.x 6) (.x 7) 0x3804000 0x3803000 0x4007 (solo (met (by decide +kernel))) (met (by decide +kernel)) (readsX (met (by decide +kernel)) (met (by decide +kernel))) (readsX (met (by decide +kernel)) (met (by decide +kernel))) (readsX (met (by decide +kernel)) (met (by decide +kernel)))).2.1 (met (by decide +kernel)) (met (by decide +kernel)) (met (by decide +kernel)), ⟨_, e⟩,
    ((sets f9 (.x 10) (.x 6) (.x 8) 0x3804000 0x3803000 0 (solo (met (by decide +kernel))) (met (by decide +kernel)) (readsX (met (by decide +kernel)) (met (by decide +kernel))) (readsX (met (by decide +kernel)) (met (by decide +kernel))) (readsX (met (by decide +kernel)) (met (by decide +kernel)))).2.2 (met (by decide +kernel)) (met (by decide +kernel)) (met (by decide +kernel))).2.1 (met (by decide +kernel)) f9late⟩

theorem witness_ModesAndRegionsAreSet_aligned (h : ModesAndRegionsAreSet) :
    exec (.dregset (.x 10) (.x 2) (.x 7)) f1 = .next ((trapBase f1 f1.ctx.pops none).takeTrap 0x03 0x3800002) ∧
    exec (.dregset (.x 2) (.x 6) (.x 7)) f1 = .next ((trapBase f1 f1.ctx.pops none).takeTrap 0x03 0x3800002) := by
  have sets := fun (s : State) (j a b : Opnd) (adj base c : Word) (so : Solo s) (p : s.ctx.pl ≠ 0) (rj : Reads j s adj s) (ra : Reads a s base s) (rb : Reads b s c s) =>
    (h s s s s (.x 11) j a b .fwd adj base c _ _ _ True so).2.2 p rj ra rb rfl rfl rfl
  exact ⟨((sets f1 (.x 10) (.x 2) (.x 7) 0x3804000 0x3800002 0x4007 (solo (met (by decide +kernel))) (met (by decide +kernel)) (readsX (met (by decide +kernel)) (met (by decide +kernel))) (readsX (met (by decide +kernel)) (met (by decide +kernel))) (readsX (met (by decide +kernel)) (met (by decide +kernel)))).2.2 (met (by decide +kernel)) (met (by decide +kernel)) (met (by decide +kernel))).2.2.1 (met (by decide +kernel)) (.inl (met (by decide +kernel))),
   ((sets f1 (.x 2) (.x 6) (.x 7) 0x3800002 0x3803000 0x4007 (solo (met (by decide +kernel))) (met (by decide +kernel)) (readsX (met (by decide +kernel)) (met (by decide +kernel))) (readsX (met (by decide +kernel)) (met (by decide +kernel))) (readsX (met (by decide +kernel)) (met (by decide +kernel)))).2.2 (met (by decide +kernel)) (met (by decide +kernel)) (met (by decide +kernel))).2.2.2.1 (met (by decide +kernel)) (met (by decide +kernel)) (met (by decide +kernel)) (met (by decide +kernel))⟩

theorem witness_ModesAndRegionsAreSet_apart (h : ModesAndRegionsAreSet) :
    exec (.dregset (.x 10) (.x 5) (.x 7)) f1 = .next ((trapBase f1 f1.ctx.pops none).takeTrap 0x1A 0x3800000) ∧
    exec (.dregset (.x 10) (.x 6) (.x 7)) f9 = .next f9 ∧ ∃ t, exec (.dregset (.x 10) (.x 6) (.x 7)) f1 = .next t := by
  have sets := fun (s : State) (j a b : Opnd) (adj base c : Word) (so : Solo s) (p : s.ctx.pl ≠ 0) (rj : Reads j s adj s) (ra : Reads a s base s) (rb : Reads b s c s) =>
    (h s s s s (.x 11) j a b .fwd adj base c _ _ _ True so).2.2 p rj ra rb rfl rfl rfl
  obtain ⟨D, L, J, E, e, -⟩ := (((sets f1 (.x 10) (.x 6) (.x 7) 0x3804000 0x3803000 0x4007 (solo (met (by decide +kernel))) (met (by decide +kernel)) (readsX (met (by decide +kernel)) (met (by decide +kernel))) (readsX (met (by decide +kernel)) (met (by decide +kernel))) (readsX (met (by decide +kernel)) (met (by decide +kernel)))).2.2 (met (by decide +kernel)) (met (by decide +kernel)) (met (by decide +kernel))).2.2.2.2 _ (met (by decide +kernel)) (met (by decide +kernel)) (met (by decide +kernel)) (met (by decide +kernel)) rfl).2.2
    ⟨(met (by decide +kernel)), (met (by decide +kernel)), (met (by decide +kernel)), (met (by decide +kernel)), by unfold Apart; decide +kernel, apartOf _ (by unfold Apart; decide +kernel), apartOf _ (by unfold Apart; decide +kernel)⟩ (notLate (met (by decide +kernel)))
  exact ⟨(((sets f1 (.x 10) (.x 5) (.x 7) 0x3804000 0x3800000 0x4007 (solo (met (by decide +kernel))) (met (by decide +kernel)) (readsX (met (by decide +kernel)) (met (by decide +kernel))) (readsX (met (by decide +kernel)) (met (by decide +kernel))) (readsX (met (by decide +kernel)) (met (by decide +kernel)))).2.2 (met (by decide +kernel)) (met (by decide +kernel)) (met (by decide +kernel))).2.2.2.2 _ (met (by decide +kernel)) (met (by decide +kernel)) (met (by decide +kernel)) (met (by decide +kernel)) rfl).1
      (fun c => absurd (c.2.2.2.2.2.1 0 (by decide) (met (by decide +kernel))).1 (by unfold Apart; decide +kernel)),
    (((sets f9 (.x 10) (.x 6) (.x 7) 0x3804000 0x3803000 0x4007 (solo (met (by decide +kernel))) (met (by decide +kernel)) (readsX (met (by decide +kernel)) (met (by decide +kernel))) (readsX (met (by decide +kernel)) (met (by decide +kernel))) (readsX (met (by decide +kernel)) (met (by decide +kernel)))).2.2 (met (by decide +kernel)) (met (by decide +kernel)) (met (by decide +kernel))).2.2.2.2 _ (met (by decide +kernel)) (met (by decide +kernel)) (met (by decide +kernel)) (met (by decide +kernel)) rfl).2.1
      ⟨(met (by decide +kernel)), (met (by decide +kernel)), (met (by decide +kernel)), (met (by decide +kernel)), by unfold Apart; decide +kernel, apartOf _ (by unfold Apart; decide +kernel), apartOf _ (by unfold Apart; decide +kernel)⟩ f9late, ⟨_, e⟩⟩

/-- The adjoint cell of the last element of region 0. -/
theorem cellIn {s : State} {j : Word} (h : (s.ctx.dbase.getD 0 0 == 0x3800000 && s.ctx.dlen.getD 0 0 == 0x40 && s.ctx.dadj.getD 0 0 == j && !s.ctx.esz.getLsbD 0) = true) :
    CellOf s.ctx 0x380003C (j + 0x3C) 0 := by
  simp only [Bool.and_eq_true, beq_iff_eq, Bool.not_eq_true'] at h
  obtain ⟨⟨⟨a, b⟩, c⟩, d⟩ := h
  unfold CellOf Statements.dbase Statements.dlen Statements.dadj Statements.esize
  rw [a, b, c, d]
  exact ⟨by decide, by decide, by decide, fun q hq => absurd hq (Nat.not_lt_zero q), rfl⟩
theorem cell {s : State} (h : (s.ctx.dbase.getD 0 0 == 0x3800000 && s.ctx.dlen.getD 0 0 == 0x40 && s.ctx.dadj.getD 0 0 == 0x3801000 && !s.ctx.esz.getLsbD 0) = true) :
    CellOf s.ctx 0x380003C 0x380103C 0 := cellIn h

def lastCell : Phys := ⟨2 ^ 48 + 0x103C, false, true, true⟩
def lastElem : Phys := ⟨2 ^ 48 + 0x3C, false, true, true⟩
/-- The cells lie in the windows; or, in TAPE mode, over the primal data of region 1 on a page with DH = 0. -/
@[irreducible] def f10 : State := f1.mapCtx fun k => { k with dadj := k.dadj.set 0 0x1800000 }
@[irreducible] def f11 : State := f4.mapCtx fun k => { k with dadj := k.dadj.set 0 0x801000, dbase := k.dbase.set 1 0x801000, dlen := k.dlen.set 1 0x40 }

theorem witness_AdjointCellsAreReached_traps (h : AdjointCellsAreReached) :
    exec (.ldadj (.x 11) (.x 3)) f1 = .next ((trapBase f1 f1.ctx.pops none).takeTrap 0x1A 0x3900000) ∧
    exec (.accadj (.x 4) (.x 2) .relaxed) f1 = .next ((trapBase f1 f1.ctx.pops none).takeTrap 0x03 0x3800002) := by
  refine ⟨(h f1 f1 f1 f1 f1 (.x 11) (.x 3) .relaxed 0x3900000 0 0 0 default 0 _ _ (solo (met (by decide +kernel))) (readsX (met (by decide +kernel)) (met (by decide +kernel))) (.head _)).1
      (fun r hr => (by decide +kernel : ∀ r, r < 8 → (0x3900000 : Word).toNat < Statements.dbase f1.ctx r ∨ Statements.dbase f1.ctx r + Statements.dlen f1.ctx r ≤ (0x3900000 : Word).toNat) r hr),
    ((h f1 f1 f1 f1 f1 (.x 4) (.x 2) .relaxed 0x3800002 0x3801000 0 0 default 0 _ _ (solo (met (by decide +kernel))) (readsX (met (by decide +kernel)) (met (by decide +kernel))) (.tail _ (.tail _ (.head _)))).2 ?_).1 (met (by decide +kernel))⟩
  exact ⟨(met (by decide +kernel)), (met (by decide +kernel)), (met (by decide +kernel)), fun q hq => absurd hq (Nat.not_lt_zero q), (met (by decide +kernel))⟩

theorem witness_AdjointCellsAreReached_places (h : AdjointCellsAreReached) :
    exec (.ldadj (.x 11) (.x 1)) f10 = .next ((trapBase f10 (acc .load false 0x180003C f10).ctx.pops none).takeTrap 0x1A 0x180003C) ∧
    exec (.stadj (.x 4) (.x 1)) f11 = .next ((trapBase f11 (acc .store false 0x80103C f11).ctx.pops none).takeTrap 0x1A (BitVec.ofNat 64 0x80103C)) :=
  ⟨(((h f10 f10 _ f10 f10 (.x 11) (.x 1) .relaxed 0x380003C 0x180003C 0 0 ⟨2 ^ 49 + 0x3C, false, false, true⟩ 0 _ _ (solo (met (by decide +kernel))) (readsX (met (by decide +kernel)) (met (by decide +kernel))) (.head _)).2
     (cellIn (j := 0x1800000) (met (by decide +kernel)))).2 (met (by decide +kernel)) (goes (met (by decide +kernel)))).1 (.inr (met (by decide +kernel))),
   (((h f11 f11 _ f11 f11 (.x 4) (.x 1) .relaxed 0x380003C 0x80103C 0 0 ⟨2 ^ 48 + 0x103C, false, false, true⟩ 0 _ _ (solo (met (by decide +kernel))) (readsX (met (by decide +kernel)) (met (by decide +kernel))) (.tail _ (.head _))).2
     (cellIn (j := 0x801000) (met (by decide +kernel)))).2 (met (by decide +kernel)) (goes (met (by decide +kernel)))).2.1 0x80103C (met (by decide +kernel)) (met (by decide +kernel)) (met (by decide +kernel)) rfl (met (by decide +kernel))⟩

theorem plainly {s : State} {p : Phys} {a : Word} {n : Nat}
    (h : (!p.own && regionOf p.pa == .pool && !s.inStep p.pa n && (s.ctx.diffMode == .fwd || p.dh)) = true) : Plainly s p a n := by
  simp only [Bool.and_eq_true, Bool.not_eq_true', beq_iff_eq, Bool.or_eq_true] at h
  exact ⟨h.1.1.1, .inl h.1.1.2, h.1.2, h.2.elim .inl fun d => .inr (.inl d)⟩

theorem witness_AdjointCellsAreReached (h : AdjointCellsAreReached) :
    (∃ t, exec (.ldadj (.x 11) (.x 1)) f1 = .next t) ∧ (∃ t, exec (.stadj (.x 4) (.x 1)) f1 = .next t) ∧ ∃ t, exec (.accadj (.x 4) (.x 1) .relaxed) f1 = .next t :=
  ⟨⟨_, ((((h f1 f1 _ _ f1 (.x 11) (.x 1) .relaxed 0x380003C 0x380103C 0 0 lastCell 0 _ _ (solo (met (by decide +kernel))) (readsX (met (by decide +kernel)) (met (by decide +kernel))) (.head _)).2 (cell (met (by decide +kernel)))).2 (met (by decide +kernel)) (goes (met (by decide +kernel)))).2.2 (plainly (met (by decide +kernel)))).1 rfl (met (by decide +kernel))
     (writesX (v' := 0) (met (by decide +kernel)) (met (by decide +kernel)))⟩,
   ⟨_, ((((h f1 f1 _ _ _ (.x 4) (.x 1) .relaxed 0x380003C 0x380103C 0x3F800000 0 lastCell 0 _ _ (solo (met (by decide +kernel))) (readsX (met (by decide +kernel)) (met (by decide +kernel))) (.tail _ (.head _))).2 (cell (met (by decide +kernel)))).2 (met (by decide +kernel)) (goes (met (by decide +kernel)))).2.2
     (plainly (met (by decide +kernel)))).2.1 rfl (readsX (met (by decide +kernel)) (met (by decide +kernel))) (stored_pool (met (by decide +kernel)) (met (by decide +kernel)))⟩,
   ⟨_, ((((h f1 f1 _ _ f1 (.x 4) (.x 1) .relaxed 0x380003C 0x380103C 0x3F800000 0 lastCell _ _ _ (solo (met (by decide +kernel))) (readsX (met (by decide +kernel)) (met (by decide +kernel))) (.tail _ (.tail _ (.head _)))).2 (cell (met (by decide +kernel)))).2 (met (by decide +kernel)) (goes (met (by decide +kernel)))).2.2
     (plainly (met (by decide +kernel)))).2.2 rfl (met (by decide +kernel)) (readsX (met (by decide +kernel)) (met (by decide +kernel))) rfl⟩⟩

/-- In TAPE mode with no room for an entry; in REV mode with the entry of the store of 7 over the last element,
with another entry, and with none. -/
@[irreducible] def f5 : State := f4.mapCtx fun k => { k with tapePos := 0x3810010 }
@[irreducible] def f6 : State := (f5.poke (2 ^ 48 + 0x10000) (bytesOfNat 8 (0x380003C + 2 ^ 53 * 2 + 2 ^ 56) ++ bytesOfNat 8 7)).mapCtx fun k => { k with mode := .rev }
@[irreducible] def f7 : State := f6.poke (2 ^ 48 + 0x10000) [0]
@[irreducible] def f8 : State := f6.mapCtx fun k => { k with tapePos := 0x3810000 }
def top : Phys := ⟨2 ^ 48 + 0x10000, false, true, true⟩
theorem z4' : (LdWidth.z4, 4, (2 : BitVec 3), fun v => BitVec.ofNat 64 v) ∈ loadWidths := by simp [loadWidths]
theorem w4' : (StWidth.w4, 4, (2 : BitVec 3)) ∈ storeWidths := .tail _ (.tail _ (.head _))

theorem witness_AccessesInvert_tape (h : AccessesInvert) :
    exec (.st (.x 4) (.x 5) .w4 15) f5 = .next ((trapBase f5 (acc .store false 0x380003C f5).ctx.pops none).takeTrap 0x10 0x380003C) ∧
    ∃ t, exec (.st (.x 4) (.x 5) .w4 15) f4 = .next t := by
  have stores := fun (s s3 s4 s5 s6 : State) (v pos : Word) (m : Nat) (entry : List Byte) (so : Solo s) (r : Reads (.x 5) s 0x3800000 s)
      (ce : CellOf s.ctx 0x380003C 0x380103C 0) (g : Goes .store false 0x380003C s lastElem (acc .store false 0x380003C s))
      (pl : Plainly (acc .store false 0x380003C s) lastElem 0x380003C 4) =>
    (h s s (acc .store false 0x380003C s) s3 s4 s5 s6 4 (.x 5) (.x 4) .w4 .z4 15 0x3800000 0x380003C v 0x380103C pos lastElem lastCell top 4 0 m 2 entry so r (met (by decide +kernel)) (met (by decide +kernel)) ce rfl).1 w4' g pl
  exact ⟨((stores f5 f5 f5 f5 f5 0 0x3810010 0 [] (solo (met (by decide +kernel))) (readsX (met (by decide +kernel)) (met (by decide +kernel))) (cell (met (by decide +kernel))) (goes (met (by decide +kernel))) (plainly (met (by decide +kernel)))).1 (met (by decide +kernel)) (met (by decide +kernel)) (met (by decide +kernel))).1 (met (by decide +kernel)),
   ⟨_, ((stores f4 _ _ _ f4 0x3F800000 0x3810000 0 [] (solo (met (by decide +kernel))) (readsX (met (by decide +kernel)) (met (by decide +kernel))) (cell (met (by decide +kernel))) (goes (met (by decide +kernel))) (plainly (met (by decide +kernel)))).1 (met (by decide +kernel)) (met (by decide +kernel)) (met (by decide +kernel))).2 (met (by decide +kernel)) (goes (met (by decide +kernel))) (plainly (met (by decide +kernel))) (met (by decide +kernel)) (readsX (met (by decide +kernel)) (met (by decide +kernel))) (stored_pool (met (by decide +kernel)) (met (by decide +kernel)))⟩⟩

theorem witness_AccessesInvert_rev (h : AccessesInvert) :
    exec (.st (.x 4) (.x 5) .w4 15) f8 = .next ((trapBase f8 (acc .store false 0x380003C f8).ctx.pops none).takeTrap 0x11 (acc .store false 0x380003C f8).ctx.tapePos) ∧
    exec (.st (.x 4) (.x 5) .w4 15) f7 = .next ((trapBase f7 (acc .load false 0x3810000 (acc .store false 0x380003C f7)).ctx.pops none).takeTrap 0x11 0x380003C) ∧
    ∃ t, exec (.st (.x 4) (.x 5) .w4 15) f6 = .next t := by
  have stores := fun (s s3 s4 s5 s6 : State) (v pos : Word) (m : Nat) (entry : List Byte) (so : Solo s) (r : Reads (.x 5) s 0x3800000 s)
      (ce : CellOf s.ctx 0x380003C 0x380103C 0) (g : Goes .store false 0x380003C s lastElem (acc .store false 0x380003C s))
      (pl : Plainly (acc .store false 0x380003C s) lastElem 0x380003C 4) =>
    (h s s (acc .store false 0x380003C s) s3 s4 s5 s6 4 (.x 5) (.x 4) .w4 .z4 15 0x3800000 0x380003C v 0x380103C pos lastElem lastCell top 4 0 m 2 entry so r (met (by decide +kernel)) (met (by decide +kernel)) ce rfl).1 w4' g pl
  exact ⟨((stores f8 f8 f8 f8 f8 0 0x380FFF0 0 [] (solo (met (by decide +kernel))) (readsX (met (by decide +kernel)) (met (by decide +kernel))) (cell (met (by decide +kernel))) (goes (met (by decide +kernel))) (plainly (met (by decide +kernel)))).2 (met (by decide +kernel)) (met (by decide +kernel)) (met (by decide +kernel)) (met (by decide +kernel))).1 (met (by decide +kernel)),
   (((stores f7 _ f7 f7 f7 0 0x3810000 0 _ (solo (met (by decide +kernel))) (readsX (met (by decide +kernel)) (met (by decide +kernel))) (cell (met (by decide +kernel))) (goes (met (by decide +kernel))) (plainly (met (by decide +kernel)))).2 (met (by decide +kernel)) (met (by decide +kernel)) (met (by decide +kernel)) (met (by decide +kernel))).2 (met (by decide +kernel)) (goes (met (by decide +kernel))) (plainly (met (by decide +kernel))) (met (by decide +kernel)) rfl).1 (met (by decide +kernel)),
   ⟨_, (((stores f6 _ _ _ _ 0x3F800000 0x3810000 _ _ (solo (met (by decide +kernel))) (readsX (met (by decide +kernel)) (met (by decide +kernel))) (cell (met (by decide +kernel))) (goes (met (by decide +kernel))) (plainly (met (by decide +kernel)))).2 (met (by decide +kernel)) (met (by decide +kernel)) (met (by decide +kernel)) (met (by decide +kernel))).2 (met (by decide +kernel)) (goes (met (by decide +kernel))) (plainly (met (by decide +kernel))) (met (by decide +kernel)) rfl).2 (met (by decide +kernel)) (readsX (met (by decide +kernel)) (met (by decide +kernel)))
     (goes (met (by decide +kernel))) (plainly (met (by decide +kernel))) (met (by decide +kernel)) rfl (stored_pool (met (by decide +kernel)) (met (by decide +kernel))) (writesX (v' := 0x3F800000) (met (by decide +kernel)) (met (by decide +kernel)))⟩⟩

theorem witness_AccessesInvert_ld (h : AccessesInvert) : ∃ t, exec (.ld (.x 4) (.x 5) .z4 15) f6 = .next t :=
  ⟨_, (h f6 f6 _ _ _ f6 f6 4 (.x 5) (.x 4) .w4 .z4 15 0x3800000 0x380003C 0x3F800000 0x380103C 0x3810000 lastElem lastCell top 4 0 _ 2 [] (solo (met (by decide +kernel))) (readsX (met (by decide +kernel)) (met (by decide +kernel))) (met (by decide +kernel)) (met (by decide +kernel)) (cell (met (by decide +kernel))) rfl).2
    ⟨_, z4'⟩ (goes (met (by decide +kernel))) (plainly (met (by decide +kernel))) (met (by decide +kernel)) (met (by decide +kernel)) (readsX (met (by decide +kernel)) (met (by decide +kernel))) (goes (met (by decide +kernel))) (plainly (met (by decide +kernel))) (met (by decide +kernel)) rfl (writesX (v' := 0) rfl (met (by decide +kernel)))⟩

end Sys2Proof.Tests
end

