-- ==== Sys2Proof/Tests/Witness12.lean ====
section
/-! SUPPORT. Witnesses: the stack engines. -/

-- One theorem after the other: elaborating many at once needs more threads than the memory limit holds.
set_option Elab.async false

open Sys2Proof Sys2Proof.Machine Sys2Proof.Statements

namespace Sys2Proof.Tests

/-! ## Commands at their issue -/

/-- Descriptors at 0x900000 (UPDT of one record), 0x900040 (FMT, FP32 to BF16, 2 rows of one column) and 0x900080 (RKRUN of
ranks 0 and 1). x1 to x3 point to them, x4 to an image; x5 loads 2 words at the end of the step store of column 0 of stack 0;
x6 is a rank; x7 switches stack 0 to RANK mode, x8 stack 1 to NORMAL mode. Stack 0 is in RANK mode, rank 1 failed. -/
def updtWords (params : Word) : List Word := [params, 1, 0x900100, 1, 0x3F800000, 0, 0, 0]
def fmtWords (dst : Word) (rows : Nat) : List Word := [0x900200, dst, 0, 0x570, BitVec.ofNat 64 (rows + 2 ^ 32), 0]
def runWords : List Word := [0x3FF0000, 0x100010002, 0x100000001, 0, 0, 0, 0, 0]
def bytesOfWords (ws : List Word) : List Byte := ws.flatMap fun w => bytesOfNat 8 w.toNat
@[irreducible] def i1 : State :=
  let s := withX [(1, 0x900000), (2, 0x900040), (3, 0x900080), (4, 0x900300), (5, BitVec.ofNat 64 (1022 * 2 ^ 10 + 2 * 2 ^ 20)), (6, 1), (7, 0x10), (8, 1)]
    (base.poke (2 ^ 48 + 0x100000) (bytesOfWords (updtWords 0x2000000 ++ fmtWords 0x900280 2 ++ [0, 0] ++ runWords)))
  s.setStack 0 { s.stack 0 with mode := true }
@[irreducible] def i2 : State := i1.setRank 1 { i1.rank 1 with state := .failed, reason := 5 }
@[irreducible] def i3 : State := i1.mapCtx fun k => { k with status := 0 }
@[irreducible] def i4 : State := i1.setStack 1 { i1.stack 1 with mode := true }

theorem mayIssue {s : State} {t : BitVec 5} {foot : List (Word × Nat)} (h : s.ctx.pend.getLsbD t.toNat = false)
    (g : (s.cmds.filter fun c => c.who.core == s.core.id && c.kind.isStack).length < 8) (m : s.ctx.diffMode ≠ .rev) : MayIssue s t foot :=
  ⟨h, g, fun e => absurd e m⟩
theorem issued {i : Instr} {t : BitVec 5} {kind : CmdKind} {foot : List Foot} {act : Nat → Act} {s s' : State} (h : Issues i t kind foot act s s') : ∃ u, exec i s = .next u := by
  obtain ⟨u, e, -⟩ := h; exact ⟨u, e⟩

theorem witness_StackCommandsStart_updt (h : StackCommandsStart) : ∃ t, exec (.updt 9 (.x 1)) i1 = .next t :=
  issued ((h i1 i1 (ran (memLoad 0x900000 64 i1.ctx.modPrimal) i1) i1 9 (.x 1) (.x 1) (.x 1) 0x900000 0 (bytesOfWords (updtWords 0x2000000)) 0 StepCtx.reset (solo (met (by decide +kernel))) (readsX (met (by decide +kernel)) (met (by decide +kernel)))).1
    (met (by decide +kernel)) (runs (met (by decide +kernel))) (met (by decide +kernel)) _ rfl (mayIssue (met (by decide +kernel)) (met (by decide +kernel)) (met (by decide +kernel))))

theorem witness_StackCommandsStart_fmt (h : StackCommandsStart) : ∃ t, exec (.fmt 9 (.x 2)) i1 = .next t :=
  issued ((h i1 i1 (ran (memLoad 0x900040 48 i1.ctx.modPrimal) i1) i1 9 (.x 1) (.x 2) (.x 1) 0x900040 0 (bytesOfWords (fmtWords 0x900280 2)) 0 StepCtx.reset (solo (met (by decide +kernel))) (readsX (met (by decide +kernel)) (met (by decide +kernel)))).2.1
    _ (met (by decide +kernel)) (runs (met (by decide +kernel))) (Option.some_get (met (by decide +kernel))).symm (met (by decide +kernel)) (met (by decide +kernel)) (mayIssue (met (by decide +kernel)) (met (by decide +kernel)) (met (by decide +kernel))))

theorem witness_StackCommandsStart_rkload (h : StackCommandsStart) : ∃ t, exec (.rkload 9 (.x 4) (.x 5)) i1 = .next t :=
  issued ((h i1 i1 i1 i1 9 (.x 1) (.x 4) (.x 5) 0x900300 (BitVec.ofNat 64 (1022 * 2 ^ 10 + 2 * 2 ^ 20)) [] 0 StepCtx.reset (solo (met (by decide +kernel))) (readsX (met (by decide +kernel)) (met (by decide +kernel)))).2.2.1
    0 1022 2 [0] (readsX (met (by decide +kernel)) (met (by decide +kernel))) (met (by decide +kernel)) (met (by decide +kernel)) (met (by decide +kernel)) (met (by decide +kernel)) (met (by decide +kernel)) (met (by decide +kernel)) (met (by decide +kernel)) (met (by decide +kernel)) (met (by decide +kernel)) (by intro c hc; cases List.mem_singleton.mp hc; exact ⟨(met (by decide +kernel)), (met (by decide +kernel))⟩) ⟨(met (by decide +kernel)), (met (by decide +kernel))⟩ (met (by decide +kernel)) (mayIssue (met (by decide +kernel)) (met (by decide +kernel)) (met (by decide +kernel))))

theorem witness_StackCommandsStart_rkrun (h : StackCommandsStart) : ∃ t, exec (.rkrun 9 (.x 3)) i1 = .next t :=
  issued ((h i1 i1 (ran (memLoad 0x900080 64 i1.ctx.modPrimal) i1) i1 9 (.x 1) (.x 3) (.x 1) 0x900080 0 (bytesOfWords runWords) 0 StepCtx.reset (solo (met (by decide +kernel))) (readsX (met (by decide +kernel)) (met (by decide +kernel)))).2.2.2.1
    runWords [0, 1] (met (by decide +kernel)) (runs (met (by decide +kernel))) (met (by decide +kernel)) (met (by decide +kernel)) (met (by decide +kernel)) (by
      intro m hm
      have e : m = 0 ∨ m = 1 := by simpa using hm
      rcases e with rfl | rfl <;> exact ⟨⟨(met (by decide +kernel)), (met (by decide +kernel))⟩, ⟨(met (by decide +kernel)), (met (by decide +kernel))⟩, (met (by decide +kernel)), (met (by decide +kernel))⟩) (mayIssue (met (by decide +kernel)) (met (by decide +kernel)) (met (by decide +kernel)))).1

theorem witness_StackCommandsStart_rkstat (h : StackCommandsStart) :
    (∃ t, exec (.rkstat (.x 9) (.x 6) false) i2 = .next t) ∧ ∃ t, exec (.rkstat (.x 9) (.x 6) true) i2 = .next t :=
  have g := fun (s2 : State) => (h i2 i2 s2 i2 9 (.x 9) (.x 6) (.x 1) 1 0 [] 0 _ (solo (met (by decide +kernel))) (readsX (met (by decide +kernel)) (met (by decide +kernel)))).2.2.2.2.1 (met (by decide +kernel)) ⟨(met (by decide +kernel)), (met (by decide +kernel))⟩ rfl
  ⟨⟨_, g _ false (writesX (v' := 0x55) (met (by decide +kernel)) (met (by decide +kernel)))⟩, ⟨_, g _ true (writesX (v' := 0x55) (met (by decide +kernel)) (met (by decide +kernel)))⟩⟩

/-- A tenant whose one column is column 0 of stack 0 owns a column of that stack, and all it is given of it. -/
theorem ownsFirst {s : State} (e : s.sown = [(0, 0x80)]) (t : s.tenant = 0) :
    (∃ c, c < 64 ∧ OwnsColumn s c) ∧ ∀ c, c < 64 → (s.sown.get c 0).getLsbD 7 = true → OwnsColumn s c := by
  have o : OwnsColumn s 0 := by unfold OwnsColumn; rw [e, t]; exact by decide
  refine ⟨⟨0, by decide, o⟩, fun c hc hv => ?_⟩
  rw [e] at hv
  have z : ∀ c, c < 64 → (Tab.get ([(0, 0x80)] : Tab Byte) c 0).getLsbD 7 = true → c = 0 := by decide
  cases z c hc hv; exact o

theorem witness_StackCommandsStart_smode (h : StackCommandsStart) :
    exec (.smode 9 (.x 7)) i3 = .next ((trapBase i3 i3.ctx.pops none).takeTrap 0x06 (wordOf (.smode 9 (.x 7)))) ∧
    (∃ t, exec (.smode 9 (.x 7)) i1 = .next t) ∧ ∃ t, exec (.smode 9 (.x 8)) i4 = .next t := by
  obtain ⟨u, e, -⟩ := (((h i4 i4 i4 i4 9 (.x 9) (.x 8) (.x 1) 1 0 [] 1 StepCtx.reset (solo (met (by decide +kernel))) (readsX (met (by decide +kernel)) (met (by decide +kernel)))).2.2.2.2.2.2) false (met (by decide +kernel)) (met (by decide +kernel)) (met (by decide +kernel)) (met (by decide +kernel)) (met (by decide +kernel)) (met (by decide +kernel)) (.inr (ownsFirst (met (by decide +kernel)) (met (by decide +kernel)))) (met (by decide +kernel)) (met (by decide +kernel)) (met (by decide +kernel))).2 (met (by decide +kernel))
  exact ⟨(h i3 i3 i3 i3 9 (.x 9) (.x 7) (.x 1) 0x10 0 [] 0 StepCtx.reset (solo (met (by decide +kernel))) (readsX (met (by decide +kernel)) (met (by decide +kernel)))).2.2.2.2.2.1 (met (by decide +kernel)),
    ⟨_, (((h i1 i1 i1 _ 9 (.x 9) (.x 7) (.x 1) 0x10 0 [] 0 StepCtx.reset (solo (met (by decide +kernel))) (readsX (met (by decide +kernel)) (met (by decide +kernel)))).2.2.2.2.2.2) true (met (by decide +kernel)) (met (by decide +kernel)) (met (by decide +kernel)) (met (by decide +kernel)) (met (by decide +kernel)) (met (by decide +kernel)) (.inr (ownsFirst (met (by decide +kernel)) (met (by decide +kernel)))) (met (by decide +kernel)) (met (by decide +kernel)) (met (by decide +kernel))).1 (met (by decide +kernel)) rfl⟩, ⟨u, e⟩⟩

/-! ## Their completion -/

/-- A gradient of 1.0, and one that is no finite number. -/
theorem witness_RecordsAreUpdated (h : RecordsAreUpdated) :
    (⟨0, 0, 0, 0, 0xFFFF⟩ : ParamRec).update (updtWords 0) 0x7FC00000 = (⟨0, 0, 0, 0, min (0xFFFF + 1) 0xFFFF⟩, true) ∧
    ∃ r, (⟨0x3F800000, 0, 0, 0, 0⟩ : ParamRec).update [0, 0, 0, 0, 0x3F800000, 0, 0x3F80000000000000, 0x3F8000003F800000] 0x3F800000 = (r, false) := by
  obtain ⟨w, -, e⟩ := (h ⟨0x3F800000, 0, 0, 0, 0⟩ [0, 0, 0, 0, 0x3F800000, 0, 0x3F80000000000000, 0x3F8000003F800000] 0x3F800000 _ _ _ _ _ _ (fun _ => rfl) (fun _ => rfl) rfl).2
    (met (by decide +kernel)) (met (by decide +kernel)) rfl rfl rfl
  exact ⟨(h ⟨0, 0, 0, 0, 0xFFFF⟩ (updtWords 0) 0x7FC00000 _ 0 0 0 _ _ (fun _ => rfl) (fun _ => rfl) rfl).1 (met (by decide +kernel)), ⟨_, e⟩⟩

def stackCmd (n : Nat) (kind : CmdKind) (foot : List Foot := []) : Cmd := ⟨n, owner, 3, kind, false, 0, .fwd, false, [], false, none, foot, [], none, 0, 0⟩
/-- The records at 0x2000000 and their gradients at 0x900100. -/
def records : List Foot := [.va 0x2000000 16, .va 0x900100 4]
/-- Commands of core 0: an UPDT of one record and one that meets a fault, FMTs of 1 and of 2 rows, an RKLOAD, and an RKRUN
of ranks 0 and 1. -/
@[irreducible] def j1 : State := { i1 with cmds := [stackCmd 1 (.updt (updtWords 0x2000000)) records, stackCmd 2 (.updt (updtWords 0x700000)) [.va 0x700000 16],
  stackCmd 3 (.fmt (fmtWords 0x900280 1)), stackCmd 4 (.fmt (fmtWords 0x900280 2)),
  stackCmd 5 (.rkload 0x900300 (BitVec.ofNat 64 (1022 * 2 ^ 10 + 2 * 2 ^ 20))), stackCmd 6 (.rkrun runWords [0, 1])] }
/-- Both of its ranks run; both are idle; both have failed. -/
@[irreducible] def j2 : State := (j1.setRank 0 { j1.rank 0 with state := .running, run := some 6 }).setRank 1 { j1.rank 1 with state := .inStep, run := some 6 }
@[irreducible] def j3 : State := (j1.setRank 0 { j1.rank 0 with state := .failed, run := some 6 }).setRank 1 { j1.rank 1 with state := .failed, run := some 6 }

def nGot (m : E Nat) (s : State) : Option Nat :=
  match m (s, []) with
  | .ok (b, _) => some b
  | .error _ => none
@[irreducible] def nLeft (m : E Nat) (s : State) : State × List RemoteVal :=
  match m (s, []) with
  | .ok (_, p) => p
  | .error _ => (s, [])
theorem nGotEq {m : E Nat} {s : State} {b : Nat} (h : nGot m s = some b) : m (s, []) = .ok (b, ((nLeft m s).1, (nLeft m s).2)) := by
  unfold nGot at h; unfold nLeft
  cases e : m (s, []) with
  | ok p => rw [e] at h; cases h; rfl
  | error x => rw [e] at h; cases h
def nFault (m : E Nat) (s : State) : Option (BitVec 8) :=
  match m (s, []) with
  | .error (.fault c) => some c
  | _ => none
theorem nFaultEq {m : E Nat} {s : State} {c : BitVec 8} (h : nFault m s = some c) : m (s, []) = .error (.fault c) := by
  unfold nFault at h
  split at h
  · next e => cases h; exact e
  · cases h

theorem witness_StackCommandsComplete_updt (h : StackCommandsComplete) :
    (∃ t, exec .updtComplete (due (.updtComplete 1) none j1) = .next t) ∧ ∃ t, exec .updtComplete (due (.updtComplete 2) none j1) = .next t := by
  have a := ((h (due (.updtComplete 1) none j1) j1 _ 1 16 1 (stackCmd 1 (.updt (updtWords 0x2000000)) records) _ 0 (updtWords 0x2000000) default (met (by decide +kernel)) rfl).1 .updtComplete (.updtComplete 1) _
    (dueRest ..) (.inl ⟨rfl, rfl, rfl, (met (by decide +kernel)), rfl⟩) ⟨none, dueHead ..⟩).2.1 (met (by decide +kernel)) (nGotEq (met (by decide +kernel)))
  have b := ((h (due (.updtComplete 2) none j1) j1 j1 2 16 1 (stackCmd 2 (.updt (updtWords 0x700000)) [.va 0x700000 16]) [] 0x04 (updtWords 0x700000) default (met (by decide +kernel)) rfl).1 .updtComplete (.updtComplete 2) _
    (dueRest ..) (.inl ⟨rfl, rfl, rfl, (met (by decide +kernel)), rfl⟩) ⟨none, dueHead ..⟩).2.2 (met (by decide +kernel)) (nFaultEq (met (by decide +kernel)))
  exact ⟨⟨_, a.1 (met (by decide +kernel))⟩, ⟨_, b⟩⟩

theorem witness_StackCommandsComplete_fmt (h : StackCommandsComplete) :
    (∃ t, exec .fmtComplete (due (.fmtComplete 3) none j1) = .next t) ∧ ∃ t, exec .fmtComplete (due (.fmtComplete 4) none j1) = .next t := by
  have a := ((h (due (.fmtComplete 3) none j1) j1 _ 3 2 1 (stackCmd 3 (.fmt (fmtWords 0x900280 1))) _ 0 (fmtWords 0x900280 1) _ (met (by decide +kernel)) rfl).1 .fmtComplete (.fmtComplete 3) _
    (dueRest ..) (.inr ⟨rfl, rfl, rfl, (Option.some_get (met (by decide +kernel))).symm, (met (by decide +kernel)), rfl⟩) ⟨none, dueHead ..⟩).2.1 (met (by decide +kernel)) (nGotEq (met (by decide +kernel)))
  have b := ((h (due (.fmtComplete 4) none j1) j1 _ 4 2 2 (stackCmd 4 (.fmt (fmtWords 0x900280 2))) _ 0 (fmtWords 0x900280 2) _ (met (by decide +kernel)) rfl).1 .fmtComplete (.fmtComplete 4) _
    (dueRest ..) (.inr ⟨rfl, rfl, rfl, (Option.some_get (met (by decide +kernel))).symm, (met (by decide +kernel)), rfl⟩) ⟨none, dueHead ..⟩).2.1 (met (by decide +kernel)) (nGotEq (met (by decide +kernel)))
  exact ⟨⟨_, a.1 (met (by decide +kernel))⟩, ⟨_, b.2 (met (by decide +kernel))⟩⟩

/-- Commands that share bytes with an earlier one, command 1: an FMT, an RKLOAD and an UPDT. -/
@[irreducible] def j4 : State := { j1 with cmds := [stackCmd 1 (.updt (updtWords 0x2000000)) records,
  stackCmd 2 (.updt (updtWords 0x2000000)) [.va 0x200000F 1], stackCmd 3 (.fmt (fmtWords 0x900280 1)) [.va 0x9000FC 5],
  stackCmd 4 (.rkload 0x900300 (BitVec.ofNat 64 (1022 * 2 ^ 10 + 2 * 2 ^ 20))) [.va 0x900103 8],
  stackCmd 5 (.updt (updtWords 0x2000000)) [.va 0x2000010 16, .va 0x900104 4]] }

theorem witness_TurnsFollowTheFootprints (h : TurnsFollowTheFootprints) :
    (∀ d ∈ j4.cmds, d.id < 5 → d.who = owner → ∀ p ∈ j4.footprint d,
      ∀ q ∈ j4.footprint (stackCmd 5 (.updt (updtWords 0x2000000)) [.va 0x2000010 16]), ¬(p.1 < q.1 + q.2 ∧ q.1 < p.1 + p.2)) ∧
    ¬∀ d ∈ j4.cmds, d.id < 2 → d.who = owner → ∀ p ∈ j4.footprint d,
      ∀ q ∈ j4.footprint (stackCmd 2 (.updt (updtWords 0x2000000)) [.va 0x200000F 1]), ¬(p.1 < q.1 + q.2 ∧ q.1 < p.1 + p.2) := by
  refine ⟨((h j4 (stackCmd 5 (.updt (updtWords 0x2000000)) [.va 0x2000010 16])).mp (met (by decide +kernel))).1, fun g => ?_⟩
  have e : j4.fabric.reqs = [] := (met (by decide +kernel))
  have f := (h j4 (stackCmd 2 (.updt (updtWords 0x2000000)) [.va 0x200000F 1])).mpr ⟨g, fun r m => by rw [e] at m; cases m⟩
  rw [((met (by decide +kernel)) : j4.cmdTurn (stackCmd 2 (.updt (updtWords 0x2000000)) [.va 0x200000F 1]) = false)] at f
  cases f

theorem witness_StackCommandsComplete_turns (h : StackCommandsComplete) :
    exec .updtComplete (due (.updtComplete 2) none j4) = .next (due (.updtComplete 2) none j4) ∧
    exec .fmtComplete (due (.fmtComplete 3) none j4) = .next (due (.fmtComplete 3) none j4) ∧
    exec .rkloadComplete (due (.rkloadComplete 4) none j4) = .next { j4 with due := j4.due ++ [⟨.rkloadComplete 4, none⟩] } :=
  ⟨((h (due (.updtComplete 2) none j4) j4 j4 2 0 1 (stackCmd 2 (.updt (updtWords 0x2000000)) [.va 0x200000F 1]) [] 0 (updtWords 0x2000000) default (met (by decide +kernel)) rfl).1
      .updtComplete (.updtComplete 2) _ (dueRest ..) (.inl ⟨rfl, rfl, rfl, (met (by decide +kernel)), rfl⟩) ⟨none, dueHead ..⟩).1 (met (by decide +kernel)),
   ((h (due (.fmtComplete 3) none j4) j4 j4 3 0 1 (stackCmd 3 (.fmt (fmtWords 0x900280 1)) [.va 0x9000FC 5]) [] 0 (fmtWords 0x900280 1) _ (met (by decide +kernel)) rfl).1
      .fmtComplete (.fmtComplete 3) _ (dueRest ..) (.inr ⟨rfl, rfl, rfl, (Option.some_get (met (by decide +kernel))).symm, (met (by decide +kernel)), rfl⟩) ⟨none, dueHead ..⟩).1 (met (by decide +kernel)),
   (h (due (.rkloadComplete 4) none j4) j4 j4 4 0 0 (stackCmd 4 (.rkload 0x900300 (BitVec.ofNat 64 (1022 * 2 ^ 10 + 2 * 2 ^ 20))) [.va 0x900103 8]) [] 0 [] default (met (by decide +kernel)) rfl).2.1
      takesDue (met (by decide +kernel))⟩

theorem witness_StackCommandsComplete_rkload (h : StackCommandsComplete) : ∃ t, exec .rkloadComplete (due (.rkloadComplete 5) none j1) = .next t := by
  obtain ⟨z, e, -⟩ := (h (due (.rkloadComplete 5) none j1) j1 _ 5 0 0 (stackCmd 5 (.rkload 0x900300 (BitVec.ofNat 64 (1022 * 2 ^ 10 + 2 * 2 ^ 20)))) _ 0 [] default (met (by decide +kernel)) rfl).2.2.1
    0x900300 (BitVec.ofNat 64 (1022 * 2 ^ 10 + 2 * 2 ^ 20)) (List.replicate 8 0) takesDue (met (by decide +kernel)) rfl (eGotEq (met (by decide +kernel)))
  exact ⟨_, e⟩

/-- The run raises counter 15 of core 1, which is spilled, or is not. -/
def raising : List Word := runWords.set 5 (BitVec.ofNat 64 (2 ^ 17 + 15 * 2 ^ 13 + 1))
@[irreducible] def j5 : State := { j1 with cmds := [stackCmd 6 (.rkrun raising [0, 1])] }
@[irreducible] def j6 : State := j5.setCore { j5.getCore 1 with holding := true }

theorem witness_StackCommandsComplete_rkrun (h : StackCommandsComplete) :
    exec .rankProgramComplete (due (.rankProgramComplete 6) none j2) = .next (due (.rankProgramComplete 6) none j2) ∧
    exec .rankProgramComplete (due (.rankProgramComplete 6) none j6) = .next (due (.rankProgramComplete 6) none j6) ∧
    (∃ t, exec .rankProgramComplete (due (.rankProgramComplete 6) none j1) = .next t) ∧
    (∃ t, exec .rankProgramComplete (due (.rankProgramComplete 6) none j5) = .next t) ∧
    ∃ t, exec .rankProgramComplete (due (.rankProgramComplete 6) none j3) = .next t :=
  ⟨((h (due (.rankProgramComplete 6) none j2) j2 j2 6 0 0 (stackCmd 6 (.rkrun runWords [0, 1])) [] 0 runWords default (met (by decide +kernel)) rfl).2.2.2 [0, 1] [0, 1] takesDue rfl (met (by decide +kernel))).1 (met (by decide +kernel)),
   ((h (due (.rankProgramComplete 6) none j6) j6 j6 6 0 0 (stackCmd 6 (.rkrun raising [0, 1])) [] 0 raising default (met (by decide +kernel)) rfl).2.2.2 [0, 1] [] takesDue rfl (met (by decide +kernel))).2.1 (met (by decide +kernel)) (met (by decide +kernel)),
   ⟨_, (((h (due (.rankProgramComplete 6) none j1) j1 j1 6 0 0 (stackCmd 6 (.rkrun runWords [0, 1])) [] 0 runWords default (met (by decide +kernel)) rfl).2.2.2 [0, 1] [] takesDue rfl (met (by decide +kernel))).2.2 (met (by decide +kernel))
     (.inl ⟨(met (by decide +kernel)), rfl⟩)).1 (met (by decide +kernel))⟩,
   ⟨_, (((h (due (.rankProgramComplete 6) none j5) j5 _ 6 0 0 (stackCmd 6 (.rkrun raising [0, 1])) [] 0 raising default (met (by decide +kernel)) rfl).2.2.2 [0, 1] [] takesDue rfl (met (by decide +kernel))).2.2 (met (by decide +kernel))
     (.inr ⟨(met (by decide +kernel)), (met (by decide +kernel)), rfl⟩)).1 (met (by decide +kernel))⟩,
   ⟨_, (((h (due (.rankProgramComplete 6) none j3) j3 j3 6 0 0 (stackCmd 6 (.rkrun runWords [0, 1])) [] 0 runWords default (met (by decide +kernel)) rfl).2.2.2 [0, 1] [0, 1] takesDue rfl (met (by decide +kernel))).2.2 (met (by decide +kernel))
     (.inl ⟨(met (by decide +kernel)), rfl⟩)).2 0 (met (by decide +kernel)) (met (by decide +kernel)) (met (by decide +kernel))⟩⟩

/-! ## The registers of a stack -/

/-- Stack 0 switches from RANK mode, and rank 0 is in a step, or is not. -/
@[irreducible] def sw5 : State := (j1.setStack 0 { j1.stack 0 with swp := true, smode := some 5 }).setRank 0 { j1.rank 0 with state := .inStep }
@[irreducible] def sw6 : State := sw5.setRank 0 { j1.rank 0 with state := .halted }

theorem witness_StackRegistersChange_switch (h : StackRegistersChange) :
    exec .modeSwitchComplete (due (.modeSwitchComplete 0) none sw5) = .next (due (.modeSwitchComplete 0) none sw5) ∧
    (∃ t, exec .modeSwitchComplete (due (.modeSwitchComplete 0) none sw6) = .next t) ∧
    exec .switchDeadline (due (.switchDeadline 0) none j1) = .next j1 ∧ ∃ t, exec .switchDeadline (due (.switchDeadline 0) none sw5) = .next t := by
  obtain ⟨v, e, -⟩ := ((h (due (.modeSwitchComplete 0) none sw6) sw6 0 _ (stackCmd 5 (.rkload 0x900300 (BitVec.ofNat 64 (1022 * 2 ^ 10 + 2 * 2 ^ 20)))) 5 owner [] 0 0 rfl).1 takesDue (met (by decide +kernel))).2 (.inr (met (by decide +kernel))) (met (by decide +kernel)) (met (by decide +kernel))
  obtain ⟨w, f, -⟩ := ((h (due (.switchDeadline 0) none sw5) sw5 0 _ (stackCmd 5 (.rkload 0x900300 (BitVec.ofNat 64 (1022 * 2 ^ 10 + 2 * 2 ^ 20)))) 5 owner [] 0 0 rfl).2.1 takesDue).2 (met (by decide +kernel)) (met (by decide +kernel)) (met (by decide +kernel))
  exact ⟨((h (due (.modeSwitchComplete 0) none sw5) sw5 0 _ (stackCmd 5 .xpose) 5 owner [] 0 0 rfl).1 takesDue (met (by decide +kernel))).1 (met (by decide +kernel)) (met (by decide +kernel)), ⟨_, e⟩,
    ((h (due (.switchDeadline 0) none j1) j1 0 _ (stackCmd 5 .xpose) 5 owner [] 0 0 rfl).2.1 takesDue).1 (met (by decide +kernel)), ⟨_, f⟩⟩

theorem witness_StackRegistersChange_ports (h : StackRegistersChange) :
    (∃ t, exec .actcfg (due (.actcfg owner [0x400800]) none j1) = .next t) ∧ ∃ t, exec .scadd (due (.scadd owner [0xFFFFFFFF]) none j1) = .next t := by
  obtain ⟨v, e, -⟩ := ((h (due (.scadd owner [0xFFFFFFFF]) none j1) j1 0 _ (stackCmd 5 .xpose) 5 owner [0xFFFFFFFF] 0 _ rfl).2.2.1 rfl).2 takesDue |>.2 (met (by decide +kernel))
  exact ⟨⟨_, ((h (due (.actcfg owner [0x400800]) none j1) j1 0 _ (stackCmd 5 .xpose) 5 owner [0x400800] 0 _ rfl).2.2.1 rfl).1 takesDue (met (by decide +kernel))⟩, ⟨_, e⟩⟩

theorem witness_StackRegistersChange_alerts (h : StackRegistersChange) :
    exec .activationAlert (due (.activationAlert 0) none sw5) = .next (due (.activationAlert 0) none sw5) ∧
    (∃ t, exec .activationAlert (due (.activationAlert 0) none j1) = .next t) ∧ ∃ t, exec .alertWindowStart (due (.alertWindowStart 0) none j1) = .next t := by
  obtain ⟨v, e, -⟩ := ((h (due (.activationAlert 0) none j1) j1 0 _ (stackCmd 5 .xpose) 5 owner [] 0 0 rfl).2.2.2.1 takesDue rfl).2 (met (by decide +kernel))
  exact ⟨((h (due (.activationAlert 0) none sw5) sw5 0 _ (stackCmd 5 .xpose) 5 owner [] 0 0 rfl).2.2.2.1 takesDue rfl).1 (met (by decide +kernel)), ⟨v, e⟩,
    ⟨_, (h (due (.alertWindowStart 0) none j1) j1 0 _ (stackCmd 5 .xpose) 5 owner [] 0 0 rfl).2.2.2.2 takesDue⟩⟩

end Sys2Proof.Tests
end

