-- ==== Sys2Proof/Tests/Witness13.lean ====
section
/-! SUPPORT. Witnesses: step words. -/

-- One theorem after the other: elaborating many at once needs more threads than the memory limit holds.
set_option Elab.async false

open Sys2Proof Sys2Proof.Machine Sys2Proof.Statements

namespace Sys2Proof.Tests

/-! ## Control words -/

/-- Rank 1 runs at the last word but one of its step store, in a group with rank 2 of its column, with a window of 3 rows;
its loop level 0 is active and ends there, on its last round. Rank 2 has taken 2^15 - 1 steps, or 2^15. Column 0 has counted 5 on its counter 15. -/
def pair : Group := ⟨1, [(2, 1), (1, 0), (1, 0), (1, 0)]⟩
def ranked (f : StepCtx → StepCtx) (steps : BitVec 16) : State :=
  let s := base.setStack 0 { base.stack 0 with mode := true }
  let s := s.setRank 1 (f { s.rank 1 with state := .running, spc := 1022, group := pair, wrow := 4, wrows := 3, loops := #v[⟨true, 1, 1000, 1022⟩, ⟨false, 0, 0, 0⟩] })
  let s := s.setRank 2 { s.rank 2 with state := .running, steps := steps }
  { s with unit := some (.rank 1), seqs := [(0, ⟨[], [(15, 5)]⟩)] }
@[irreducible] def sg1 : State := ranked id 0x7FFF
@[irreducible] def sg2 : State := ranked (fun k => { k with loops := #v[⟨true, 2, 1000, 1022⟩, ⟨true, 3, 9, 1021⟩] }) 0x8000
@[irreducible] def sg3 : State := ranked (fun k => { k with group := ⟨2, pair.dims⟩ }) 0
/-- Core 1 takes no arrivals; it belongs to another tenant. -/
@[irreducible] def sg4 : State := sg1.modCore 1 fun c => { c with holding := true }
@[irreducible] def sg5 : State := ranked (fun k => { k with tenant := 1 }) 0

theorem rankRuns {s : State} (u : s.unit = some (.rank 1)) (r : (s.rank 1).state = .running) : Running (.rank 1) (s.rank 1) s := ⟨u, rfl, r, rfl⟩

theorem witness_ControlWordsGoOn_waits (h : Obligations.ControlWordsGoOn) :
    (∃ t, exec .sHalt sg1 = .next t) ∧ exec (.sWaitPeer 0 1) sg3 = .next (sg3.failStep (.rank 1) 5) ∧
    (∃ t, exec (.sWaitPeer 0 1) sg1 = .next t) ∧ exec (.sWaitPeer 0 1) sg2 = .next (sg2.stepWait (.rank 1)) ∧
    (∃ t, exec (.sWaitCounter 15 0x8006) sg1 = .next t) ∧ exec (.sWaitCounter 15 6) sg1 = .next (sg1.stepWait (.rank 1)) :=
  ⟨⟨_, (h sg1 (.rank 1) (sg1.rank 1) (rankRuns (met (by decide +kernel)) (met (by decide +kernel)))).1⟩,
   ((h sg3 (.rank 1) (sg3.rank 1) (rankRuns (met (by decide +kernel)) (met (by decide +kernel)))).2.1 0 1).1 (met (by decide +kernel)),
   ⟨_, (((h sg1 (.rank 1) (sg1.rank 1) (rankRuns (met (by decide +kernel)) (met (by decide +kernel)))).2.1 0 1).2 2 (met (by decide +kernel))).1 (met (by decide +kernel))⟩,
   (((h sg2 (.rank 1) (sg2.rank 1) (rankRuns (met (by decide +kernel)) (met (by decide +kernel)))).2.1 0 1).2 2 (met (by decide +kernel))).2 (met (by decide +kernel)),
   ⟨_, (((h sg1 (.rank 1) (sg1.rank 1) (rankRuns (met (by decide +kernel)) (met (by decide +kernel)))).2.2.1 15 0x8006).2 1 5 rfl (met (by decide +kernel))).1 (met (by decide +kernel))⟩,
   (((h sg1 (.rank 1) (sg1.rank 1) (rankRuns (met (by decide +kernel)) (met (by decide +kernel)))).2.2.1 15 6).2 1 5 rfl (met (by decide +kernel))).2 (met (by decide +kernel))⟩

theorem witness_ControlWordsGoOn_loops (h : Obligations.ControlWordsGoOn) :
    exec (.sLoop false 1 3) sg1 = .next (sg1.failStep (.rank 1) 5) ∧ (∃ t, exec (.sLoop true 1023 0) sg1 = .next t) ∧ (∃ t, exec (.sLoop true 0 0xFFFF) sg1 = .next t) ∧
    exec (.sEndl true) sg1 = .next (sg1.failStep (.rank 1) 5) ∧ exec (.sEndl true) sg2 = .next (sg2.failStep (.rank 1) 5) ∧
    (∃ t, exec (.sEndl false) sg2 = .next t) ∧ ∃ t, exec (.sEndl false) sg1 = .next t :=
  have a := fun l' => (h sg1 (.rank 1) (sg1.rank 1) (rankRuns (met (by decide +kernel)) (met (by decide +kernel)))).2.2.2.1 false (sg1.rank 1).loops[0] l' _ rfl (fun _ _ => rfl)
  have b := fun l' => (h sg1 (.rank 1) (sg1.rank 1) (rankRuns (met (by decide +kernel)) (met (by decide +kernel)))).2.2.2.1 true (sg1.rank 1).loops[1] l' _ rfl (fun _ _ => rfl)
  have c := fun l' => (h sg2 (.rank 1) (sg2.rank 1) (rankRuns (met (by decide +kernel)) (met (by decide +kernel)))).2.2.2.1 false (sg2.rank 1).loops[0] l' _ rfl (fun _ _ => rfl)
  have d := fun l' => (h sg2 (.rank 1) (sg2.rank 1) (rankRuns (met (by decide +kernel)) (met (by decide +kernel)))).2.2.2.1 true (sg2.rank 1).loops[1] l' _ rfl (fun _ _ => rfl)
  ⟨((a default).1 1 3).1 (met (by decide +kernel)), ⟨_, ((b default).1 1023 0).2.1 (met (by decide +kernel)) rfl⟩, ⟨_, ((b default).1 0 0xFFFF).2.2 (met (by decide +kernel)) (met (by decide +kernel))⟩, (b default).2.1 (.inl (met (by decide +kernel))), (d default).2.1 (.inr (met (by decide +kernel))),
    ⟨_, ((c _).2.2 (met (by decide +kernel)) (met (by decide +kernel))).1 (met (by decide +kernel)) rfl⟩, ⟨_, ((a _).2.2 (met (by decide +kernel)) (met (by decide +kernel))).2 (met (by decide +kernel)) rfl⟩⟩

theorem witness_ControlWordsGoOn_rest (h : Obligations.ControlWordsGoOn) :
    (∃ t, exec (.sSeta 7 0xFFFFFF) sg1 = .next t) ∧ (∃ t, exec (.sAdda 7 0xFFFFFF) sg1 = .next t) ∧
    exec (.sSignal 1 15) sg5 = .next (sg5.failStep (.rank 1) 5) ∧ (∃ t, exec (.sSignal 1 15) sg4 = .next t) ∧ (∃ t, exec (.sSignal 1 15) sg1 = .next t) ∧
    (∃ t, sg1.stepTo (.rank 1) 1023 = t) ∧ ((sg1.stepTo (.rank 1) 1024).rank 1).reason = 5 :=
  have H := h sg1 (.rank 1) (sg1.rank 1) (rankRuns (met (by decide +kernel)) (met (by decide +kernel)))
  ⟨⟨_, (H.2.2.2.2.1 7 0xFFFFFF).1⟩, ⟨_, (H.2.2.2.2.1 7 0xFFFFFF).2⟩, ((h sg5 (.rank 1) (sg5.rank 1) (rankRuns (met (by decide +kernel)) (met (by decide +kernel)))).2.2.2.2.2.1 1 15).1 (met (by decide +kernel)),
   ⟨_, ((h sg4 (.rank 1) (sg4.rank 1) (rankRuns (met (by decide +kernel)) (met (by decide +kernel)))).2.2.2.2.2.1 1 15).2.1 (met (by decide +kernel)) (met (by decide +kernel))⟩, ⟨_, (H.2.2.2.2.2.1 1 15).2.2 (met (by decide +kernel)) (met (by decide +kernel))⟩,
   ⟨_, (H.2.2.2.2.2.2.2 1 1023 rfl).1 (met (by decide +kernel))⟩, ((H.2.2.2.2.2.2.2 1 1024 rfl).2 (met (by decide +kernel))).2⟩

/-! ## Collective steps -/

/-- Rank 1 with its window's addresses: a0 = 0xBFC (the last word), a1 = 0xC00 (past it), a2 = 2 (misaligned), a3 = 0. A
fragment of one word from rank 2 stands in its buffer, or one of two. -/
def regs8 : Vector (BitVec 26) 8 := #v[0xBFC, 0xC00, 2, 0, 0x400, 0x800, 0, 0]
def stepping (box : List (Nat × List Byte)) (box2 : List (Nat × List Byte)) : State :=
  let s := ranked (fun k => { k with a := regs8, inbox := box }) 0
  s.setRank 2 { s.rank 2 with inbox := box2 }
@[irreducible] def sq1 : State := stepping [(3, [9]), (2, [1, 0, 0, 0])] []
@[irreducible] def sq2 : State := stepping [] [(5, List.replicate 4096 0)]
@[irreducible] def sq3 : State := stepping [(2, List.replicate 8 1)] []
/-- The same in their step. -/
@[irreducible] def sq1' : State := sq1.modStep (.rank 1) fun k => { k with state := .inStep }
@[irreducible] def sq2' : State := sq2.modStep (.rank 1) fun k => { k with state := .inStep }
@[irreducible] def sq3' : State := sq3.modStep (.rank 1) fun k => { k with state := .inStep }

theorem mayStep {s s0 : State} (u : s.unit = some (.rank 1)) (r : (s.rank 1).state = .running) (a : (s.rank 1).advance = false)
    (o : (s.rank 1).overBudget = false) (m : InRankMode s 0) (e : s0 = s.modStep (.rank 1) fun k => { k with state := .inStep }) :
    MayStep (.rank 1) (s.rank 1) s s0 :=
  ⟨u, rfl, r, a, e, fun id e => by cases e; exact ⟨m, o⟩, fun n e => by cases e⟩

@[irreducible] def sentOf (d : Delivery) : State :=
  match d with
  | .sent s => s
  | _ => State.reset
def isSent (d : Delivery) : Bool :=
  match d with
  | .sent _ => true
  | _ => false
theorem sentEq {d : Delivery} (h : isSent d = true) : d = .sent (sentOf d) := by
  unfold isSent at h; unfold sentOf
  split at h
  · rfl
  · cases h
def isFull (d : Delivery) : Bool :=
  match d with
  | .full => true
  | _ => false
theorem fullEq {d : Delivery} (h : isFull d = true) : d = .full := by
  unfold isFull at h
  split at h
  · rfl
  · cases h
@[irreducible] def takenOf (d : Taken) : State :=
  match d with
  | .got _ s => s
  | _ => State.reset
def takenBytes (d : Taken) : Option (List Byte) :=
  match d with
  | .got b _ => some b
  | _ => none
theorem takenEq {d : Taken} {g : List Byte} (h : takenBytes d = some g) : d = .got g (takenOf d) := by
  unfold takenBytes at h; unfold takenOf
  split at h
  · cases h; rfl
  · cases h
def isNothing (d : Taken) : Bool :=
  match d with
  | .nothing => true
  | _ => false
theorem nothingEq {d : Taken} (h : isNothing d = true) : d = .nothing := by
  unfold isNothing at h
  split at h
  · rfl
  · cases h
def isWrong (d : Taken) : Bool :=
  match d with
  | .wrongLength => true
  | _ => false
theorem wrongEq {d : Taken} (h : isWrong d = true) : d = .wrongLength := by
  unfold isWrong at h
  split at h
  · rfl
  · cases h

theorem may1 : MayStep (.rank 1) (sq1.rank 1) sq1 sq1' := mayStep (met (by decide +kernel)) (met (by decide +kernel)) (met (by decide +kernel)) (met (by decide +kernel)) ⟨(met (by decide +kernel)), (met (by decide +kernel))⟩ (by unfold sq1'; rfl)
theorem may2 : MayStep (.rank 1) (sq2.rank 1) sq2 sq2' := mayStep (met (by decide +kernel)) (met (by decide +kernel)) (met (by decide +kernel)) (met (by decide +kernel)) ⟨(met (by decide +kernel)), (met (by decide +kernel))⟩ (by unfold sq2'; rfl)
theorem may3 : MayStep (.rank 1) (sq3.rank 1) sq3 sq3' := mayStep (met (by decide +kernel)) (met (by decide +kernel)) (met (by decide +kernel)) (met (by decide +kernel)) ⟨(met (by decide +kernel)), (met (by decide +kernel))⟩ (by unfold sq3'; rfl)

theorem witness_FragmentsMove_outside (h : FragmentsMove) :
    exec (.sSend 1 0 1 0) sq1 = .next (sq1'.failStep (.rank 1) 3) ∧ exec (.sCopy 2 0 0) sq1 = .next (sq1'.failStep (.rank 1) 3) :=
  ⟨(h sq1 sq1' sq1' sq1' (.rank 1) (sq1.rank 1) 1 0 0 1 0 .i32 .add 0xC00 0 4 0 0 [] [] may1 (met (by decide +kernel)) (met (by decide +kernel))).1 (.inr (met (by decide +kernel))) _ (.head _),
   (h sq1 sq1' sq1' sq1' (.rank 1) (sq1.rank 1) 2 0 0 1 0 .i32 .add 2 0 4 0 0 [] [] may1 (met (by decide +kernel)) (met (by decide +kernel))).1 (.inl (met (by decide +kernel))) _ (nth 4 rfl)⟩

theorem witness_FragmentsMove_send (h : FragmentsMove) : (∃ t, exec (.sSend 0 0 1 0) sq1 = .next t) ∧ exec (.sSend 0 0 1 0) sq2 = .next (sq2'.stepWait (.rank 1)) :=
  ⟨⟨_, ((((h sq1 sq1' _ sq1' (.rank 1) (sq1.rank 1) 0 0 0 1 0 .i32 .add 0xBFC 0 4 2 0 [] [] may1 (met (by decide +kernel)) (met (by decide +kernel))).2.1 (met (by decide +kernel)) (met (by decide +kernel))).1 (met (by decide +kernel))).1 (met (by decide +kernel))).1 (sentEq (met (by decide +kernel)))⟩,
   ((((h sq2 sq2' sq2' sq2' (.rank 1) (sq2.rank 1) 0 0 0 1 0 .i32 .add 0xBFC 0 4 2 0 [] [] may2 (met (by decide +kernel)) (met (by decide +kernel))).2.1 (met (by decide +kernel)) (met (by decide +kernel))).1 (met (by decide +kernel))).1 (met (by decide +kernel))).2 (fullEq (met (by decide +kernel)))⟩

theorem witness_FragmentsMove_recv (h : FragmentsMove) :
    (∃ t, exec (.sRecv 0 0 1 0) sq1 = .next t) ∧ exec (.sRecv 0 0 1 0) sq2 = .next (sq2'.stepWait (.rank 1)) ∧ exec (.sRecv 0 0 1 0) sq3 = .next (sq3'.failStep (.rank 1) 5) ∧
    ∃ t, exec (.sRred 0 0 1 .i32 .add 0) sq1 = .next t :=
  have g := ((h sq1 sq1' _ sq1' (.rank 1) (sq1.rank 1) 0 0 0 1 0 .i32 .add 0xBFC 0 4 2 0 [] [1, 0, 0, 0] may1 (met (by decide +kernel)) (met (by decide +kernel))).2.1 (met (by decide +kernel)) (met (by decide +kernel))).1 (met (by decide +kernel)) |>.2 (met (by decide +kernel))
  ⟨⟨_, g.1 (takenEq (met (by decide +kernel)))⟩, (((h sq2 sq2' sq2' sq2' (.rank 1) (sq2.rank 1) 0 0 0 1 0 .i32 .add 0xBFC 0 4 2 0 [] [] may2 (met (by decide +kernel)) (met (by decide +kernel))).2.1 (met (by decide +kernel)) (met (by decide +kernel))).1 (met (by decide +kernel))).2 (met (by decide +kernel)) |>.2.1 (nothingEq (met (by decide +kernel))),
   (((h sq3 sq3' sq3' sq3' (.rank 1) (sq3.rank 1) 0 0 0 1 0 .i32 .add 0xBFC 0 4 2 0 [] [] may3 (met (by decide +kernel)) (met (by decide +kernel))).2.1 (met (by decide +kernel)) (met (by decide +kernel))).1 (met (by decide +kernel))).2 (met (by decide +kernel)) |>.2.2.1 (wrongEq (met (by decide +kernel))),
   ⟨_, g.2.2.2 (takenEq (met (by decide +kernel))) (met (by decide +kernel))⟩⟩

theorem witness_FragmentsMove_rrs (h : FragmentsMove) : (∃ t, exec (.sRrs 0 0 1 .bf16 .max 0) sq1 = .next t) ∧ ∃ t, exec (.sCopy 3 0 0) sq1 = .next t :=
  ⟨⟨_, ((h sq1 sq1' _ _ (.rank 1) (sq1.rank 1) 0 0 0 1 0 .bf16 .max 0xBFC 0 4 2 2 [] [1, 0, 0, 0] may1 (met (by decide +kernel)) (met (by decide +kernel))).2.1 (met (by decide +kernel)) (met (by decide +kernel))).2.1 (met (by decide +kernel)) (met (by decide +kernel)) (met (by decide +kernel)) (takenEq (met (by decide +kernel))) (met (by decide +kernel)) (sentEq (met (by decide +kernel))) (met (by decide +kernel))⟩,
   ⟨_, ((h sq1 sq1' sq1' sq1' (.rank 1) (sq1.rank 1) 3 0 0 1 0 .i32 .add 0 0xBFC 4 0 0 [] [] may1 (met (by decide +kernel)) (met (by decide +kernel))).2.1 (met (by decide +kernel)) (met (by decide +kernel))).2.2 (met (by decide +kernel)) (met (by decide +kernel)) (met (by decide +kernel)) (met (by decide +kernel))⟩⟩

theorem witness_FragmentsMove_buffers (h : FragmentsMove) :
    (∃ t, sq1.deliver (.rank 1) 1 2 (List.replicate 4096 0) = .sent t) ∧ sq2.deliver (.rank 1) 1 2 [7] = .full ∧ (∃ t, sq1.takeFrom (.rank 1) (sq1.rank 1) 2 4 = .got [1, 0, 0, 0] t) ∧
    sq1.takeFrom (.rank 1) (sq1.rank 1) 2 8 = .wrongLength :=
  have m := fun (n p : Nat) (v : List Byte) => (h sq1 sq1' sq1' sq1' (.rank 1) (sq1.rank 1) 1 0 0 1 0 .i32 .add 0xC00 0 4 p 0 v [] may1 (met (by decide +kernel)) (met (by decide +kernel))).2.2 1
  ⟨⟨_, ((h sq1 sq1' sq1' sq1' (.rank 1) (sq1.rank 1) 1 0 0 1 0 .i32 .add 0xC00 0 4 2 0 (List.replicate 4096 0) [] may1 (met (by decide +kernel)) (met (by decide +kernel))).2.2 1 1 (sq1.rank 1) rfl).1 (met (by decide +kernel)) (met (by decide +kernel))⟩,
   ((h sq2 sq2' sq2' sq2' (.rank 1) (sq2.rank 1) 1 0 0 1 0 .i32 .add 0xC00 0 4 2 0 [7] [] may2 (met (by decide +kernel)) (met (by decide +kernel))).2.2 1 1 (sq2.rank 1) rfl).2.1 (.inr (met (by decide +kernel))),
   ⟨_, (((h sq1 sq1' sq1' sq1' (.rank 1) (sq1.rank 1) 1 0 0 1 0 .i32 .add 0xC00 0 4 2 0 [1, 0, 0, 0] [] may1 (met (by decide +kernel)) (met (by decide +kernel))).2.2 1 1 (sq1.rank 1) rfl).2.2 [(3, [9])] [] rfl (met (by decide +kernel)) (met (by decide +kernel))).trans (if_pos rfl)⟩,
   (((h sq1 sq1' sq1' sq1' (.rank 1) (sq1.rank 1) 1 0 0 1 1 .i32 .add 0xC00 0 8 2 0 [1, 0, 0, 0] [] may1 (met (by decide +kernel)) (met (by decide +kernel))).2.2 1 1 (sq1.rank 1) rfl).2.2 [(3, [9])] [] rfl (met (by decide +kernel)) (met (by decide +kernel))).trans (if_neg (met (by decide +kernel)))⟩

/-! ## Row steps -/

theorem witness_RowsCombine_bop (h : RowsCombine) : ∃ (v : List Byte) (t : State), exec (.sBop .xor 3 4 5 6 0) sq1 = .next t ∧ v.length = 1024 := by
  obtain ⟨v, e, l, -⟩ := (h sq1 sq1' sq1' (.rank 1) (sq1.rank 1) 3 4 5 6 0 0 0 1 _ _ 1 may1 (fun _ => rfl) (fun _ => rfl)).2.1 rfl (met (by decide +kernel)) .xor [4, 5] _
    (nth 4 rfl) (met (by decide +kernel)) (met (by decide +kernel))
  exact ⟨v, _, e, l⟩

theorem witness_RowsCombine_bsadd (h : RowsCombine) : ∃ (v : List Byte) (t : State), exec (.sBsadd 3 4 5 0) sq1 = .next t ∧ v.length = 1024 := by
  obtain ⟨v, e, l, -⟩ := (h sq1 sq1' sq1' (.rank 1) (sq1.rank 1) 3 4 5 6 0 0 0 1 _ _ 1 may1 (fun _ => rfl) (fun _ => rfl)).2.2.1 rfl (met (by decide +kernel)) (met (by decide +kernel)) (met (by decide +kernel)) _ _ (.head _)
  exact ⟨v, _, e, l⟩

/-- The one other rank of the column; none, where the group has ranks 1 and 17. -/
@[irreducible] def sq4 : State := sq1.modStep (.rank 1) fun k => { k with group := ⟨1, [(2, 16), (1, 0), (1, 0), (1, 0)]⟩ }
@[irreducible] def sq4' : State := sq4.modStep (.rank 1) fun k => { k with state := .inStep }
theorem may4 : MayStep (.rank 1) (sq4.rank 1) sq4 sq4' := mayStep (met (by decide +kernel)) (met (by decide +kernel)) (met (by decide +kernel)) (met (by decide +kernel)) ⟨(met (by decide +kernel)), (met (by decide +kernel))⟩ (by unfold sq4'; rfl)
@[irreducible] def mcastOf (d : StepEnd) : State :=
  match d with
  | .done s => s
  | _ => State.reset
def isMcast (d : StepEnd) : Bool :=
  match d with
  | .done _ => true
  | _ => false
theorem mcastEq {d : StepEnd} (h : isMcast d = true) : d = .done (mcastOf d) := by
  unfold isMcast at h; unfold mcastOf
  split at h
  · rfl
  · cases h

theorem witness_RowsCombine_mcast (h : RowsCombine) : (∃ t, exec (.sMcast 4 0) sq1 = .next t) ∧ ∃ t, exec (.sMcast 4 0) sq4 = .next t :=
  ⟨⟨_, ((h sq1 sq1' _ (.rank 1) (sq1.rank 1) 3 4 5 6 0 0 0 1 _ _ 1 may1 (fun _ => rfl) (fun _ => rfl)).2.2.2 rfl (met (by decide +kernel)) (met (by decide +kernel)) (met (by decide +kernel)) (met (by decide +kernel)) [2] (met (by decide +kernel))).2 (mcastEq (met (by decide +kernel)))⟩,
   ⟨_, ((h sq4 sq4' sq4' (.rank 1) (sq4.rank 1) 3 4 5 6 0 0 0 1 _ _ 1 may4 (fun _ => rfl) (fun _ => rfl)).2.2.2 rfl (met (by decide +kernel)) (met (by decide +kernel)) (met (by decide +kernel)) (met (by decide +kernel)) [] (met (by decide +kernel))).1 rfl⟩⟩

/-- A collective of package 0 alone, at its word 2 of 4, its window of one line at 0x4000 of core 0. -/
def coll0 : CollCtx := ⟨{ StepCtx.reset with state := .running, spc := 2, group := ⟨0, [(1, 0), (1, 0), (1, 0), (1, 0)]⟩ }, [0, 0, 0, 0], 4, 9, owner, 0x77, 0x4000, 1, 2, 1, true, 0, 0, [], false⟩
def inColl (f : CollCtx → CollCtx) (s : State) : State := { s with unit := some (.coll 3), fabric := { s.fabric with colls := [(3, f coll0)] } }
@[irreducible] def sc1 : State := inColl id base
@[irreducible] def sc1' : State := sc1.modStep (.coll 3) fun k => { k with state := .inStep }

theorem mayColl : MayStep (.coll 3) coll0.cx sc1 sc1' := by
  refine ⟨(met (by decide +kernel)), ?_, rfl, rfl, by unfold sc1'; rfl, fun id e => (by cases e), fun n e => (by cases e; exact (met (by decide +kernel)))⟩
  unfold State.stepCtx sc1 inColl; rfl

theorem witness_RowsCombine_fabric (h : RowsCombine) : exec (.sBop .not 0 0 0 0 63) sc1 = .next (sc1.failStep (.coll 3) 5) :=
  (h sc1 sc1' sc1' (.coll 3) coll0.cx 0 0 0 0 63 0 0 1 _ _ 0 mayColl (fun _ => rfl) (fun _ => rfl)).1 3 rfl .not _ (.head _)

/-- A fragment of the collective was refused. -/
@[irreducible] def sc2 : State := inColl (fun c => { c with refused := true }) base
/-- Rank 1 in a stack in NORMAL mode, in one that a switch is about to leave, and over its activation budget. -/
@[irreducible] def sn1 : State := sq1.setStack 0 { sq1.stack 0 with mode := false }
@[irreducible] def sn2 : State := sq1.setStack 0 { sq1.stack 0 with swp := true }
@[irreducible] def sn3 : State := ranked (fun k => { k with overBudget := true }) 0

theorem collCx {f : CollCtx → CollCtx} {s : State} : (inColl f s).stepCtx (.coll 3) = some (f coll0).cx := rfl

theorem witness_ControlWordsGoOn_coll (h : Obligations.ControlWordsGoOn) :
    exec (.sWaitCounter 0 0) sc1 = .next (sc1.failStep (.coll 3) 5) ∧ exec .sHalt sc2 = .next (sc2.failStep (.coll 3) 7) :=
  have r : Running (.coll 3) coll0.cx sc1 := ⟨(met (by decide +kernel)), by unfold sc1; exact collCx, rfl, (met (by decide +kernel))⟩
  ⟨((h sc1 (.coll 3) coll0.cx r).2.2.1 0 0).1 3 rfl,
   (h sc1 (.coll 3) coll0.cx r).2.2.2.2.2.2.1 sc2 .sHalt (met (by decide +kernel)) (by unfold sc2; exact collCx) rfl (met (by decide +kernel)) (.inr (.inr rfl))⟩

theorem witness_StepsAreRefused (h : StepsAreRefused) :
    exec (.sSend 0 0 1 0) sn1 = .next (sn1.failStep (.rank 1) 6) ∧ exec (.sRecv 0 0 1 0) sn2 = .next (sn2.failStep (.rank 1) 6) ∧
    (∃ t, exec (.sMcast 0 0) sn3 = .next t) ∧ exec (.sCopy 0 0 0) sc2 = .next (sc2.failStep (.coll 3) 7) :=
  ⟨((h sn1 (.rank 1) (sn1.rank 1) 0 0 0 1 0 .i32 .add _ (met (by decide +kernel)) rfl (met (by decide +kernel)) (.head _)).1 1 rfl).1 (fun g => absurd g.1 (met (by decide +kernel))),
   ((h sn2 (.rank 1) (sn2.rank 1) 0 0 0 1 0 .i32 .add _ (met (by decide +kernel)) rfl (met (by decide +kernel)) (.tail _ (.head _))).1 1 rfl).1 (fun g => absurd g.2 (met (by decide +kernel))),
   ⟨_, ((h sn3 (.rank 1) (sn3.rank 1) 0 0 0 1 0 .i32 .add _ (met (by decide +kernel)) rfl (met (by decide +kernel)) (nth 5 rfl)).1 1 rfl).2 ⟨(met (by decide +kernel)), (met (by decide +kernel))⟩ (met (by decide +kernel))⟩,
   (h sc2 (.coll 3) coll0.cx 0 0 0 1 0 .i32 .add _ (met (by decide +kernel)) (by unfold sc2; exact collCx) rfl (nth 4 rfl)).2 3 rfl (met (by decide +kernel))⟩

/-! ## Ends of steps -/

/-- Rank 1 awaits its boundary, with bytes staged at the last word of its window; and runs, waiting since cycle 5 with a time-out of 1 us. -/
@[irreducible] def se1 : State := ranked (fun k => { k with state := .inStep, advance := true, staged := [(0xBFC, [1, 2, 3, 4])] }) 0
def late (c : Nat) : State := { ranked (fun k => { k with since := some 5, tmo := 1 }) 0 with cycle := BitVec.ofNat 64 c }
@[irreducible] def se2 : State := late 1405
@[irreducible] def se3 : State := late 1404
@[irreducible] def se4 : State := ranked (fun k => { k with state := .halted }) 0
/-- The collective likewise. -/
@[irreducible] def se5 : State := inColl (fun c => { c with cx := { c.cx with state := .inStep, advance := true, staged := [(0x7C, [1, 2, 3, 4])] } }) base

theorem dueRank {a : Act} {t : Option Nat} {s : State} {id : BitVec 14} : (due a t s).stepCtx (.rank id) = some (s.rank id.toNat) := rfl

theorem witness_StepsEnd_boundary (h : StepsEnd) :
    exec .stepBoundary (due (.stepBoundary (.rank 1)) none se4) = .next se4 ∧ (∃ t, exec .stepBoundary (due (.stepBoundary (.rank 1)) none se1) = .next t) ∧
    ∃ t, exec .stepBoundary (due (.stepBoundary (.coll 3)) none se5) = .next t :=
  ⟨((h (due (.stepBoundary (.rank 1)) none se4) se4 (.rank 1) _ coll0 0 0 dueRank).1 takesDue).1 (.inl (met (by decide +kernel))),
   ⟨_, (((h (due (.stepBoundary (.rank 1)) none se1) se1 (.rank 1) _ coll0 0 0 dueRank).1 takesDue).2 (met (by decide +kernel)) (met (by decide +kernel))).1 1 rfl⟩,
   ⟨_, (((h (due (.stepBoundary (.coll 3)) none se5) se5 (.coll 3) { coll0.cx with state := .inStep, advance := true, staged := [(0x7C, [1, 2, 3, 4])] } _ 0 0
      (by unfold State.stepCtx due se5 inColl; rfl)).1 takesDue).2 rfl rfl).2 3 rfl (by unfold due se5 inColl; rfl) (.inr (met (by decide +kernel)))⟩⟩

theorem witness_StepsEnd_failures (h : StepsEnd) :
    exec .peerTimeout (due (.peerTimeout (.rank 1)) none se1) = .next se1 ∧ exec .peerTimeout (due (.peerTimeout (.rank 1)) none se2) = .next (se2.failStep (.rank 1) 1) ∧
    exec .peerTimeout (due (.peerTimeout (.rank 1)) none se3) = .next se3 ∧
    exec .invalidStep (due (.invalidStep (.rank 1) 0) none se3) = .next (se3.failStep (.rank 1) 5) ∧ exec .invalidStep (due (.invalidStep (.rank 1) 0) none se4) = .next se4 :=
  ⟨((h (due (.peerTimeout (.rank 1)) none se1) se1 (.rank 1) _ coll0 0 0 dueRank).2.1 takesDue).1 (met (by decide +kernel)),
   ((h (due (.peerTimeout (.rank 1)) none se2) se2 (.rank 1) _ coll0 0 5 dueRank).2.1 takesDue).2.1 (met (by decide +kernel)) (.inl (met (by decide +kernel))) (met (by decide +kernel)),
   ((h (due (.peerTimeout (.rank 1)) none se3) se3 (.rank 1) _ coll0 0 5 dueRank).2.1 takesDue).2.2 (met (by decide +kernel)) (met (by decide +kernel)),
   ((h (due (.invalidStep (.rank 1) 0) none se3) se3 (.rank 1) _ coll0 0 0 dueRank).2.2 takesDue).1 (.inl (met (by decide +kernel))),
   ((h (due (.invalidStep (.rank 1) 0) none se4) se4 (.rank 1) _ coll0 0 0 dueRank).2.2 takesDue).2 (met (by decide +kernel)) (met (by decide +kernel))⟩

end Sys2Proof.Tests
end

