-- ==== Sys2Proof/Tests/Witness14.lean ====
section
/-! SUPPORT. Witnesses: the fabric's instructions and the commands of q3. -/

-- One theorem after the other: elaborating many at once needs more threads than the memory limit holds.
set_option Elab.async false

open Sys2Proof Sys2Proof.Machine Sys2Proof.Statements

namespace Sys2Proof.Tests

/-! ## COLL -/

/-- x1 points to the descriptor of a collective of package 0 alone: 4 words, a window that ends at 0xC000, 2 lines. -/
def collWords : List Word := [4 * 2 ^ 16, 0x180000001, 0x180000001, 0x900080, 0xBF00 + 2 * 2 ^ 16, 2 + 16 * 2 ^ 4, 0x77, 0]
@[irreducible] def fc1 : State := withX [(1, 0x900000)] (base.poke (2 ^ 48 + 0x100000) (bytesOfWords collWords))

theorem witness_CollectivesRun_issue (h : CollectivesRun) : ∃ t, exec (.coll 9 (.x 1)) fc1 = .next t :=
  issued ((h fc1 fc1 (ran (memLoad 0x900000 64 fc1.ctx.modPrimal) fc1) _ fc1 9 (.x 1) 0x900000 (bytesOfWords collWords) (List.replicate 16 0) _ 0 4 0 default coll0 default).1
    (solo (met (by decide +kernel))) (readsX (met (by decide +kernel)) (met (by decide +kernel))) (met (by decide +kernel)) (runs (met (by decide +kernel))) rfl (met (by decide +kernel)) (met (by decide +kernel)) rfl (met (by decide +kernel)) (met (by decide +kernel)) (fun e => absurd e (met (by decide +kernel))) (met (by decide +kernel)) (met (by decide +kernel)) (met (by decide +kernel)) (runs (met (by decide +kernel)))).1

/-- Command 9 is a collective's, that runs; that has halted; that has failed for a refused fragment. -/
def fcEnd (f : CollCtx → CollCtx) : State := { inColl f base with cmds := [stackCmd 9 .coll] }
def coll1 (st : StepState) (r : BitVec 4) : CollCtx := { coll0 with cx := { coll0.cx with state := st, reason := r } }
@[irreducible] def fc2 : State := fcEnd (fun _ => coll1 .inStep 0)
@[irreducible] def fc3 : State := fcEnd (fun _ => coll1 .halted 0)
@[irreducible] def fc4 : State := fcEnd (fun _ => coll1 .failed 7)

theorem witness_CollectivesRun_end (h : CollectivesRun) :
    exec .collComplete (due (.collComplete 9) none fc2) = .next (due (.collComplete 9) none fc2) ∧ (∃ t, exec .collComplete (due (.collComplete 9) none fc3) = .next t) ∧
    ∃ t, exec .collComplete (due (.collComplete 9) none fc4) = .next t :=
  have g := fun (f : State) (k : CollCtx) => (h (due (.collComplete 9) none f) f f f f 9 (.x 1) 0 [] [] [] 3 0 9 (stackCmd 9 .coll) k (fun e => e.2.cmd == 9)).2 (fun _ => rfl) takesDue
  ⟨(g fc2 (coll1 .inStep 0) (met (by decide +kernel)) (by unfold due fc2 fcEnd inColl; rfl)).1 (.inr rfl), ⟨_, (g fc3 (coll1 .halted 0) (met (by decide +kernel)) (by unfold due fc3 fcEnd inColl; rfl)).2.1 rfl⟩,
   ⟨_, (g fc4 (coll1 .failed 7) (met (by decide +kernel)) (by unfold due fc4 fcEnd inColl; rfl)).2.2 rfl⟩⟩

/-! ## DOMBAR and FSTAT -/

/-- Generation 7 is in force, 8 pending; x1 = 7, x2 = 8, x3 = 9, x4 to x8 selectors. A request is under way; the strand is
at USER level. -/
def inDomain (s : State) : State := { s with fabric := { s.fabric with member := true, kgen := 7, target := some 8, members := [0, 1, 1023] } }
@[irreducible] def fd1 : State := inDomain (withX [(1, 7), (2, 8), (3, 9), (4, 1), (5, 2), (6, 3), (7, 0x770100), (8, 4)] base)
def reqOf (use : ReqUse) : Request := ⟨owner, 0x44, 8, 1405, use⟩
def asking (use : ReqUse) (s : State) : State := { s with fabric := { s.fabric with reqs := [(5, reqOf use)] } }
@[irreducible] def fd2 : State := asking .posted fd1
@[irreducible] def fd3 : State := fd1.mapCtx fun k => { k with status := 0 }

/-- The leader, of which every other member has reported, or one has not; a command of q3 is under way. -/
@[irreducible] def fd4 : State := { fd1 with fabric := { fd1.fabric with leader := true, reported := [1, 1023] } }
@[irreducible] def fd5 : State := { fd1 with fabric := { fd1.fabric with leader := true, reported := [1] } }
@[irreducible] def fd6 : State := { fd1 with due := [⟨.rlaunch owner [], none⟩] }

theorem noneDue {s : State} (e : s.due = []) : ∀ y ∈ s.due, ∀ w ws, y.act ≠ .rsend w ws ∧ y.act ≠ .rlaunch w ws := by
  intro y hy; rw [e] at hy; cases hy

theorem witness_DomainIsAwaitedAndRead_dombar (h : DomainIsAwaitedAndRead) :
    (∃ t, exec (.dombar (.x 9) (.x 1)) fd3 = .next t) ∧ (∃ t, exec (.dombar (.x 9) (.x 1)) fd1 = .next t) ∧ (∃ t, exec (.dombar (.x 9) (.x 2)) fd1 = .next t) ∧
    (∃ t, exec (.dombar (.x 9) (.x 2)) fd4 = .next t) ∧ (∃ t, exec (.dombar (.x 9) (.x 2)) fd5 = .next t) ∧
    exec (.dombar (.x 9) (.x 2)) fd2 = .next fd2 ∧ exec (.dombar (.x 9) (.x 2)) fd6 = .next fd6 ∧ ∃ t, exec (.dombar (.x 9) (.x 3)) fd1 = .next t :=
  ⟨⟨_, (h fd3 fd3 fd3 (.x 9) (.x 1) 7 0 _ (solo (met (by decide +kernel))) (readsX (met (by decide +kernel)) (met (by decide +kernel))) rfl).1 (met (by decide +kernel))⟩,
   ⟨_, ((h fd1 fd1 _ (.x 9) (.x 1) 7 0 _ (solo (met (by decide +kernel))) (readsX (met (by decide +kernel)) (met (by decide +kernel))) rfl).2.1 (met (by decide +kernel))).1 (met (by decide +kernel)) (writesX (v' := 7) (met (by decide +kernel)) (met (by decide +kernel)))⟩,
   ⟨_, ((((h fd1 fd1 fd1 (.x 9) (.x 2) 8 0 _ (solo (met (by decide +kernel))) (readsX (met (by decide +kernel)) (met (by decide +kernel))) rfl).2.1 (met (by decide +kernel))).2.1 (met (by decide +kernel)) (met (by decide +kernel))).1 (met (by decide +kernel)) (noneDue (met (by decide +kernel)))).1 (met (by decide +kernel))⟩,
   ⟨_, ((((h fd4 fd4 fd4 (.x 9) (.x 2) 8 0 _ (solo (met (by decide +kernel))) (readsX (met (by decide +kernel)) (met (by decide +kernel))) rfl).2.1 (met (by decide +kernel))).2.1 (met (by decide +kernel)) (met (by decide +kernel))).1 (met (by decide +kernel)) (noneDue (met (by decide +kernel)))).2 (met (by decide +kernel))⟩,
   ⟨_, ((((h fd5 fd5 fd5 (.x 9) (.x 2) 8 0 _ (solo (met (by decide +kernel))) (readsX (met (by decide +kernel)) (met (by decide +kernel))) rfl).2.1 (met (by decide +kernel))).2.1 (met (by decide +kernel)) (met (by decide +kernel))).1 (met (by decide +kernel)) (noneDue (met (by decide +kernel)))).2 (met (by decide +kernel))⟩,
   (((h fd2 fd2 fd2 (.x 9) (.x 2) 8 0 _ (solo (met (by decide +kernel))) (readsX (met (by decide +kernel)) (met (by decide +kernel))) rfl).2.1 (met (by decide +kernel))).2.1 (met (by decide +kernel)) (met (by decide +kernel))).2 (.inl (met (by decide +kernel))),
   (((h fd6 fd6 fd6 (.x 9) (.x 2) 8 0 _ (solo (met (by decide +kernel))) (readsX (met (by decide +kernel)) (met (by decide +kernel))) rfl).2.1 (met (by decide +kernel))).2.1 (met (by decide +kernel)) (met (by decide +kernel))).2 (.inr ⟨⟨.rlaunch owner [], none⟩, (met (by decide +kernel)), owner, [], .inr rfl⟩),
   ⟨_, ((h fd1 fd1 fd1 (.x 9) (.x 3) 9 0 _ (solo (met (by decide +kernel))) (readsX (met (by decide +kernel)) (met (by decide +kernel))) rfl).2.1 (met (by decide +kernel))).2.2 (met (by decide +kernel)) (met (by decide +kernel))⟩⟩

theorem witness_DomainIsAwaitedAndRead_fstat (h : DomainIsAwaitedAndRead) :
    (∃ t, exec (.fstat (.x 9) (.x 0)) fd1 = .next t) ∧ (∃ t, exec (.fstat (.x 9) (.x 4)) fd1 = .next t) ∧ (∃ t, exec (.fstat (.x 9) (.x 5)) fd1 = .next t) ∧
    (∃ t, exec (.fstat (.x 9) (.x 6)) fd1 = .next t) ∧ (∃ t, exec (.fstat (.x 9) (.x 7)) fd1 = .next t) ∧ ∃ t, exec (.fstat (.x 9) (.x 8)) fd1 = .next t :=
  ⟨⟨_, (h fd1 fd1 _ (.x 9) (.x 0) 0 _ _ (solo (met (by decide +kernel))) (readsX (met (by decide +kernel)) (met (by decide +kernel))) rfl).2.2.1 (.inl ⟨rfl, rfl⟩) (writesX (v' := BitVec.ofNat 64 (2 ^ 10 + 2 ^ 12 + 7 * 2 ^ 32)) (met (by decide +kernel)) (met (by decide +kernel)))⟩,
   ⟨_, (h fd1 fd1 _ (.x 9) (.x 4) 1 _ _ (solo (met (by decide +kernel))) (readsX (met (by decide +kernel)) (met (by decide +kernel))) rfl).2.2.1 (.inr (.inl ⟨rfl, rfl⟩)) (writesX (v' := BitVec.ofNat 64 (8 + 3 * 2 ^ 32)) (met (by decide +kernel)) (met (by decide +kernel)))⟩,
   ⟨_, (h fd1 fd1 _ (.x 9) (.x 5) 2 _ _ (solo (met (by decide +kernel))) (readsX (met (by decide +kernel)) (met (by decide +kernel))) rfl).2.2.1 (.inr (.inr (.inl ⟨rfl, rfl⟩))) (writesX (v' := 0) (met (by decide +kernel)) (met (by decide +kernel)))⟩,
   ⟨_, (h fd1 fd1 _ (.x 9) (.x 6) 3 _ _ (solo (met (by decide +kernel))) (readsX (met (by decide +kernel)) (met (by decide +kernel))) rfl).2.2.1 (.inr (.inr (.inr (.inl ⟨rfl, rfl⟩)))) (writesX (v' := 0x3FFFF) (met (by decide +kernel)) (met (by decide +kernel)))⟩,
   ⟨_, (h fd1 fd1 _ (.x 9) (.x 7) 0x770100 _ _ (solo (met (by decide +kernel))) (readsX (met (by decide +kernel)) (met (by decide +kernel))) rfl).2.2.1 (.inr (.inr (.inr (.inr ⟨(met (by decide +kernel)), (met (by decide +kernel)), rfl⟩)))) (writesX (v' := 0) (met (by decide +kernel)) (met (by decide +kernel)))⟩,
   ⟨_, (h fd1 fd1 fd1 (.x 9) (.x 8) 4 0 _ (solo (met (by decide +kernel))) (readsX (met (by decide +kernel)) (met (by decide +kernel))) rfl).2.2.2 (met (by decide +kernel)) (.inl (met (by decide +kernel)))⟩⟩

/-! ## q3 -/

/-- The second command's outcome stands until the first's is there; of two with one number the older takes it. -/
theorem witness_ResultsKeepTheirOrder (h : ResultsKeepTheirOrder) (p : Port) :
    (p.land [(1, none), (2, some 5)]).results = p.results ++ [] ∧ settleFlight 2 5 ([(1, none), (2, some 4)] ++ (2, none) :: [(2, none)]) = [(1, none), (2, some 4), (2, some 5), (2, none)] :=
  ⟨(h p [(1, none), (2, some 5)] [] [] 0 0).1.1, (h p [] [(1, none), (2, some 4)] [(2, none)] 2 5).2 (met (by decide +kernel))⟩

/-- RSEND of one block of 64 bytes, or of 16, to package p and core c, its counter 15 and its lines, to the last block of a
window or past it; a launch for a core; a window of 256 bytes of the pool at slot 15, or of the windows, and its end. -/
def sendWords (p c : Nat) (off : Word) : List Word := [BitVec.ofNat 64 (p + c * 2 ^ 10 + 15 * 2 ^ 23 + 2 ^ 27), off, 0x1000, 1, 2, 3, 4, 5, 6, 7, 8]
def longWords : List Word := [BitVec.ofNat 64 (1023 + 2 ^ 10 + 15 * 2 ^ 23 + 2 ^ 27 + 15 * 2 ^ 28), 0, 0x1000] ++ List.replicate 128 3
def launchWords (p c : Nat) : List Word := [BitVec.ofNat 64 p, 0, BitVec.ofNat 64 c, 0x100, 7, 8]
def rwinWords (on : Nat) (va : Word) : List Word := [BitVec.ofNat 64 (15 + 2 * 2 ^ 4 + on * 2 ^ 6), va, 256, BitVec.ofNat 64 (1 + 9 * 2 ^ 13)]
def grantWords : List Word := [0, 7, 8, 9]
def inForce (s : State) : State := { s with fabric := { s.fabric with member := true, kgen := 7, members := [0, 1, 1023] } }
@[irreducible] def ff1 : State := inForce base
/-- Core 16 belongs to another tenant; the block's last bytes are in error; core 1 is spilled, or in a compute phase, or its
queue of launches is full; requests are held; a grant stands; window 15 is open. -/
@[irreducible] def ff3 : State := ff1.setCluster (clusterOf 16) { Cluster.reset with xten := 1 }
@[irreducible] def ff4 : State := { ff1 with bad := [(2 ^ 49 + 0x1038) / 8] }
@[irreducible] def ff5 : State := ff1.modCore 1 fun c => { c with holding := true }
@[irreducible] def ff6 : State := ff1.modCore 1 fun c => { c with front := { c.front with life := .live, phase := 1 } }
@[irreducible] def ff7 : State := ff1.modCore 1 fun c => { c with launchQ := List.replicate 4 default }
@[irreducible] def ff8 : State := { ff1 with fabric := { ff1.fabric with arrived := true, target := some 8 } }
@[irreducible] def ff9 : State := { ff1 with grants := [⟨0, 7, 8⟩], fabric := { ff1.fabric with windows := [(15, ⟨true, 2, 2 ^ 48, 256, 1, 9⟩)] } }

theorem witness_FabricCommandsAct_rsend (h : FabricCommandsAct) :
    (∃ t, exec .rsend (due (.rsend owner (sendWords 0 1 0xBFC0)) none ff4) = .next t) ∧
    (∃ t, exec .rsend (due (.rsend owner (sendWords 2 1 0xBFC0)) none ff1) = .next t) ∧ (∃ t, exec .rsend (due (.rsend owner (sendWords 0 1 0xBFC1)) none ff1) = .next t) ∧
    (∃ t, exec .rsend (due (.rsend owner (sendWords 0 16 0xBFC0)) none ff3) = .next t) ∧
    exec .rsend (due (.rsend owner (sendWords 0 1 0xBFC0)) none ff5) = .next (due (.rsend owner (sendWords 0 1 0xBFC0)) none ff5) ∧
    (∃ t, exec .rsend (due (.rsend owner (sendWords 0 1 0xBFC0)) none ff6) = .next t) ∧ ∃ t, exec .rsend (due (.rsend owner (sendWords 0 1 0xBFC0)) none ff1) = .next t := by
  have g := fun (s : State) (p c : Nat) (off : Word) =>
    (h (due (.rsend owner (sendWords p c off)) none s) s s owner (sendWords p c off) _ _ default _ _ 0 _ 0 0 default default _ _ rfl rfl rfl rfl).1 takesDue rfl rfl rfl
  obtain ⟨F, e, -⟩ := (((g ff1 0 1 0xBFC0).2.2.1 (met (by decide +kernel)) (met (by decide +kernel)) (met (by decide +kernel))).2.2 (met (by decide +kernel)) (met (by decide +kernel))).2.2 (met (by decide +kernel)) (met (by decide +kernel)) (named (met (by decide +kernel))) (.inr (met (by decide +kernel)))
  exact ⟨⟨_, (g ff4 0 1 0xBFC0).1 (met (by decide +kernel))⟩, ⟨_, (g ff1 2 1 0xBFC0).2.1 (met (by decide +kernel)) (met (by decide +kernel))⟩, ⟨_, ((g ff1 0 1 0xBFC1).2.2.1 (met (by decide +kernel)) (met (by decide +kernel)) (met (by decide +kernel))).1 (met (by decide +kernel))⟩,
    ⟨_, ((g ff3 0 16 0xBFC0).2.2.1 (met (by decide +kernel)) (met (by decide +kernel)) (met (by decide +kernel))).2.1 (met (by decide +kernel)) (met (by decide +kernel))⟩, (((g ff5 0 1 0xBFC0).2.2.1 (met (by decide +kernel)) (met (by decide +kernel)) (met (by decide +kernel))).2.2 (met (by decide +kernel)) (met (by decide +kernel))).1 (met (by decide +kernel)),
    ⟨_, (((g ff6 0 1 0xBFC0).2.2.1 (met (by decide +kernel)) (met (by decide +kernel)) (met (by decide +kernel))).2.2 (met (by decide +kernel)) (met (by decide +kernel))).2.1 (met (by decide +kernel)) (named (met (by decide +kernel))) (met (by decide +kernel)) (met (by decide +kernel))⟩, ⟨_, e⟩⟩

theorem witness_FabricCommandsAct_away (h : FabricCommandsAct) :
    exec .rsend (due (.rsend owner (sendWords 1023 1 0xBFC0)) none ff8) = .next (due (.rsend owner (sendWords 1023 1 0xBFC0)) none ff8) ∧
    (∃ t, exec .rsend (due (.rsend owner (sendWords 1023 1 0xBFC0)) none ff1) = .next t) ∧
    ∃ t, exec .rsend (due (.rsend owner longWords) none ff1) = .next t ∧ t.fabric.sent.length = 0 + (1024 + 511) / 512 := by
  have g := fun (s : State) (ws : List Word) (pk : Packet) =>
    (h (due (.rsend owner ws) none s) s s owner ws _ _ default _ _ 0 _ 0 0 default pk _ _ rfl rfl rfl rfl).1 takesDue rfl rfl rfl |>.2.2.2
  obtain ⟨t, e, l, -⟩ := ((g ff1 longWords default (met (by decide +kernel)) (met (by decide +kernel)) (met (by decide +kernel))).2 (met (by decide +kernel)) (met (by decide +kernel)) (met (by decide +kernel))).2
  refine ⟨(g ff8 (sendWords 1023 1 0xBFC0) default (met (by decide +kernel)) (met (by decide +kernel)) (met (by decide +kernel))).1 (.inl (met (by decide +kernel))), ⟨_, ((g ff1 (sendWords 1023 1 0xBFC0) _ (met (by decide +kernel)) (met (by decide +kernel)) (met (by decide +kernel))).2 (met (by decide +kernel)) (met (by decide +kernel)) (met (by decide +kernel))).1 (met (by decide +kernel)) rfl⟩, t, e, l.trans ?_⟩
  rw [((met (by decide +kernel)) : (due (.rsend owner longWords) none ff1).fabric.sent.length = 0), ((met (by decide +kernel)) : ((longWords.drop 3).flatMap fun v => bytesOfNat 8 v.toNat).length = 1024)]

theorem witness_FabricCommandsAct_rlaunch (h : FabricCommandsAct) :
    (∃ t, exec .rlaunch (due (.rlaunch owner (launchWords 2 1)) none ff1) = .next t) ∧ (∃ t, exec .rlaunch (due (.rlaunch owner (launchWords 0 16)) none ff3) = .next t) ∧
    (∃ t, exec .rlaunch (due (.rlaunch owner (launchWords 0 1)) none ff1) = .next t) ∧
    exec .rlaunch (due (.rlaunch owner (launchWords 0 1)) none ff7) = .next (due (.rlaunch owner (launchWords 0 1)) none ff7) ∧
    exec .rlaunch (due (.rlaunch owner (launchWords 1023 1)) none ff8) = .next (due (.rlaunch owner (launchWords 1023 1)) none ff8) ∧
    ∃ t, exec .rlaunch (due (.rlaunch owner (launchWords 1023 1)) none ff1) = .next t :=
  have g := fun (s v : State) (p c : Nat) =>
    (h (due (.rlaunch owner (launchWords p c)) none s) s v owner (launchWords p c) _ _ (launchRecOf [BitVec.ofNat 64 c, 0x100, 7, 8]) [] 0 0 _ 0 0 default default _ false
      rfl rfl rfl rfl).2.1 takesDue rfl
  ⟨⟨_, (g ff1 ff1 2 1).1 (met (by decide +kernel))⟩, ⟨_, ((g ff3 ff3 0 16).2.1 (met (by decide +kernel)) (met (by decide +kernel))).1 (met (by decide +kernel))⟩, ⟨_, ((g ff1 _ 0 1).2.1 (met (by decide +kernel)) (met (by decide +kernel))).2.1 (met (by decide +kernel)) (Option.some_get (met (by decide +kernel))).symm⟩,
   ((g ff7 ff7 0 1).2.1 (met (by decide +kernel)) (met (by decide +kernel))).2.2 (met (by decide +kernel)) (met (by decide +kernel)), ((g ff8 ff8 1023 1).2.2 (met (by decide +kernel)) (met (by decide +kernel))).1 (.inl (met (by decide +kernel))), ⟨_, ((g ff1 ff1 1023 1).2.2 (met (by decide +kernel)) (met (by decide +kernel))).2 (met (by decide +kernel)) (met (by decide +kernel))⟩⟩

def eNat (m : E Phys) (s : State) : Option Phys :=
  match m (s, []) with
  | .ok (b, _) => some b
  | .error _ => none
@[irreducible] def eNatLeft (m : E Phys) (s : State) : State × List RemoteVal :=
  match m (s, []) with
  | .ok (_, p) => p
  | .error _ => (s, [])
theorem eNatEq {m : E Phys} {s : State} {b : Phys} (h : eNat m s = some b) : m (s, []) = .ok (b, ((eNatLeft m s).1, (eNatLeft m s).2)) := by
  unfold eNat at h; unfold eNatLeft
  cases e : m (s, []) with
  | ok p => rw [e] at h; cases h; rfl
  | error x => rw [e] at h; cases h
def pFault (m : E Phys) (s : State) : Option (BitVec 8) :=
  match m (s, []) with
  | .error (.fault c) => some c
  | _ => none
theorem pFaultEq {m : E Phys} {s : State} {c : BitVec 8} (h : pFault m s = some c) : m (s, []) = .error (.fault c) := by
  unfold pFault at h
  split at h
  · next e => cases h; exact e
  · cases h

theorem witness_FabricCommandsAct_rwin (h : FabricCommandsAct) :
    (∃ t, exec .rwin (due (.rwin owner (rwinWords 0 0)) none ff1) = .next t) ∧ (∃ t, exec .rwin (due (.rwin owner (rwinWords 1 0x700000)) none ff1) = .next t) ∧
    (∃ t, exec .rwin (due (.rwin owner (rwinWords 1 0x1800000)) none ff1) = .next t) ∧ ∃ t, exec .rwin (due (.rwin owner (rwinWords 1 0x900000)) none ff1) = .next t :=
  have g := fun (v : State) (on : Nat) (va : Word) pa win e =>
    ((h (due (.rwin owner (rwinWords on va)) none ff1) ff1 v owner (rwinWords on va) _ _ default [] 0 15 _ pa 0 win default _ false rfl rfl rfl rfl).2.2.1 e).1 takesDue
  ⟨⟨_, (g ff1 0 0 0 default (met (by decide +kernel))).1 (met (by decide +kernel))⟩, ⟨_, (g ff1 1 0x700000 0 default (met (by decide +kernel))).2.1 0x05 (met (by decide +kernel)) (pFaultEq (met (by decide +kernel)))⟩,
   ⟨_, ((g _ 1 0x1800000 0 default (met (by decide +kernel))).2.2 _ _ (met (by decide +kernel)) (eNatEq (Option.some_get (met (by decide +kernel))).symm)).1 (met (by decide +kernel))⟩,
   ⟨_, ((g _ 1 0x900000 _ _ (met (by decide +kernel))).2.2 _ _ (met (by decide +kernel)) (eNatEq (Option.some_get (met (by decide +kernel))).symm)).2 (.inl (met (by decide +kernel))) rfl rfl⟩⟩

theorem witness_FabricCommandsAct_rwinEnd (h : FabricCommandsAct) :
    (∃ t, exec .rwinComplete (due (.rwinComplete owner (rwinWords 1 0x900000)) none ff9) = .next t) ∧
    ∃ t, exec .rwinComplete (due (.rwinComplete owner (rwinWords 0 0)) none ff9) = .next t :=
  have g := fun (on : Nat) (va : Word) win e =>
    ((h (due (.rwinComplete owner (rwinWords on va)) none ff9) ff9 ff9 owner (rwinWords on va) _ _ default [] 0 15 _ 0 0 win default _ false rfl rfl rfl rfl).2.2.1 e).2 takesDue
  ⟨⟨_, (g 1 0x900000 default (met (by decide +kernel))).1 (met (by decide +kernel))⟩, ⟨_, (g 0 0 ⟨true, 2, 2 ^ 48, 256, 1, 9⟩ (met (by decide +kernel))).2 (met (by decide +kernel)) (met (by decide +kernel))⟩⟩

theorem witness_FabricCommandsAct_dkgrant (h : FabricCommandsAct) :
    (∃ t, exec .dkgrant (due (.dkgrant owner grantWords) none ff1) = .next t) ∧ exec .dumpKeyRelease (due (.dumpKeyRelease 7 9) none ff9) = .next ff9 ∧
    ∃ t, exec .dumpKeyRelease (due (.dumpKeyRelease 7 8) none ff9) = .next t :=
  have g := fun (salt : BitVec 128) => (h (due (.dumpKeyRelease 7 salt) none ff9) ff9 ff9 owner grantWords _ _ default [] 0 0 _ 0 0 default default _ false rfl rfl rfl rfl).2.2.2.2
    7 salt ⟨0, 7, 8⟩ takesDue
  ⟨⟨_, (h (due (.dkgrant owner grantWords) none ff1) ff1 ff1 owner grantWords _ _ default [] 0 0 _ 0 0 default default _ false rfl rfl rfl rfl).2.2.2.1 takesDue⟩,
   (g 9).1 (met (by decide +kernel)), ⟨_, (g 8).2 (met (by decide +kernel))⟩⟩

end Sys2Proof.Tests
end

