-- ==== Sys2Proof/Tests/Witness15.lean ====
section
/-! SUPPORT. Witnesses: the packets of the fabric. -/

-- One theorem after the other: elaborating many at once needs more threads than the memory limit holds.
set_option Elab.async false

open Sys2Proof Sys2Proof.Machine Sys2Proof.Statements

namespace Sys2Proof.Tests

/-! ## Requests -/

/-- Package 0 stands in generation 7 with packages 1 and 1023, and switch 2000; package 1 likewise. -/
def among (s : State) : State := { s with fabric := { s.fabric with member := true, kgen := 7, members := [0, 1, 1023, 2000] } }
@[irreducible] def one : State := among { base with pkgid := 1 }
/-- A packet with its tag under the key of (via, 0). -/
def sealed (via : BitVec 12) (p : Packet) : Packet :=
  let q := { p with via := via }
  { q with mac := (sealPacket (hkdf 0 ([0x43, 0x4C, 0x45, 0x41, 0x53, 0x48, 0x20, 0x50, 0x41, 0x49, 0x52] ++ bytesOfNat 4 (7#32).toNat ++
    bytesOfNat 2 via.toNat ++ bytesOfNat 2 (0#10).toNat)) q).2 }
/-- A packet of package 1 to package 0, of a tenant, to an offset of the pool or the stacks. -/
def fromOne (type : Nat) (vc : BitVec 2) (dw1 : Word) (bs : List Byte) (tenant : BitVec 6 := 0) (ty : BitVec 12 := 1) (red : Bool := false) : Packet :=
  sealed ty (one.packet type 0 vc 5 0 red dw1 tenant bs)
def poolOff : Nat := 2 ^ 40 + 0x100000
/-- A read of 8 bytes; one of no tenant's bytes; a write; an atomic exchange of two numbers; an addition of FP32, and one that
switch 2000 merged of 3; a read where a step runs. -/
def pRead : Packet := fromOne 0 0 (dw1Of poolOff 0 0 0 0) [8]
def pNone : Packet := fromOne 0 0 (dw1Of (2 ^ 40 + 2 ^ 32) 0 0 0 0) [8]
def pWrite : Packet := fromOne 2 0 (dw1Of poolOff 0 0 0 0) [1, 2]
def pAtomic : Packet := fromOne 4 0 (dw1Of poolOff 0 0 0 6) (bytesOfNat 8 77 ++ bytesOfNat 8 78)
def pRed : Packet := fromOne 6 0 (dw1Of poolOff 0 2 0 0) (bytesOfNat 4 0x3F800000) (red := true)
def pMerged : Packet := fromOne 6 0 (dw1Of poolOff 0 2 0 0) (bytesOfNat 4 0x3F800000 ++ bytesOfNat 4 3) 0 2000 true
def pStep : Packet := fromOne 0 0 (dw1Of 0 0 0 0 0) [8]
/-- Bytes at the offset; rank 0 in a step; the package out of its domain; a packet's SEQ accepted before. -/
@[irreducible] def fp1 : State := among (base.poke (2 ^ 48 + 0x100000) [9, 8, 7])
@[irreducible] def fp2 : State := fp1.setRank 0 { fp1.rank 0 with state := .inStep, wrows := 1 }
@[irreducible] def fp3 : State := { fp1 with fabric := { fp1.fabric with member := false } }
@[irreducible] def fp5 : State := { fp1 with fabric := { fp1.fabric with seen := [(4, 1)] } }

theorem passesVia {s : State} {p : Packet} (via : BitVec 12) (v : (sealed via p).via = 0#2 ++ (sealed via p).src ∨ (sealed via p).red = true ∧ (sealed via p).via ∈ s.fabric.members)
    (m : s.fabric.member = true) (n : (0#2 ++ (sealed via p).src) ∈ s.fabric.members)
    (k : s.fabric.key = 0 ∧ s.fabric.kgen = 7 ∧ s.pkgid = 0) (g : (sealed via p).kgen = s.fabric.kgen) (i : (sealed via p).keyid = 0#2 ++ s.pkgid)
    (q : s.fabric.seen.get ((sealed via p).via.toNat * 4 + (sealed via p).vc.toNat) 0 < (sealed via p).seq) : Passes s (sealed via p) := by
  refine ⟨m, n, v, ?_, g, i, q⟩
  rw [k.1, k.2.1, k.2.2]; rfl

theorem served {s : State} {t : BitVec 6} {off : Nat} {op : RemoteOp} {c : BitVec 32} {v : RemoteVal} (h : (s.serve t off op c).1 = v) : s.serve t off op c = (v, (s.serve t off op c).2) := by
  subst h; rfl

theorem witness_RequestsAreServed_read (h : RequestsAreServed) :
    (∃ t, exec .readRequest (due (.readRequest pRead) none fp1) = .next t) ∧ (∃ t, exec .readRequest (due (.readRequest pNone) none fp1) = .next t) ∧
    exec .readRequest (due (.readRequest pStep) none fp2) = .next (due (.readRequest pStep) none fp2) := by
  have g := fun (s t : State) (p : Packet) (v : RemoteVal) =>
    h (due (.readRequest p) none s) s t p .readRequest (.readRequest p) 1 0 _ .f32 .add 1 v (.inr (.inl rfl)) takesDue (.inl ⟨rfl, rfl, rfl, rfl, rfl, rfl⟩)
  exact ⟨⟨_, ((g fp1 _ pRead (.data [9, 8, 7, 0, 0, 0, 0, 0])).1 (met (by decide +kernel)) (passesVia 1 (met (by decide +kernel)) (met (by decide +kernel)) (met (by decide +kernel)) (met (by decide +kernel)) (met (by decide +kernel)) (met (by decide +kernel)) (met (by decide +kernel))) (met (by decide +kernel)) (served (met (by decide +kernel)))).1 _ rfl⟩,
    ⟨_, ((g fp1 _ pNone (.fail 0x06)).1 (met (by decide +kernel)) (passesVia 1 (met (by decide +kernel)) (met (by decide +kernel)) (met (by decide +kernel)) (met (by decide +kernel)) (met (by decide +kernel)) (met (by decide +kernel)) (met (by decide +kernel))) (met (by decide +kernel)) (served (met (by decide +kernel)))).2 _ rfl⟩,
    (g fp2 fp2 pStep (.fail 0)).2.1 (met (by decide +kernel)) (passesVia 1 (met (by decide +kernel)) (met (by decide +kernel)) (met (by decide +kernel)) (met (by decide +kernel)) (met (by decide +kernel)) (met (by decide +kernel)) (met (by decide +kernel))) (met (by decide +kernel))⟩

theorem witness_RequestsAreServed_rest (h : RequestsAreServed) :
    (∃ t, exec .write (due (.write pWrite) none fp1) = .next t) ∧ ∃ t, exec .atomic (due (.atomic pAtomic) none fp1) = .next t :=
  ⟨⟨_, ((h (due (.write pWrite) none fp1) fp1 _ pWrite .write (.write pWrite) 3 2 _ .f32 .add 1 (.data []) (.inr (.inr rfl)) takesDue
      (.inr (.inl ⟨rfl, rfl, rfl, rfl, rfl, rfl⟩))).1 (met (by decide +kernel)) (passesVia 1 (met (by decide +kernel)) (met (by decide +kernel)) (met (by decide +kernel)) (met (by decide +kernel)) (met (by decide +kernel)) (met (by decide +kernel)) (met (by decide +kernel))) (met (by decide +kernel)) (served (met (by decide +kernel)))).1 _ rfl⟩,
   ⟨_, ((h (due (.atomic pAtomic) none fp1) fp1 _ pAtomic .atomic (.atomic pAtomic) 5 4 _ (.int 8) .swap 1 (.data [9, 8, 7, 0, 0, 0, 0, 0, 0, 0, 0, 0, 0, 0, 0, 0]) (.inl (met (by decide +kernel))) takesDue
      (.inr (.inr (.inl ⟨rfl, rfl, rfl, rfl, (met (by decide +kernel)), rfl, rfl⟩)))).1 (met (by decide +kernel)) (passesVia 1 (met (by decide +kernel)) (met (by decide +kernel)) (met (by decide +kernel)) (met (by decide +kernel)) (met (by decide +kernel)) (met (by decide +kernel)) (met (by decide +kernel))) (met (by decide +kernel)) (served (met (by decide +kernel)))).1 _ rfl⟩⟩

theorem witness_RequestsAreServed_reduction (h : RequestsAreServed) :
    (∃ t, exec .reduction (due (.reduction pRed) none fp1) = .next t) ∧ ∃ t, exec .reduction (due (.reduction pMerged) none fp1) = .next t :=
  ⟨⟨_, ((h (due (.reduction pRed) none fp1) fp1 _ pRed .reduction (.reduction pRed) 3 6 _ .f32 .add _ (.data []) (.inl (met (by decide +kernel))) takesDue
      (.inr (.inr (.inr ⟨rfl, rfl, rfl, rfl, (met (by decide +kernel)), .inl ⟨(met (by decide +kernel)), rfl, rfl⟩⟩)))).1 (met (by decide +kernel)) (passesVia 1 (met (by decide +kernel)) (met (by decide +kernel)) (met (by decide +kernel)) (met (by decide +kernel)) (met (by decide +kernel)) (met (by decide +kernel)) (met (by decide +kernel))) (met (by decide +kernel)) (served (met (by decide +kernel)))).1 _ rfl⟩,
   ⟨_, ((h (due (.reduction pMerged) none fp1) fp1 _ pMerged .reduction (.reduction pMerged) 3 6 _ .f32 .add _ (.data []) (.inl (met (by decide +kernel))) takesDue
      (.inr (.inr (.inr ⟨rfl, rfl, rfl, rfl, (met (by decide +kernel)), .inr ⟨(met (by decide +kernel)), rfl, rfl⟩⟩)))).1 (met (by decide +kernel)) (passesVia 2000 (met (by decide +kernel)) (met (by decide +kernel)) (met (by decide +kernel)) (met (by decide +kernel)) (met (by decide +kernel)) (met (by decide +kernel)) (met (by decide +kernel))) (met (by decide +kernel)) (served (met (by decide +kernel)))).1 _ rfl⟩⟩

/-- A packet that reaches a package outside its domain; one sent again; one of another TYPE. -/
theorem witness_RequestsAreServed_dropped (h : RequestsAreServed) :
    (∃ t, exec .write (due (.write pWrite) none fp3) = .next t) ∧ (∃ t, exec .write (due (.write pWrite) none fp5) = .next t) ∧
    ∃ t, exec .write (due (.write pRead) none fp1) = .next t :=
  have g := fun (s : State) (p : Packet) => h (due (.write p) none s) s s p .write (.write p) 3 _ _ .f32 .add 1 (.data []) (.inr (.inr rfl)) takesDue
    (.inr (.inl ⟨rfl, rfl, rfl, rfl, rfl, rfl⟩))
  ⟨⟨_, (g fp3 pWrite).2.2.1 (met (by decide +kernel)) (fun n => absurd n.1 (met (by decide +kernel)))⟩, ⟨_, (g fp5 pWrite).2.2.1 (met (by decide +kernel)) (fun n => absurd n.2.2.2.2.2.2 (met (by decide +kernel)))⟩, ⟨_, (g fp1 pRead).2.2.2 (met (by decide +kernel))⟩⟩

/-! ## What serving does -/

/-- A window of 512 bytes of FP32 that ends with the offset's first 4 bytes; the last byte of a read is in error. -/
@[irreducible] def fp4 : State := { fp1 with fabric := { fp1.fabric with windows := [(15, ⟨true, 2, 2 ^ 48 + 0x100000 - 508, 512, 1, 9⟩)] }, bad := [(2 ^ 48 + 0x101000) / 8] }

theorem elems1 {fn : BankFn} {t : BankType} {d a x : Nat} {s : State} : ElemsUpdated fn t d a [x] s
    [if (bankOp fn t (natOfBytes (s.bytes a t.bytes)) x d).2 = true then natOfBytes (s.bytes a t.bytes) else 256 ^ t.bytes - 1]
    (if (bankOp fn t (natOfBytes (s.bytes a t.bytes)) x d).2 = true then s.poke a (bytesOfNat t.bytes (bankOp fn t (natOfBytes (s.bytes a t.bytes)) x d).1) else s) :=
  ⟨_, [], rfl, rfl, rfl, rfl⟩

theorem witness_ServingReachesMemory (h : ServingReachesMemory) :
    fp4.serve 0 (2 ^ 40 + 2 ^ 32) (.read 8) 1 = (.fail 0x06, fp4) ∧ fp4.serve 1 poolOff (.write [1]) 1 = (.fail 0x06, fp4) ∧
    fp4.serve 0 (poolOff + 0xFF9) (.read 8) 1 = (.fail 0x0A, fp4) ∧
    fp4.serve 0 poolOff (.read 3) 1 = (.data [9, 8, 7], fp4) ∧ fp4.serve 0 poolOff (.write [1]) 1 = (.data [], fp4.poke (2 ^ 48 + 0x100000) [1]) := by
  refine ⟨(h fp4 fp4 0 (2 ^ 40 + 2 ^ 32) 8 _ (.read 8) [] .f32 .add [] [] 0 1 rfl rfl).1 (.inl (met (by decide +kernel))), (h fp4 fp4 1 poolOff 1 _ (.write [1]) [] .f32 .add [] [] 0 1 rfl rfl).1 (.inl (met (by decide +kernel))),
    ((h fp4 fp4 0 (poolOff + 0xFF9) 8 _ (.read 8) [] .f32 .add [] [] 0 1 rfl rfl).2 (met (by decide +kernel)) (met (by decide +kernel)) (met (by decide +kernel)) (met (by decide +kernel)) (met (by decide +kernel))).1 rfl (met (by decide +kernel)), ?_,
    ((h fp4 fp4 0 poolOff 1 _ (.write [1]) [1] .f32 .add [] [] 0 1 rfl rfl).2 (met (by decide +kernel)) (met (by decide +kernel)) (met (by decide +kernel)) (met (by decide +kernel)) (met (by decide +kernel))).2.1 rfl⟩
  have e := (((h fp4 fp4 0 poolOff 3 _ (.read 3) [] .f32 .add [] [] 0 1 rfl rfl).2 (met (by decide +kernel)) (met (by decide +kernel)) (met (by decide +kernel)) (met (by decide +kernel)) (met (by decide +kernel))).2.2 (met (by decide +kernel))).1 rfl
  rw [e]; exact congrArg (fun b => (RemoteVal.data b, fp4)) (met (by decide +kernel))

theorem witness_ServingReachesMemory_banks (h : ServingReachesMemory) :
    (∃ r, fp4.serve 0 poolOff (.bank .swap (.int 8) [77] 0 true) 1 = r) ∧ (∃ t, (fp4.serve 0 poolOff (.bank .add .f32 [0x3F800000] 0 false) 3).2 = t) ∧
    ∃ t, (fp4.serve 0 (poolOff + 4) (.bank .add .f32 [0x3F800000] 0 false) 3).2 = t := by
  have g := fun (t : State) (olds : List Nat) (off : Nat) (o : 2 ^ 40 ≤ off) =>
    h fp4 t 0 off 4 (2 ^ 48 + off % 2 ^ 40) (.bank .add .f32 [0x3F800000] 0 false) [] .f32 .add [0x3F800000] olds 0 3 (if_neg (Nat.not_lt.mpr o)).symm rfl
  exact ⟨⟨_, (((h fp4 _ 0 poolOff 8 _ (.bank .swap (.int 8) [77] 0 true) [] (.int 8) .swap [77] _ 0 1 rfl rfl).2 (met (by decide +kernel)) (met (by decide +kernel)) (met (by decide +kernel)) (met (by decide +kernel)) (met (by decide +kernel))).2.2 (met (by decide +kernel))).2.1 rfl elems1⟩,
    ⟨_, ((((g _ _ poolOff (met (by decide +kernel))).2 (met (by decide +kernel)) (met (by decide +kernel)) (met (by decide +kernel)) (met (by decide +kernel)) (met (by decide +kernel))).2.2 (met (by decide +kernel))).2.2 rfl elems1 (some (15, ⟨true, 2, 2 ^ 48 + 0x100000 - 508, 512, 1, 9⟩)) (met (by decide +kernel))).2 _ _ rfl⟩,
    ⟨_, ((((g _ _ (poolOff + 4) (met (by decide +kernel))).2 (met (by decide +kernel)) (met (by decide +kernel)) (met (by decide +kernel)) (met (by decide +kernel)) (met (by decide +kernel))).2.2 (met (by decide +kernel))).2.2 rfl elems1 none (met (by decide +kernel))).1 rfl⟩⟩

/-! ## What arrives -/

/-- A message of 64 bytes for a core, its counter 15 and its lines, and the two packets of one of 640 bytes; a launch for
core 1; a fragment and a report of collective 0x77. -/
def pMsg (c : BitVec 13) (off : BitVec 16) : Packet := fromOne 7 0 (0#24 ++ 0#6 ++ 1#1 ++ 15#4 ++ c ++ off) (List.replicate 64 7)
def pPart (off : BitVec 16) (n : Nat) : Packet := fromOne 7 0 (0#24 ++ 9#6 ++ 1#1 ++ 15#4 ++ 1#13 ++ off) (List.replicate n 7)
def pLaunch (tenant : BitVec 6) : Packet := fromOne 8 0 0 (bytesOfWords [1, 0x100, 7, 8]) tenant
@[irreducible] def pFrag : Packet := fromOne 9 2 (1#8 ++ 0#30 ++ 1#10 ++ 0x77#16) (List.replicate 508 7)
def pSteps : Packet := fromOne 10 2 (0#38 ++ 1#10 ++ 0x77#16) [0xFF, 0xFF]
@[irreducible] def fa1 : State := among base
@[irreducible] def fa2 : State := fa1.modCore 1 fun c => { c with holding := true }
@[irreducible] def fa3 : State := fa1.setCluster (clusterOf 16) { Cluster.reset with xten := 1 }
@[irreducible] def fa4 : State := fa1.modCore 1 fun c => { c with launchQ := [rec1, rec1, rec1, rec1] }
def computing1 (s : State) : State := s.modCore 1 fun c => { c with front := { c.front with life := .live, phase := 1 } }
@[irreducible] def fa7 : State := computing1 fa1
/-- The first 512 bytes of the long message have landed, over bytes 1; core 1 computes, or not. -/
def part1 : PartMsg := ⟨1, 5, 1, 15, true, 640, 0xBD80, 512, [(2 ^ 49 + 2 ^ 16 + 0xBD80, List.replicate 512 1)], false, false⟩
@[irreducible] def fa8 : State := withParts [part1] fa1
@[irreducible] def fa9 : State := computing1 fa8
/-- The context of the collective, its buffer with 3,588 bytes or 3,589. -/
def boxed (n : Nat) : CollCtx := { coll0 with cx := { coll0.cx with inbox := [(0, List.replicate n 0)] } }
@[irreducible] def fa5 : State := among (inColl (fun _ => boxed 3588) base)
@[irreducible] def fa6 : State := among (inColl (fun _ => boxed 3589) base)

theorem witness_PacketsArrive_message (h : PacketsArrive) :
    exec .message (due (.message (pMsg 1 0xBFC0)) none fa2) = .next (due (.message (pMsg 1 0xBFC0)) none fa2) ∧ (∃ t, exec .message (due (.message (pMsg 1 0xBFC1)) none fa1) = .next t) ∧
    (∃ t, exec .message (due (.message (pMsg 16 0xBFC0)) none fa3) = .next t) ∧ (∃ t, exec .message (due (.message (pMsg 1 0xBFC0)) none fa7) = .next t) ∧
    ∃ t, exec .message (due (.message (pMsg 1 0xBFC0)) none fa1) = .next t := by
  have g := fun (s : State) (c : BitVec 13) (off : BitVec 16) (k : Passes (due (.message (pMsg c off)) none s) (pMsg c off)) (n : (due (.message (pMsg c off)) none s).Named) =>
    (h (due (.message (pMsg c off)) none s) s s (pMsg c off) default 0 _ coll0 part1 k n rfl).1 takesDue
  obtain ⟨F, e, -⟩ := (((g fa1 1 0xBFC0 (passesVia 1 (met (by decide +kernel)) (met (by decide +kernel)) (met (by decide +kernel)) (met (by decide +kernel)) (met (by decide +kernel)) (met (by decide +kernel)) (met (by decide +kernel))) (named (met (by decide +kernel))) (met (by decide +kernel))).2.1 (met (by decide +kernel)) (met (by decide +kernel))).1 (met (by decide +kernel))).2.2.2 (met (by decide +kernel)) (met (by decide +kernel)) (met (by decide +kernel))
  exact ⟨(g fa2 1 0xBFC0 (passesVia 1 (met (by decide +kernel)) (met (by decide +kernel)) (met (by decide +kernel)) (met (by decide +kernel)) (met (by decide +kernel)) (met (by decide +kernel)) (met (by decide +kernel))) (named (met (by decide +kernel))) (met (by decide +kernel))).1 (met (by decide +kernel)),
    ⟨_, (((g fa1 1 0xBFC1 (passesVia 1 (met (by decide +kernel)) (met (by decide +kernel)) (met (by decide +kernel)) (met (by decide +kernel)) (met (by decide +kernel)) (met (by decide +kernel)) (met (by decide +kernel))) (named (met (by decide +kernel))) (met (by decide +kernel))).2.1 (met (by decide +kernel)) (met (by decide +kernel))).1 (met (by decide +kernel))).1 (met (by decide +kernel))⟩,
    ⟨_, (((g fa3 16 0xBFC0 (passesVia 1 (met (by decide +kernel)) (met (by decide +kernel)) (met (by decide +kernel)) (met (by decide +kernel)) (met (by decide +kernel)) (met (by decide +kernel)) (met (by decide +kernel))) (named (met (by decide +kernel))) (met (by decide +kernel))).2.1 (met (by decide +kernel)) (met (by decide +kernel))).1 (met (by decide +kernel))).2.1 (met (by decide +kernel)) (met (by decide +kernel))⟩,
    ⟨_, (((g fa7 1 0xBFC0 (passesVia 1 (met (by decide +kernel)) (met (by decide +kernel)) (met (by decide +kernel)) (met (by decide +kernel)) (met (by decide +kernel)) (met (by decide +kernel)) (met (by decide +kernel))) (named (met (by decide +kernel))) (met (by decide +kernel))).2.1 (met (by decide +kernel)) (met (by decide +kernel))).1 (met (by decide +kernel))).2.2.1 (met (by decide +kernel)) (met (by decide +kernel)) (met (by decide +kernel))⟩, ⟨_, e⟩⟩

theorem witness_PacketsArrive_parts (h : PacketsArrive) :
    (∃ t, exec .message (due (.message (pPart 0xBD80 512)) none fa1) = .next t) ∧ (∃ t, exec .message (due (.message (pPart 0xBF80 128)) none fa9) = .next t) ∧
    ∃ t, exec .message (due (.message (pPart 0xBF80 128)) none fa8) = .next t := by
  have g := fun (s : State) (n : Nat) (off : BitVec 16) (k : Passes (due (.message (pPart off n)) none s) (pPart off n)) (w : (due (.message (pPart off n)) none s).Named) =>
    (h (due (.message (pPart off n)) none s) s s (pPart off n) default 0 _ coll0 part1 k w rfl).1 takesDue
  obtain ⟨F, e, -⟩ := ((g fa8 128 0xBF80 (passesVia 1 (met (by decide +kernel)) (met (by decide +kernel)) (met (by decide +kernel)) (met (by decide +kernel)) (met (by decide +kernel)) (met (by decide +kernel)) (met (by decide +kernel))) (named (met (by decide +kernel))) (met (by decide +kernel))).2.2 (met (by decide +kernel)) (met (by decide +kernel)) (met (by decide +kernel)) (met (by decide +kernel)) (met (by decide +kernel)) (met (by decide +kernel)) (met (by decide +kernel)) (met (by decide +kernel)) (met (by decide +kernel)) (met (by decide +kernel)) (met (by decide +kernel)) (met (by decide +kernel)) (met (by decide +kernel)) (met (by decide +kernel))).2 (met (by decide +kernel))
  exact ⟨⟨_, ((g fa1 512 0xBD80 (passesVia 1 (met (by decide +kernel)) (met (by decide +kernel)) (met (by decide +kernel)) (met (by decide +kernel)) (met (by decide +kernel)) (met (by decide +kernel)) (met (by decide +kernel))) (named (met (by decide +kernel))) (met (by decide +kernel))).2.1 (met (by decide +kernel)) (met (by decide +kernel))).2 (met (by decide +kernel)) (met (by decide +kernel)) (met (by decide +kernel)) (met (by decide +kernel))⟩,
    ⟨_, ((g fa9 128 0xBF80 (passesVia 1 (met (by decide +kernel)) (met (by decide +kernel)) (met (by decide +kernel)) (met (by decide +kernel)) (met (by decide +kernel)) (met (by decide +kernel)) (met (by decide +kernel))) (named (met (by decide +kernel))) (met (by decide +kernel))).2.2 (met (by decide +kernel)) (met (by decide +kernel)) (met (by decide +kernel)) (met (by decide +kernel)) (met (by decide +kernel)) (met (by decide +kernel)) (met (by decide +kernel)) (met (by decide +kernel)) (met (by decide +kernel)) (met (by decide +kernel)) (met (by decide +kernel)) (met (by decide +kernel)) (met (by decide +kernel)) (met (by decide +kernel))).1 (met (by decide +kernel))⟩, ⟨_, e⟩⟩

theorem witness_PacketsArrive_launch (h : PacketsArrive) :
    (∃ t, exec .launchPacket (due (.launchPacket (pLaunch 1)) none fa1) = .next t) ∧ (∃ t, exec .launchPacket (due (.launchPacket (pLaunch 0)) none fa1) = .next t) ∧
    exec .launchPacket (due (.launchPacket (pLaunch 0)) none fa4) = .next (due (.launchPacket (pLaunch 0)) none fa4) := by
  have g := fun (s v : State) (t : BitVec 6) (k : Passes (due (.launchPacket (pLaunch t)) none s) (pLaunch t)) (n : (due (.launchPacket (pLaunch t)) none s).Named) (y : (pLaunch t).type = 8) =>
    (h (due (.launchPacket (pLaunch t)) none s) s v (pLaunch t) _ 0 _ coll0 part1 k n rfl).2.1 takesDue y rfl
  exact ⟨⟨_, (g fa1 fa1 1 (passesVia 1 (met (by decide +kernel)) (met (by decide +kernel)) (met (by decide +kernel)) (met (by decide +kernel)) (met (by decide +kernel)) (met (by decide +kernel)) (met (by decide +kernel))) (named (met (by decide +kernel))) (met (by decide +kernel))).1 (met (by decide +kernel))⟩, ⟨_, (g fa1 _ 0 (passesVia 1 (met (by decide +kernel)) (met (by decide +kernel)) (met (by decide +kernel)) (met (by decide +kernel)) (met (by decide +kernel)) (met (by decide +kernel)) (met (by decide +kernel))) (named (met (by decide +kernel))) (met (by decide +kernel))).2.1 (met (by decide +kernel)) (Option.some_get (met (by decide +kernel))).symm⟩,
    (g fa4 fa4 0 (passesVia 1 (met (by decide +kernel)) (met (by decide +kernel)) (met (by decide +kernel)) (met (by decide +kernel)) (met (by decide +kernel)) (met (by decide +kernel)) (met (by decide +kernel))) (named (met (by decide +kernel))) (met (by decide +kernel))).2.2 (met (by decide +kernel)) (Option.isNone_iff_eq_none.mp (met (by decide +kernel)))⟩

theorem collIs {n : Nat} {s : State} {x : BitVec 16} {t : BitVec 6} (h : s.fabric.colls = [(3, boxed n)]) (e : x = 0x77) (f : t = 0) :
    s.collOf x t = some (3, boxed n) ∧ s.fabric.colls.find? 3 = some (boxed n) := by
  subst e f; unfold State.collOf State.collWhere; rw [h]; exact ⟨rfl, rfl⟩
theorem fa5Has {a : Act} : (due a none fa5).fabric.colls = [(3, boxed 3588)] := by unfold due fa5 among inColl; rfl
theorem fa6Has {a : Act} : (due a none fa6).fabric.colls = [(3, boxed 3589)] := by unfold due fa6 among inColl; rfl
theorem pFragIs : pFrag = fromOne 9 2 (1#8 ++ 0#30 ++ 1#10 ++ 0x77#16) (List.replicate 508 7) := by unfold pFrag; rfl

theorem witness_PacketsArrive_fragment (h : PacketsArrive) :
    (∃ t, exec .collectiveFragment (due (.collectiveFragment pFrag) none fa5) = .next t) ∧
    exec .collectiveFragment (due (.collectiveFragment pFrag) none fa6) = .next (due (.collectiveFragment pFrag) none fa6) ∧
    ∃ t, exec .collectiveControl (due (.collectiveControl pSteps) none fa5) = .next t := by
  have k : ∀ s ∈ [fa5, fa6], Passes (due (.collectiveFragment pFrag) none s) pFrag := by
    intro s m; rw [pFragIs]
    rcases List.mem_cons.mp m with rfl | m
    · exact passesVia 1 (met (by decide +kernel)) (met (by decide +kernel)) (met (by decide +kernel)) (met (by decide +kernel)) (met (by decide +kernel)) (met (by decide +kernel)) (met (by decide +kernel))
    · cases List.mem_singleton.mp m; exact passesVia 1 (met (by decide +kernel)) (met (by decide +kernel)) (met (by decide +kernel)) (met (by decide +kernel)) (met (by decide +kernel)) (met (by decide +kernel)) (met (by decide +kernel))
  have g := fun (s : State) (n : Nat) (k : Passes (due (.collectiveFragment pFrag) none s) pFrag) (w : (due (.collectiveFragment pFrag) none s).Named) c d =>
    ((h (due (.collectiveFragment pFrag) none s) s s pFrag default 3 _ (boxed n) part1 k w rfl).2.2 c d).1 takesDue (met (by decide +kernel))
  exact ⟨⟨_, (g fa5 3588 (k fa5 (.head _)) (named (met (by decide +kernel))) (collIs fa5Has (met (by decide +kernel)) (met (by decide +kernel))).1 (collIs fa5Has rfl rfl).2).2 (met (by decide +kernel)) (by intro f hf; cases List.mem_singleton.mp hf; exact (met (by decide +kernel))) (met (by decide +kernel))⟩,
   (g fa6 3589 (k fa6 (.tail _ (.head _))) (named (met (by decide +kernel))) (collIs fa6Has (met (by decide +kernel)) (met (by decide +kernel))).1 (collIs fa6Has rfl rfl).2).1 (met (by decide +kernel)),
   ⟨_, ((h (due (.collectiveControl pSteps) none fa5) fa5 fa5 pSteps default 3 _ (boxed 3588) part1 (passesVia 1 (met (by decide +kernel)) (met (by decide +kernel)) (met (by decide +kernel)) (met (by decide +kernel)) (met (by decide +kernel)) (met (by decide +kernel)) (met (by decide +kernel))) (named (met (by decide +kernel))) rfl).2.2
      (collIs fa5Has (met (by decide +kernel)) (met (by decide +kernel))).1 (collIs fa5Has rfl rfl).2).2 takesDue (met (by decide +kernel))⟩⟩

/-! ## Responses -/

/-- A response of package 1 to the request of tag 5, and a failure. -/
def pResp (type : Nat) (status : BitVec 8) : Packet := fromOne type 1 (dw1Of 0 0 0 status 0) [1]
@[irreducible] def fr1 : State := asking .posted fa1
@[irreducible] def fr2 : State := asking (.rsend 3 5) fa1
@[irreducible] def fr3 : State := { fr1 with cycle := 1405 }
@[irreducible] def fr4 : State := { fr1 with cycle := 1404 }
@[irreducible] def fr5 : State := { fr1 with fabric := { fr1.fabric with member := false } }
/-- The last fragment of step 7 of command 9: in that step, or one later. -/
def fragOf (steps : BitVec 16) : CollCtx := { coll0 with cx := { coll0.cx with state := .inStep, steps := steps } }
@[irreducible] def fr6 : State := asking (.fragment 3 9 7) (among (inColl (fun _ => fragOf 7) base))
@[irreducible] def fr7 : State := asking (.fragment 3 9 7) (among (inColl (fun _ => fragOf 8) base))

theorem witness_ResponsesComplete_packets (h : ResponsesComplete) :
    (∃ t, exec .readResponse (due (.readResponse (pResp 1 0)) none fr1) = .next t) ∧ (∃ t, exec .writeAcknowledgement (due (.writeAcknowledgement (pResp 3 0)) none fr1) = .next t) ∧
    (∃ t, exec .atomicResponse (due (.atomicResponse (pResp 5 0)) none fr1) = .next t) ∧ (∃ t, exec .failureResponse (due (.failureResponse (pResp 11 6)) none fr1) = .next t) ∧
    (∃ t, exec .atomicResponse (due (.atomicResponse (pResp 5 0)) none fr5) = .next t) ∧ ∃ t, exec .atomicResponse (due (.atomicResponse (pResp 1 0)) none fr1) = .next t := by
  have g := fun (s : State) (p : Packet) (a : Act) (v : RemoteVal) => (h (due a none s) s p 5 (reqOf .posted) v).1
  exact ⟨⟨_, (g fr1 (pResp 1 0) _ _ .readResponse _ _ (.head _) takesDue).1 (met (by decide +kernel)) (passesVia 1 (met (by decide +kernel)) (met (by decide +kernel)) (met (by decide +kernel)) (met (by decide +kernel)) (met (by decide +kernel)) (met (by decide +kernel)) (met (by decide +kernel)))⟩,
    ⟨_, (g fr1 (pResp 3 0) _ _ .writeAcknowledgement _ _ (.tail _ (.head _)) takesDue).1 (met (by decide +kernel)) (passesVia 1 (met (by decide +kernel)) (met (by decide +kernel)) (met (by decide +kernel)) (met (by decide +kernel)) (met (by decide +kernel)) (met (by decide +kernel)) (met (by decide +kernel)))⟩,
    ⟨_, (g fr1 (pResp 5 0) _ _ .atomicResponse _ _ (.tail _ (.tail _ (.head _))) takesDue).1 (met (by decide +kernel)) (passesVia 1 (met (by decide +kernel)) (met (by decide +kernel)) (met (by decide +kernel)) (met (by decide +kernel)) (met (by decide +kernel)) (met (by decide +kernel)) (met (by decide +kernel)))⟩,
    ⟨_, (g fr1 (pResp 11 6) _ _ .failureResponse _ _ (.tail _ (.tail _ (.tail _ (.head _)))) takesDue).1 (met (by decide +kernel)) (passesVia 1 (met (by decide +kernel)) (met (by decide +kernel)) (met (by decide +kernel)) (met (by decide +kernel)) (met (by decide +kernel)) (met (by decide +kernel)) (met (by decide +kernel)))⟩,
    ⟨_, (g fr5 (pResp 5 0) _ _ .atomicResponse _ _ (.tail _ (.tail _ (.head _))) takesDue).2.1 (met (by decide +kernel)) (fun n => absurd n.1 (met (by decide +kernel)))⟩,
    ⟨_, (g fr1 (pResp 1 0) _ _ .atomicResponse _ _ (.tail _ (.tail _ (.head _))) takesDue).2.2 (met (by decide +kernel))⟩⟩

theorem witness_ResponsesComplete_timeout (h : ResponsesComplete) :
    exec .fabricTimeout (due (.fabricTimeout 5) none fa1) = .next fa1 ∧ exec .fabricTimeout (due (.fabricTimeout 5) none fr4) = .next fr4 ∧
    ∃ t, exec .fabricTimeout (due (.fabricTimeout 5) none fr3) = .next t :=
  ⟨((h (due (.fabricTimeout 5) none fa1) fa1 default 5 (reqOf .posted) default).2.1 takesDue).1 (Option.isNone_iff_eq_none.mp (met (by decide +kernel))),
   ((h (due (.fabricTimeout 5) none fr4) fr4 default 5 (reqOf .posted) default).2.1 takesDue).2.1 (met (by decide +kernel)) (met (by decide +kernel)),
   ⟨_, ((h (due (.fabricTimeout 5) none fr3) fr3 default 5 (reqOf .posted) default).2.1 takesDue).2.2 (met (by decide +kernel)) (met (by decide +kernel))⟩⟩

theorem witness_ResponsesComplete_uses (h : ResponsesComplete) :
    fr1.complete 6 (.data []) = fr1 ∧ (∃ t, fr2.complete 5 (.fail 0x16) = t) ∧ (∃ t, fr1.complete 5 (.fail 0x06) = t) ∧ ∃ t, fr1.complete 5 (.data []) = t :=
  ⟨(h fr1 fr1 default 6 (reqOf .posted) (.data [])).2.2.1 (Option.isNone_iff_eq_none.mp (met (by decide +kernel))),
   ⟨_, ((h fr2 _ default 5 (reqOf (.rsend 3 5)) (.fail 0x16)).2.2.2 (met (by decide +kernel)) rfl).1 3 5 rfl⟩,
   ⟨_, ((h fr1 _ default 5 (reqOf .posted) (.fail 0x06)).2.2.2 (met (by decide +kernel)) rfl).2.1 0x06 rfl rfl⟩,
   ⟨_, ((h fr1 _ default 5 (reqOf .posted) (.data [])).2.2.2 (met (by decide +kernel)) rfl).2.2.1 [] rfl rfl⟩⟩

theorem fr6Has : fr6.fabric.colls = [(3, fragOf 7)] ∧ fr6.fabric.reqs = [(5, reqOf (.fragment 3 9 7))] := by unfold fr6 among inColl asking; exact ⟨rfl, rfl⟩
theorem fr7Has : fr7.fabric.colls = [(3, fragOf 8)] ∧ fr7.fabric.reqs = [(5, reqOf (.fragment 3 9 7))] := by unfold fr7 among inColl asking; exact ⟨rfl, rfl⟩

theorem witness_ResponsesComplete_fragment (h : ResponsesComplete) : (∃ t, fr6.complete 5 (.fail 0x06) = t) ∧ ∃ t, fr7.complete 5 (.fail 0x06) = t :=
  ⟨⟨_, (((h fr6 _ default 5 (reqOf (.fragment 3 9 7)) (.fail 0x06)).2.2.2 (by rw [fr6Has.2]; rfl) rfl).2.2.2 3 9 7 (fragOf 7) 0x06 rfl rfl (met (by decide +kernel)) (by rw [fr6Has.1]; rfl) rfl).1 rfl rfl⟩,
   ⟨_, (((h fr7 _ default 5 (reqOf (.fragment 3 9 7)) (.fail 0x06)).2.2.2 (by rw [fr7Has.2]; rfl) rfl).2.2.2 3 9 7 (fragOf 8) 0x06 rfl rfl (met (by decide +kernel)) (by rw [fr7Has.1]; rfl) rfl).2 (.inr (met (by decide +kernel)))⟩⟩

end Sys2Proof.Tests
end

