-- ==== Sys2Proof/Tests/Witness16.lean ====
section
/-! SUPPORT. Witnesses: the trust domain, and invalidations. -/

-- One theorem after the other: elaborating many at once needs more threads than the memory limit holds.
set_option Elab.async false

open Sys2Proof Sys2Proof.Machine Sys2Proof.Statements

namespace Sys2Proof.Tests

/-! ## Admission -/

/-- The messages of an exchange up to the keys; a member's with what it answers. -/
def upTo (p : SpdmPeer) (last : List SpdmMsg) : List (SpdmPeer × SpdmMsg) := (([.getVersion, .getCapabilities, .negotiateAlgorithms true] : List SpdmMsg) ++ last).map fun m => (p, m)
/-- With its leader 1 the whole order has been taken, or the first three messages; with the host, the whole; package 0 leads
and has asked package 2. It has a session with the host, and is a member; it leads package 2. -/
def withSpdm (l : List (SpdmPeer × SpdmMsg)) (s : State) : State := { s with fabric := { s.fabric with spdm := l } }
@[irreducible] def td1 : State := withSpdm (upTo (.leader 1) [.keyExchange true]) base
@[irreducible] def td2 : State := withSpdm (upTo (.leader 1) []) base
@[irreducible] def td3 : State := withSpdm (upTo .host [.keyExchange true]) base
def leads (ms : List (BitVec 12)) (s : State) : State := { s with fabric := { s.fabric with member := true, leader := true, members := ms } }
@[irreducible] def td4 : State := leads [0] (withSpdm (upTo (.member 2) [.getCertificate true, .getMeasurements true, .keyExchange true]) base)
@[irreducible] def td5 : State := { base with fabric := { base.fabric with member := true, hostKey := some 5 } }
@[irreducible] def td6 : State := leads [0, 2] base

theorem had {s : State} {p : SpdmPeer} {m : SpdmMsg} (h : decide ((p, m) ∈ s.fabric.spdm) = true) : Had s p m := by unfold Had; exact of_decide_eq_true h
theorem hadNot {s : State} {p : SpdmPeer} {m : SpdmMsg} (h : decide ((p, m) ∈ s.fabric.spdm) = false) : ¬Had s p m := by unfold Had; exact of_decide_eq_false h
theorem agreed {s : State} {p : SpdmPeer} (h : (decide ((p, SpdmMsg.getVersion) ∈ s.fabric.spdm) && decide ((p, SpdmMsg.getCapabilities) ∈ s.fabric.spdm) &&
    decide ((p, SpdmMsg.negotiateAlgorithms true) ∈ s.fabric.spdm)) = true) : Agreed s p := by
  simp only [Bool.and_eq_true, decide_eq_true_eq] at h
  exact ⟨h.1.1, h.1.2, h.2⟩

theorem witness_SpdmAdmits_refused (h : SpdmAdmits) :
    (∃ t, exec .spdm (due (.spdm (.member 2) (.getCertificate false)) none td4) = .next t) ∧ (∃ t, exec .spdm (due (.spdm (.leader 1) (.finish 5 9)) none td2) = .next t) ∧
    ∃ t, exec .spdm (due (.spdm .host (.negotiateAlgorithms false)) none td3) = .next t := by
  have g := fun (s : State) (p : SpdmPeer) (m : SpdmMsg) => (h (due (.spdm p m) none s) s _ _ p m .other 0 0 0 default 0 0 0 [] rfl takesDue rfl).1
  refine ⟨⟨_, (g td4 (.member 2) (.getCertificate false) (fun i => ?_)).1 2 rfl⟩, ⟨_, (g td2 (.leader 1) (.finish 5 9) (fun i => hadNot (met (by decide +kernel)) i.2.2.1)).2 nofun⟩,
    ⟨_, (g td3 .host (.negotiateAlgorithms false) (fun i => Bool.false_ne_true i.2.1)).2 nofun⟩⟩
  rcases i.2.2 with e | e
  · cases e
  · exact e 2 rfl

theorem witness_SpdmAdmits_messages (h : SpdmAdmits) :
    (∃ t, exec .spdm (due (.spdm (.leader 1) (.keyExchange true)) none td2) = .next t) ∧ ∃ t, exec .spdm (due (.spdm (.member 2) (.keyExchange true)) none td4) = .next t := by
  have g := fun (s : State) (p : SpdmPeer) (m next : SpdmMsg) id => (h (due (.spdm p m) none s) s _ _ p m next id 0 0 default 0 0 0 [] rfl takesDue rfl).2.1
  exact ⟨⟨_, ((g td2 (.leader 1) (.keyExchange true) .other 0 ⟨nofun, rfl, agreed (met (by decide +kernel))⟩).1 nofun nofun).1 nofun⟩,
    ⟨_, ((g td4 (.member 2) (.keyExchange true) (.finish 0 0) 2 ⟨fun _ _ => (met (by decide +kernel)), rfl, agreed (met (by decide +kernel))⟩).1 nofun nofun).2
      (nth 7 rfl) rfl⟩⟩

theorem witness_SpdmAdmits_finish (h : SpdmAdmits) :
    (∃ t, exec .spdm (due (.spdm (.leader 1) (.finish 5 9)) none td1) = .next t) ∧ (∃ t, exec .spdm (due (.spdm .host (.finish 5 9)) none td3) = .next t) ∧
    ∃ t, exec .spdm (due (.spdm (.member 2) (.finish 5 9)) none td4) = .next t := by
  have g := fun (s : State) (p : SpdmPeer) id => (h (due (.spdm p (.finish 5 9)) none s) s _ _ p (.finish 5 9) .other id 5 9 default 0 0 0 [] rfl takesDue rfl).2.1
  obtain ⟨_, a, -⟩ := ((g td1 (.leader 1) 1 ⟨nofun, agreed (met (by decide +kernel)), had (met (by decide +kernel)), nofun⟩).2.1 rfl _ rfl).1 rfl
  obtain ⟨_, b, -⟩ := ((g td4 (.member 2) 2 ⟨fun _ _ => (met (by decide +kernel)), agreed (met (by decide +kernel)), had (met (by decide +kernel)), fun _ _ => ⟨had (met (by decide +kernel)), had (met (by decide +kernel))⟩⟩).2.1 rfl _ rfl).2.2 rfl
  exact ⟨⟨_, a⟩, ⟨_, ((g td3 .host 0 ⟨nofun, agreed (met (by decide +kernel)), had (met (by decide +kernel)), nofun⟩).2.1 rfl _ rfl).2.1 rfl⟩, ⟨_, b⟩⟩

theorem witness_SpdmAdmits_update (h : SpdmAdmits) :
    (∃ t, exec .spdm (due (.spdm (.member 2) .keyUpdate) none td6) = .next t) ∧ (∃ t, exec .spdm (due (.spdm (.leader 1) .keyUpdate) none td5) = .next t) ∧
    ∃ t, exec .spdm (due (.spdm .host .keyUpdate) none td5) = .next t := by
  have g := fun (s : State) (p : SpdmPeer) id => (h (due (.spdm p .keyUpdate) none s) s _ _ p .keyUpdate .other id 0 0 default 0 0 0 [] rfl takesDue rfl).2.1
  exact ⟨⟨_, ((g td6 (.member 2) 2 ⟨fun _ _ => (met (by decide +kernel)), (met (by decide +kernel)), (met (by decide +kernel))⟩).2.2 rfl).1 rfl⟩, ⟨_, ((g td5 (.leader 1) 1 ⟨nofun, (met (by decide +kernel)), (met (by decide +kernel))⟩).2.2 rfl).2.1 rfl⟩,
    ⟨_, ((g td5 .host 0 ⟨nofun, (met (by decide +kernel))⟩).2.2 rfl).2.2 rfl⟩⟩

theorem witness_SpdmAdmits_packet (h : SpdmAdmits) : (openPacket 1023 1023 63 (List.replicate 1023 7)).type = 63 :=
  ((h (due (.spdm .host .other) none base) base _ _ .host .other .other 0 0 0 _ 1023 1023 63 (List.replicate 1023 7) rfl takesDue rfl).2.2 rfl (met (by decide +kernel)) (met (by decide +kernel))).1

/-! ## The domain's changes -/

/-- No change is pending; package 1023 leaves with the one that is; package 0 leads, has arrived, and no one else has; its
deadline is in cycle 9. -/
@[irreducible] def te1 : State := { fa1 with fabric := { fa1.fabric with target := none } }
@[irreducible] def te2 : State := { fa1 with fabric := { fa1.fabric with target := some 8, leavers := [1023] } }
@[irreducible] def te3 : State := { te2 with fabric := { te2.fabric with leader := true, arrived := true, expiry := some 9 } }

theorem witness_TheDomainChanges_membership (h : TheDomainChanges) :
    (∃ t, exec .membershipChange (due (.membershipChange (.join 2)) none te3) = .next t) ∧ (∃ t, exec .membershipChange (due (.membershipChange (.join 2)) none te1) = .next t) ∧
    (∃ t, exec .membershipChange (due (.membershipChange (.leave 1)) none te2) = .next t) ∧ (∃ t, exec .membershipChange (due (.membershipChange (.fail 0)) none te3) = .next t) := by
  have g := fun (s : State) (id : BitVec 12) (o : MemberOp) => h (due (.membershipChange o) none s) s _ _ id 0 0 [] none rfl rfl
  obtain ⟨_, a, -⟩ := ((g te1 2 (.join 2)).1 takesDue).2 (.inl (met (by decide +kernel)))
  obtain ⟨_, b, -⟩ := (g te2 1 (.leave 1)).2.1 takesDue
  obtain ⟨_, _, c, -⟩ := (g te3 0 (.fail 0)).2.2.1 takesDue
  exact ⟨⟨_, ((g te3 2 (.join 2)).1 takesDue).1 (met (by decide +kernel)) (met (by decide +kernel))⟩, ⟨_, a⟩, ⟨_, b⟩, ⟨_, c⟩⟩

theorem witness_TheDomainChanges_leads (h : TheDomainChanges) :
    (∃ t, exec .membershipChange (due (.membershipChange (.lead 5 9)) none te1) = .next t) ∧ (∃ t, exec .membershipChange (due (.membershipChange (.arrived 1)) none te3) = .next t) ∧
    exec .membershipChange (due (.membershipChange (.arrived 1)) none te2) = .next te2 :=
  ⟨⟨_, (h (due (.membershipChange (.lead 5 9)) none te1) te1 _ _ 0 5 9 [] none rfl rfl).2.2.2.1 takesDue⟩,
   ⟨_, ((h (due (.membershipChange (.arrived 1)) none te3) te3 _ _ 1 0 0 [] none rfl rfl).2.2.2.2.1 takesDue).1 (met (by decide +kernel)) (met (by decide +kernel))⟩,
   ((h (due (.membershipChange (.arrived 1)) none te2) te2 _ _ 1 0 0 [] none rfl rfl).2.2.2.2.1 takesDue).2 (.inl (met (by decide +kernel)))⟩

theorem witness_TheDomainChanges_generation (h : TheDomainChanges) :
    exec .generationAnnounce (due (.generationAnnounce 9) none te2) = .next te2 ∧ (∃ t, exec .generationAnnounce (due (.generationAnnounce 8) none te2) = .next t) ∧
    exec .domainDeadline (due (.domainDeadline []) none te1) = .next te1 ∧ exec .domainDeadline (due (.domainDeadline [1]) (some 8) te3) = .next te3 ∧
    (∃ t, exec .domainDeadline (due (.domainDeadline [1]) (some 9) te3) = .next t) ∧ ∃ t, exec .domainDeadline (due (.domainDeadline [1]) none te2) = .next t := by
  have d := fun (s : State) (l : List (BitVec 12)) (t : Option Nat) => (h (due (.domainDeadline l) t s) s _ _ 0 0 8 l t rfl rfl).2.2.2.2.2.2 (dueHead ..) (dueRest ..)
  have n := fun (g : BitVec 32) => (h (due (.generationAnnounce g) none te2) te2 _ _ 0 0 g [] none rfl rfl).2.2.2.2.2.1 takesDue
  obtain ⟨_, a, -⟩ := (n 8).2 (met (by decide +kernel))
  obtain ⟨_, _, _, b, -⟩ := (d te3 [1] (some 9)).2 (met (by decide +kernel)) (fun _ => ⟨nofun, (met (by decide +kernel))⟩)
  obtain ⟨_, _, _, c, -⟩ := (d te2 [1] none).2 (met (by decide +kernel)) (fun e => absurd e (met (by decide +kernel)))
  exact ⟨(n 9).1 (met (by decide +kernel)), ⟨_, a⟩, (d te1 [] none).1 (.inl (met (by decide +kernel))), (d te3 [1] (some 8)).1 (.inr ⟨(met (by decide +kernel)), .inr (met (by decide +kernel))⟩), ⟨_, b⟩, ⟨_, c⟩⟩

/-! ## Invalidations -/

/-- An invalidation of all runs, or of the 2^13 bytes from 0x2000, with an entry there and one beyond; a store through its
last byte is on its way, or one through the byte after it. -/
def invaling (v : Word) (s : State) : State := s.setCluster 0 { s.cluster 0 with inval := some v, tlb := [⟨0x2000, 0x2000, 0⟩, ⟨0x4000, 0x2000, 0⟩], nodes := [⟨0, 1, 0⟩] }
def storing (va : Word) (s : State) : State := { s with fabric := { s.fabric with reqs := [(5, ⟨owner, va, 1, 1405, .posted⟩)] } }
@[irreducible] def th1 : State := invaling 3 base
@[irreducible] def th2 : State := storing 0x4000 (invaling 0x2000 base)
@[irreducible] def th3 : State := storing 0x3FFF (invaling 0x2000 base)

theorem witness_InvalidationsEnd (h : InvalidationsEnd) :
    exec .xinv (due (.xinv 0 3) none th1) = .next (due (.xinv 0 3) none th1) ∧ (∃ t, exec .xinv (due (.xinv 0 3) none base) = .next t) ∧
    exec .invalidationComplete (due (.invalidationComplete 0) none base) = .next base ∧
    exec .invalidationComplete (due (.invalidationComplete 0) none th3) = .next (due (.invalidationComplete 0) none th3) ∧
    (∃ t, exec .invalidationComplete (due (.invalidationComplete 0) none th2) = .next t) ∧ ∃ t, exec .invalidationComplete (due (.invalidationComplete 0) none th1) = .next t := by
  have g := fun (s : State) (x : Word) => (h (due (.invalidationComplete 0) none s) s 0 0 x _ _ _ rfl rfl (fun _ _ => Iff.rfl)).2 takesDue
  have k := fun (s : State) => (h (due (.xinv 0 3) none s) s 0 3 0 _ _ _ rfl rfl (fun _ _ => Iff.rfl)).1 takesDue
  have one : ∀ va : Word, ∀ r ∈ (due (.invalidationComplete 0) none (storing va (invaling 0x2000 base))).fabric.reqs, r = (5, ⟨owner, va, 1, 1405, .posted⟩) :=
    fun va r m => List.mem_singleton.mp m
  obtain ⟨_, _, a, -⟩ := ((g th2 0x2000).2 (met (by decide +kernel))).2 (by unfold th2; intro r m _; rw [one 0x4000 r m]; exact (met (by decide +kernel)))
  obtain ⟨_, _, b, -⟩ := ((g th1 3).2 (met (by decide +kernel))).2 (by rw [((met (by decide +kernel)) : (due (.invalidationComplete 0) none th1).fabric.reqs = [])]; intro r m; cases m)
  exact ⟨(k th1).1 (met (by decide +kernel)), ⟨_, (k base).2 (met (by decide +kernel))⟩, (g base 0).1 (met (by decide +kernel)),
    ((g th3 0x2000).2 (met (by decide +kernel))).1 ⟨(5, ⟨owner, 0x3FFF, 1, 1405, .posted⟩), by unfold th3; exact .head _, (met (by decide +kernel)), (met (by decide +kernel))⟩, ⟨_, a⟩, ⟨_, b⟩⟩

end Sys2Proof.Tests
end

