-- ==== Sys2Proof/Tests/Witness16b.lean ====
section
/-! SUPPORT. Witnesses: host requests, power states, resets, lock representations and dumps. -/

-- One theorem after the other: elaborating many at once needs more threads than the memory limit holds.
set_option Elab.async false

open Sys2Proof Sys2Proof.Machine Sys2Proof.Statements

namespace Sys2Proof.Tests

/-! ## The host -/

/-- A request under the host's key, and one that is a response. -/
def asks (type : Nat) : Packet :=
  let q := one.packet type 0 0 5 0 false (dw1Of 0 3 0 0 0) 0 []
  { q with mac := (sealPacket 5 q).2 }
/-- The session's key is 5; rank 0 is in a step; core 1 is spilled, or computes, or its queue of launches is full; an
invalidation runs; no session runs. -/
@[irreducible] def to1 : State := { base with fabric := { base.fabric with hostKey := some 5 } }
@[irreducible] def to2 : State := to1.setRank 0 { to1.rank 0 with state := .inStep, wrows := 1 }
@[irreducible] def to3 : State := to1.modCore 1 fun c => { c with holding := true }
@[irreducible] def to4 : State := computing1 to1
@[irreducible] def to5 : State := to1.modCore 1 fun c => { c with launchQ := [rec1, rec1, rec1, rec1] }
@[irreducible] def to6 : State := invaling 3 to1
def poolAt : BitVec 52 := BitVec.ofNat 52 (2 ^ 48 + 0x100000)
def lastOf (n : Nat) : BitVec 52 := BitVec.ofNat 52 (2 ^ 49 + n * 2 ^ 16 + 0xBFFF)

/-- A request as the statement takes it. -/
def Asked (s : State) (op : HostOp) (own : Prop) (type : Nat) : Prop := own ↔
  (due (.hostRequest (asks type) op) none s).fabric.hostKey = some (5 : BitVec 256) ∧ (asks type).type = 12 ∧ (asks type).encrypted = true ∧
    (asks type).mac = (sealPacket 5 (asks type)).2
theorem sealedAsk {type : Nat} : (asks type).mac = (sealPacket 5 (asks type)).2 := rfl

theorem witness_HostRequestsAreServed_dropped (h : HostRequestsAreServed) :
    (∃ t, exec .hostRequest (due (.hostRequest (asks 12) (.latTol 0)) none base) = .next t) ∧ ∃ t, exec .hostRequest (due (.hostRequest (asks 13) (.latTol 0)) none to1) = .next t :=
  ⟨⟨_, (h (due (.hostRequest (asks 12) (.latTol 0)) none base) base _ base (asks 12) default (.latTol 0) 5 0 0 0 [] 0 0 default 0 (.pown 0) _ takesDue rfl Iff.rfl).1 (.inl (met (by decide +kernel)))⟩,
   ⟨_, (h (due (.hostRequest (asks 13) (.latTol 0)) none to1) to1 _ base (asks 13) default (.latTol 0) 5 0 0 0 [] 0 0 default 0 (.pown 0) _ takesDue rfl Iff.rfl).1
      (.inr ⟨(met (by decide +kernel)), fun n => absurd n.2.1 (met (by decide +kernel))⟩)⟩⟩

theorem witness_HostRequestsAreServed_launch (h : HostRequestsAreServed) :
    (∃ t, exec .hostRequest (due (.hostRequest (asks 12) (.launch rec1)) none to1) = .next t) ∧
    exec .hostRequest (due (.hostRequest (asks 12) (.launch rec1)) none to5) = .next (due (.hostRequest (asks 12) (.launch rec1)) none to5) := by
  have g := fun (s t : State) (k : s.fabric.hostKey = some 5) =>
    ((h (due (.hostRequest (asks 12) (.launch rec1)) none s) s _ t (asks 12) default (.launch rec1) 5 0 0 0 [] 0 0 rec1 0 (.pown 0) _ takesDue rfl Iff.rfl).2.1 ⟨k, (met (by decide +kernel)), (met (by decide +kernel)), sealedAsk⟩).1 rfl
  exact ⟨⟨_, (g to1 _ (met (by decide +kernel))).1 (Option.some_get (met (by decide +kernel))).symm⟩, (g to5 to5 (met (by decide +kernel))).2 (Option.isNone_iff_eq_none.mp (met (by decide +kernel)))⟩

theorem witness_HostRequestsAreServed_reads (h : HostRequestsAreServed) :
    (∃ t, exec .hostRequest (due (.hostRequest (asks 12) (.read 0 poolAt 0)) none to1) = .next t) ∧ (∃ t, exec .hostRequest (due (.hostRequest (asks 12) (.read 1 poolAt 8)) none to1) = .next t) ∧
    (∃ t, exec .hostRequest (due (.hostRequest (asks 12) (.read 0 poolAt 4095)) none to1) = .next t) ∧
    exec .hostRequest (due (.hostRequest (asks 12) (.read 0 0 8)) none to2) = .next (due (.hostRequest (asks 12) (.read 0 0 8)) none to2) := by
  have g := fun (s : State) (tenant : BitVec 6) (pa : BitVec 52) (n : BitVec 12) (c : BitVec 8) (k : s.fabric.hostKey = some 5) =>
    (h (due (.hostRequest (asks 12) (.read tenant pa n)) none s) s _ s (asks 12) default (.read tenant pa n) 5 tenant pa n [] 0 0 default c (.pown 0) _ takesDue rfl Iff.rfl).2.1
      ⟨k, (met (by decide +kernel)), (met (by decide +kernel)), sealedAsk⟩
  exact ⟨⟨_, (g to1 0 poolAt 0 0 (met (by decide +kernel))).2.1 (.inl rfl)⟩, ⟨_, ((g to1 1 poolAt 8 0x06 (met (by decide +kernel))).2.2.1 rfl (met (by decide +kernel))).1 (met (by decide +kernel))⟩, ⟨_, ((g to1 0 poolAt 4095 0 (met (by decide +kernel))).2.2.1 rfl (met (by decide +kernel))).2.1 (met (by decide +kernel)) (met (by decide +kernel))⟩,
    ((g to2 0 0 8 0 (met (by decide +kernel))).2.2.1 rfl (met (by decide +kernel))).2.2 (met (by decide +kernel)) (met (by decide +kernel))⟩

theorem witness_HostRequestsAreServed_writes (h : HostRequestsAreServed) :
    (∃ t, exec .hostRequest (due (.hostRequest (asks 12) (.write 0 (lastOf 0) [1, 2])) none to1) = .next t) ∧
    (∃ t, exec .hostRequest (due (.hostRequest (asks 12) (.write 0 poolAt [1])) none to1) = .next t) ∧
    (∃ t, exec .hostRequest (due (.hostRequest (asks 12) (.write 0 (lastOf 1) [1])) none to4) = .next t) ∧
    (∃ t, exec .hostRequest (due (.hostRequest (asks 12) (.write 0 (lastOf 1) [1])) none to1) = .next t) ∧
    exec .hostRequest (due (.hostRequest (asks 12) (.write 0 (lastOf 1) [1])) none to3) = .next (due (.hostRequest (asks 12) (.write 0 (lastOf 1) [1])) none to3) := by
  have g := fun (s : State) (pa : BitVec 52) (bs : List Byte) (c : BitVec 8) (k : s.fabric.hostKey = some 5) =>
    ((h (due (.hostRequest (asks 12) (.write 0 pa bs)) none s) s _ s (asks 12) default (.write 0 pa bs) 5 0 pa 0 bs 0 0 default c (.pown 0) _ takesDue rfl Iff.rfl).2.1
      ⟨k, (met (by decide +kernel)), (met (by decide +kernel)), sealedAsk⟩).2.2.2.1 rfl
  exact ⟨⟨_, (g to1 (lastOf 0) [1, 2] 0x06 (met (by decide +kernel)) nofun).1 (met (by decide +kernel))⟩, ⟨_, ((g to1 poolAt [1] 0 (met (by decide +kernel)) nofun).2 (met (by decide +kernel)) (met (by decide +kernel))).1 (met (by decide +kernel))⟩, ⟨_, (((g to4 (lastOf 1) [1] 0 (met (by decide +kernel)) nofun).2 (met (by decide +kernel)) (met (by decide +kernel))).2.1 (met (by decide +kernel)) (met (by decide +kernel))).1 (met (by decide +kernel))⟩,
    ⟨_, (((g to1 (lastOf 1) [1] 0 (met (by decide +kernel)) nofun).2 (met (by decide +kernel)) (met (by decide +kernel))).2.1 (met (by decide +kernel)) (met (by decide +kernel))).2 (met (by decide +kernel))⟩, ((g to3 (lastOf 1) [1] 0 (met (by decide +kernel)) nofun).2 (met (by decide +kernel)) (met (by decide +kernel))).2.2 (met (by decide +kernel)) (met (by decide +kernel))⟩

theorem witness_HostRequestsAreServed_control (h : HostRequestsAreServed) :
    (∃ t, exec .hostRequest (due (.hostRequest (asks 12) (.ctrlRead 4)) none to1) = .next t) ∧ (∃ t, exec .hostRequest (due (.hostRequest (asks 12) (.ctrlRead 0x10001F8)) none to1) = .next t) ∧
    (∃ t, exec .hostRequest (due (.hostRequest (asks 12) (.ctrlWrite 0x20 7)) none to1) = .next t) ∧
    (∃ t, exec .hostRequest (due (.hostRequest (asks 12) (.ctrlWrite 0x10001F8 7)) none to1) = .next t) ∧
    exec .hostRequest (due (.hostRequest (asks 12) (.ctrlWrite 8 7)) none to6) = .next (due (.hostRequest (asks 12) (.ctrlWrite 8 7)) none to6) ∧
    ∃ t, exec .hostRequest (due (.hostRequest (asks 12) (.latTol 0xFFFFFFFF)) none to1) = .next t := by
  have g := fun (s t : State) (op : HostOp) (off : BitVec 48) (w : Word) (r : CtrlReg) (k : s.fabric.hostKey = some 5) =>
    ((h (due (.hostRequest (asks 12) op) none s) s _ t (asks 12) default op 5 0 0 0 [] off w default 0 r _ takesDue rfl Iff.rfl).2.1 ⟨k, (met (by decide +kernel)), (met (by decide +kernel)), sealedAsk⟩).2.2.2.2
  exact ⟨⟨_, ((g to1 to1 (.ctrlRead 4) 4 0 (.pown 0) (met (by decide +kernel))).1 rfl).1 (met (by decide +kernel))⟩, ⟨_, ((g to1 to1 (.ctrlRead 0x10001F8) 0x10001F8 0 (.pown 504) (met (by decide +kernel))).1 rfl).2 (met (by decide +kernel))⟩,
    ⟨_, ((g to1 to1 (.ctrlWrite 0x20 7) 0x20 7 (.pown 0) (met (by decide +kernel))).2.1 rfl).1 (met (by decide +kernel))⟩,
    ⟨_, ((g to1 _ (.ctrlWrite 0x10001F8 7) 0x10001F8 7 (.pown 504) (met (by decide +kernel))).2.1 rfl).2.1 (met (by decide +kernel)) (Option.some_get (met (by decide +kernel))).symm⟩,
    ((g to6 to6 (.ctrlWrite 8 7) 8 7 (.xinv 0) (met (by decide +kernel))).2.1 rfl).2.2 (met (by decide +kernel)) (Option.isNone_iff_eq_none.mp (met (by decide +kernel))),
    ⟨_, (g to1 to1 (.latTol 0xFFFFFFFF) 0 0xFFFFFFFF (.pown 0) (met (by decide +kernel))).2.2 rfl⟩⟩

theorem witness_HostRequestsAreServed_response (h : HostRequestsAreServed) : ∃ bs : List Byte, bs.length = 1023 ∧ (hostResponse 0 5 (asks 12) 6 bs).data = bs := by
  obtain ⟨bs, e⟩ : ∃ bs : List Byte, bs.length = 1023 := ⟨List.replicate 1023 7, List.length_replicate⟩
  exact ⟨bs, e, ((h (due (.hostRequest (asks 12) (.latTol 0)) none to1) to1 _ to1 (asks 12) _ (.latTol 0) 5 0 0 0 bs 0 0 default 6 (.pown 0) _ takesDue rfl Iff.rfl).2.2 rfl
    (by rw [e]; exact (met (by decide +kernel)))).2.2.2.2.1⟩

/-! ## Power -/

/-- Core 1 tolerates no latency, or 1 us; it sleeps with its die; every core of cluster 511 sleeps; the stacks sleep, and the
package has had no traffic for 1 ms, or nearly so. -/
def sleeping (tol : BitVec 32) (a : List PowerUnit) (c : Nat) (s : State) : State := { s with tol := tol, asleep := a, cycle := BitVec.ofNat 64 c, traffic := 0 }
@[irreducible] def tp1 : State := sleeping 0 [] 0 base
@[irreducible] def tp2 : State := sleeping 1 [] 0 base
@[irreducible] def tp3 : State := sleeping 8 ((List.range 16).map fun n => .core (511#9 ++ BitVec.ofNat 4 n)) 0 base
@[irreducible] def tp4 : State := sleeping 3000 [.stackMem] 1400000 base
@[irreducible] def tp5 : State := sleeping 3000 [.stackMem] 1399999 base
@[irreducible] def tp6 : State := sleeping 8 [.core 1, .cluster 0, .die 0, .core 17] 0 base

theorem coreRests {s : State} (h : ((s.getCore 1).front.life == .idle && (s.getCore 1).shadow.life == .idle && (List.finRange 4).all (fun i => (s.getCore 1).save.get i == none) &&
    (s.getCore 1).launchQ == [] && (s.getCore 1).outbox == [] && (s.getCore 1).spilling == none && (s.getCore 1).filling == none && s.cmds == [] && s.fabric.reqs == []) = true) :
    MayRest s (.core 1) := by
  simp only [Bool.and_eq_true, beq_iff_eq, List.all_eq_true] at h
  obtain ⟨⟨⟨⟨⟨⟨⟨⟨a, b⟩, c⟩, d⟩, e⟩, f⟩, g⟩, i⟩, j⟩ := h
  unfold MayRest
  rw [i, j]
  exact ⟨a, b, fun i => c i (List.mem_finRange i), d, e, f, g, fun _ => nofun, fun _ => nofun⟩

theorem witness_UnitsRestAndWake_entry (h : UnitsRestAndWake) :
    (∃ t, exec .powerStateEntry (due (.powerStateEntry (.core 1)) none tp2) = .next t) ∧ (∃ t, exec .powerStateEntry (due (.powerStateEntry (.cluster 511)) none tp3) = .next t) ∧
    (∃ t, exec .powerStateEntry (due (.powerStateEntry .package) none tp4) = .next t) ∧ exec .powerStateEntry (due (.powerStateEntry .package) none tp5) = .next tp5 ∧
    exec .powerStateEntry (due (.powerStateEntry (.core 1)) none tp1) = .next tp1 ∧ exec .powerStateEntry (due (.powerStateEntry (.core 17)) none tp6) = .next tp6 := by
  have g := fun (s : State) (q : PowerUnit) => (h (due (.powerStateEntry q) none s) s q 0 0).1 takesDue
  exact ⟨⟨_, (g tp2 (.core 1)).1 (met (by decide +kernel)) (met (by decide +kernel)) (coreRests (met (by decide +kernel)))⟩, ⟨_, (g tp3 (.cluster 511)).1 (met (by decide +kernel)) (met (by decide +kernel)) (fun n => (by decide +kernel :
      ∀ n : BitVec 4, PowerUnit.core (511#9 ++ n) ∈ (due (.powerStateEntry (.cluster 511)) none tp3).asleep) n)⟩,
    ⟨_, (g tp4 .package).1 (met (by decide +kernel)) (met (by decide +kernel)) ⟨(met (by decide +kernel)), (met (by decide +kernel))⟩⟩, (g tp5 .package).2 (.inr (.inr fun m => absurd m.2 (met (by decide +kernel)))), (g tp1 (.core 1)).2 (.inr (.inl (met (by decide +kernel)))), (g tp6 (.core 17)).2 (.inl (met (by decide +kernel)))⟩

theorem witness_UnitsRestAndWake_wake (h : UnitsRestAndWake) :
    (∃ p, ∃ y ∈ tp2.offerRest.due, y.act = .powerStateEntry p) ∧ (∃ t, exec .wake (due (.wake (.core 1)) none tp6) = .next t) ∧
    (tp6.withTol 7).asleep = [.core 1, .core 17] := by
  have e := (h tp6 tp6 (.core 1) 1 7).2.2.2
  obtain ⟨A, a | a, -⟩ := (h (due (.wake (.core 1)) none tp6) tp6 (.core 1) 1 0).2.2.1 takesDue
  · exact ⟨(h tp2 tp2 (.core 1) 1 0).2.1 (met (by decide +kernel)) (met (by decide +kernel)) (coreRests (met (by decide +kernel))), ⟨_, a.2⟩, by rw [e]; exact (met (by decide +kernel))⟩
  · exact ⟨(h tp2 tp2 (.core 1) 1 0).2.1 (met (by decide +kernel)) (met (by decide +kernel)) (coreRests (met (by decide +kernel))), ⟨_, a⟩, by rw [e]; exact (met (by decide +kernel))⟩

/-! ## Reset -/

theorem witness_PackageResetBringsUp (h : PackageResetBringsUp) :
    (∃ t, exec .packageReset (due (.packageReset true default 5) none base) = .next t) ∧ ∃ t, exec .packageReset (due (.packageReset false default 5) none base) = .next t := by
  obtain ⟨_, a, -⟩ := (h (due (.packageReset true default 5) none base) base default 5).1 takesDue
  obtain ⟨_, b, -⟩ := (h (due (.packageReset false default 5) none base) base default 5).2 takesDue
  exact ⟨⟨_, a⟩, ⟨_, b⟩⟩

/-! ## Locks and dumps -/

/-- Core 1 awaits a lock, for reading, or for writing; it is idle. -/
def locking (i : Instr) : State := base.modCore 1 fun c => { c with front := { c.front with life := .live, status := 2, progress := .lock i none } }
@[irreducible] def tl1 : State := locking (.rwlr (.x 9) (.x 1))
@[irreducible] def tl2 : State := locking (.rwlw (.x 9) (.x 1))
/-- The context of core 0 is dead: a command of its own is outstanding, or none; its dump area is at 0x900000, or it has none. -/
def death0 : Death := ⟨0x17, 0, 0, 1, [0]⟩
def dying (f : Ctx → Ctx) (s : State) : State := s.mapCtx fun k => f { k with life := .dead death0 }
@[irreducible] def tl3 : State := dying (fun k => { k with dumpBase := 0x900000 }) base
@[irreducible] def tl4 : State := { tl3 with cmds := [stackCmd 1 .coll] }
@[irreducible] def tl5 : State := dying id base

theorem witness_LocksAndDumps_locks (h : LocksAndDumps) :
    exec .lockRepresentation (due (.lockRepresentation 1) none tl1) = exec (.rwlr (.x 9) (.x 1)) (tl1.focus 1) ∧
    exec .lockRepresentation (due (.lockRepresentation 1) none tl2) = exec (.rwlw (.x 9) (.x 1)) (tl2.focus 1) ∧
    ∃ t, exec .lockRepresentation (due (.lockRepresentation 1) none base) = .next t :=
  ⟨((h (due (.lockRepresentation 1) none tl1) tl1 1 _ (.x 9) (.x 1) none death0 default [] 0 (named (met (by decide +kernel))) rfl).1 takesDue).1 (met (by decide +kernel)) (met (by decide +kernel)),
   ((h (due (.lockRepresentation 1) none tl2) tl2 1 _ (.x 9) (.x 1) none death0 default [] 0 (named (met (by decide +kernel))) rfl).1 takesDue).2.1 (met (by decide +kernel)) (met (by decide +kernel)),
   ⟨_, ((h (due (.lockRepresentation 1) none base) base 1 _ (.x 9) (.x 1) none death0 default [] 0 (named (met (by decide +kernel))) rfl).1 takesDue).2.2 (met (by decide +kernel))⟩⟩

theorem okOf {ε α : Type} {e : Except ε α} (h : e.toOption.isSome = true) : e = .ok (e.toOption.get h) := by
  cases e with
  | ok v => rfl
  | error x => cases h

def errOf {α : Type} (e : Except (BitVec 2) α) : Option (BitVec 2) :=
  match e with
  | .error c => some c
  | .ok _ => none
theorem errIs {α : Type} {e : Except (BitVec 2) α} {c : BitVec 2} (h : errOf e = some c) : e = .error c := by
  cases e with
  | ok v => cases h
  | error x => cases h; rfl

theorem witness_LocksAndDumps_dump (h : LocksAndDumps) :
    exec .hardwareDump (due (.hardwareDump 0) none tl4) = .next (due (.hardwareDump 0) none tl4) ∧ (∃ t, exec .hardwareDump (due (.hardwareDump 0) none tl5) = .next t) ∧
    ∃ t, exec .hardwareDump (due (.hardwareDump 0) none tl3) = .next t := by
  obtain ⟨_, a, -⟩ := ((((h (due (.hardwareDump 0) none tl5) tl5 0 _ (.x 9) (.x 1) none death0 _ [] 0 (named (met (by decide +kernel))) rfl).2 takesDue (met (by decide +kernel)) rfl).2.1 (met (by decide +kernel)) (met (by decide +kernel)) (met (by decide +kernel))).1 (errIs (met (by decide +kernel))))
  obtain ⟨_, _, _, _, b, -⟩ := ((((h (due (.hardwareDump 0) none tl3) tl3 0 _ (.x 9) (.x 1) none death0 _ _ 0 (named (met (by decide +kernel))) rfl).2 takesDue (met (by decide +kernel)) rfl).2.1 (met (by decide +kernel)) (met (by decide +kernel)) (met (by decide +kernel))).2 (okOf (met (by decide +kernel))))
  exact ⟨((h (due (.hardwareDump 0) none tl4) tl4 0 _ (.x 9) (.x 1) none death0 _ [] 0 (named (met (by decide +kernel))) rfl).2 takesDue (met (by decide +kernel)) rfl).1 (met (by decide +kernel)), ⟨_, a⟩, ⟨_, b⟩⟩

end Sys2Proof.Tests
end

