-- ==== Sys2Proof/Tests/Witness17.lean ====
section
/-! SUPPORT. Witnesses: frames, steps, encodings, and what every step keeps. -/

-- One theorem after the other: elaborating many at once needs more threads than the memory limit holds.
set_option Elab.async false

open Sys2Proof Sys2Proof.Machine Sys2Proof.Statements

namespace Sys2Proof.Tests

/-! ## Frames -/

theorem witness_ScalarInstructionsKeepTheRest (h : ScalarInstructionsKeepTheRest) :
    (∃ t, exec (.add (.x 3) (.x 1) (.x 2)) w1 = .next t ∧ t.ctx.readX 2 = w1.ctx.readX 2) ∧
    (∃ t, exec (.bne (.x 1) (.x 2) 2) w1 = .next t ∧ t.ctx.readX 3 = w1.ctx.readX 3) ∧
    ∃ t, exec (.ld (.x 3) (.x 1) .d8 0) m1 = .next t ∧ ∀ q, t.byte q = m1.byte q :=
  ⟨⟨_, next_of_isNext (met (by decide +kernel)), (h w1 _ (.add (.x 3) (.x 1) (.x 2)) (some (.x 3)) (solo (met (by decide +kernel))) (met (by decide +kernel)) rfl (next_of_isNext (met (by decide +kernel)))).2.1 2 (met (by decide +kernel))⟩,
   ⟨_, next_of_isNext (met (by decide +kernel)), (h w1 _ (.bne (.x 1) (.x 2) 2) none (solo (met (by decide +kernel))) (met (by decide +kernel)) rfl (next_of_isNext (met (by decide +kernel)))).2.1 3 (met (by decide +kernel))⟩,
   ⟨_, next_of_isNext (met (by decide +kernel)), (h m1 _ (.ld (.x 3) (.x 1) .d8 0) (some (.x 3)) (solo (met (by decide +kernel))) (met (by decide +kernel)) rfl (next_of_isNext (met (by decide +kernel)))).1⟩⟩

/-- A byte that lies at none of the places of an access. -/
theorem apart {p : Phys} {n q : Nat} (h : ∀ i, i < n → ¬(q = canon (p.pa + i) ∨ q = canon p.pa + i)) : ¬PlacedAt p n q := fun ⟨i, l, e⟩ => h i l e

@[irreducible] def sm1 : State := withX [(7, 0x900001)] m1
def poolPhys : Phys := ⟨2 ^ 48 + 0x100000, false, false, true⟩

/-- A store into the pool; an atomic there; a store that is not aligned, which changes nothing. -/
theorem witness_StoresChangeOnlyTheirBytes (h : StoresChangeOnlyTheirBytes) :
    (∃ t, exec (.st (.x 5) (.x 1) .w8 0) sm1 = .next t ∧ t.byte (2 ^ 48 + 0x100008) = sm1.byte (2 ^ 48 + 0x100008)) ∧
    (∃ t, exec (.aadd (.x 9) (.x 1) (.x 5) .relaxed) sm1 = .next t ∧ t.ctx.readX 5 = sm1.ctx.readX 5) ∧
    ∃ t, exec (.st (.x 5) (.x 7) .w8 0) sm1 = .next t ∧ ∀ q, t.byte q = sm1.byte q :=
  ⟨⟨_, next_of_isNext (met (by decide +kernel)), (h sm1 sm1 sm1 _ (.st (.x 5) (.x 1) .w8 0) none (.x 5) (.x 1) (.x 1) .w8 0 .core .relaxed .i64 0x900000 0x900000 0 8 3 .store true (solo (met (by decide +kernel))) (named (met (by decide +kernel))) (met (by decide +kernel)) (readsX (met (by decide +kernel)) (met (by decide +kernel)))
      (.inl ⟨rfl, rfl, w8, (met (by decide +kernel)), rfl, rfl, rfl⟩) (next_of_isNext (met (by decide +kernel)))).1 poolPhys _ (goes (met (by decide +kernel))) _ (apart (met (by decide +kernel)))⟩,
   ⟨_, next_of_isNext (met (by decide +kernel)), (h sm1 sm1 sm1 _ (.aadd (.x 9) (.x 1) (.x 5) .relaxed) (some (.x 9)) (.x 9) (.x 1) (.x 5) .w8 0 .core .relaxed .i64 0x900000 0x900000 0 8 3 .atomic false (solo (met (by decide +kernel))) (named (met (by decide +kernel))) (met (by decide +kernel)) (readsX (met (by decide +kernel)) (met (by decide +kernel)))
      (.inr (.inr (.inr (.inl ⟨.head _, rfl, rfl, rfl, rfl, rfl, rfl⟩)))) (next_of_isNext (met (by decide +kernel)))).2.2.1 5 (met (by decide +kernel))⟩,
   ⟨_, next_of_isNext (met (by decide +kernel)), (h sm1 sm1 sm1 _ (.st (.x 5) (.x 7) .w8 0) none (.x 5) (.x 7) (.x 1) .w8 0 .core .relaxed .i64 0x900001 0x900001 0 8 3 .store true (solo (met (by decide +kernel))) (named (met (by decide +kernel))) (met (by decide +kernel)) (readsX (met (by decide +kernel)) (met (by decide +kernel)))
      (.inl ⟨rfl, rfl, w8, (met (by decide +kernel)), rfl, rfl, rfl⟩) (next_of_isNext (met (by decide +kernel)))).2.1 (.inl (met (by decide +kernel)))⟩⟩

theorem witness_VectorsAndTilesKeepTheRest (h : VectorsAndTilesKeepTheRest) :
    (∃ t, exec (.vadd 31 1 2 0 .f32) base = .next t ∧ t.ctx.readV 1 = base.ctx.readV 1) ∧ (∃ t, exec (.mand 7 1 2) base = .next t ∧ t.ctx.readP 1 = base.ctx.readP 1) ∧
    ∃ t, exec (.mmov 7 0) base = .next t ∧ ∀ q, t.byte q = base.byte q :=
  ⟨⟨_, next_of_isNext (met (by decide +kernel)), (h base _ (.vadd 31 1 2 0 .f32) (solo (met (by decide +kernel))) (next_of_isNext (met (by decide +kernel))) (.inl (met (by decide +kernel)))).1 1 (met (by decide +kernel))⟩,
   ⟨_, next_of_isNext (met (by decide +kernel)), (h base _ (.mand 7 1 2) (solo (met (by decide +kernel))) (next_of_isNext (met (by decide +kernel))) (.inr (.inl (met (by decide +kernel))))).2.1 1 (met (by decide +kernel))⟩,
   ⟨_, next_of_isNext (met (by decide +kernel)), (h base _ (.mmov 7 0) (solo (met (by decide +kernel))) (next_of_isNext (met (by decide +kernel))) (.inr (.inr (met (by decide +kernel))))).2.2.2.2.2.2⟩⟩

/-! ## Steps -/

/-- `ADDI x5, x0, -100` stands at the pc; the strand of core 0 is the only agent. A hint of rounding and saturation is bound to it.
The word there is 0. -/
def addiAt (n : Nat) (s : State) : State := s.poke (2 ^ 49 + 0x100 + n) [0x9C, 0x3F, 0x50, 0x08]
@[irreducible] def st1 : State := addiAt 0 base
@[irreducible] def st2 : State := (addiAt 4 base).mapCtx fun k => { k with hints := [0xFEB00000] }
@[irreducible] def st3 : State := base.mapCtx fun k => { k with life := .idle }
@[irreducible] def st1' : State := st1.focus 0
@[irreducible] def st2' : State := st2.focus 0
@[irreducible] def st4' : State := base.focus 0
/-- `LEMPTY x0, x0` stands at the pc, and the arrivals of the cycle have come. -/
@[irreducible] def st5 : State := { base.poke (2 ^ 49 + 0x100) (bytesOfNat 4 (encode (.lempty (.x 0) (.x 0))).toNat) with stage := 3 }
@[irreducible] def st5' : State := st5.focus 0
/-- A swap of core 0 is due, since an earlier cycle, or since this one. -/
def swapping (d : SwapDue) : State := st1.mapFocus fun c => { c with swapDue := d, shadow := { c.shadow with life := .live } }
@[irreducible] def st6 : State := swapping .now
@[irreducible] def st6' : State := st6.focus 0
@[irreducible] def st7 : State := swapping (.since 0)
@[irreducible] def st7' : State := st7.focus 0
def fetched (n : Nat) : Phys := ⟨2 ^ 49 + 0x100 + n, true, true, false⟩

/-- One of the three outcomes of a step that a statement gives. -/
theorem stepsBy {i : Instr} {f r s : State} (h : StepsBy i f r s) (e : orderOf i r.core.id = 0) : step s = mapNext (afterRun i f r) (exec i r) := h.1 (.inl e)

theorem witness_AStepRunsTheDecodedInstruction_strand (h : Obligations.AStepRunsTheDecodedInstruction) :
    (∃ o, step st1 = o) ∧ (∃ t, step st2 = .next t) ∧ (∃ o, step base = o) ∧ step st5 = .next (passes st5) := by
  have g := fun (s t s1 : State) (n : Nat) (w : BitVec 32) (i : Instr) a b c d => (h s t s1 0 (fetched n) w i 0 default .package (.rank 0)).2.2.1 a b c d
  exact ⟨⟨_, stepsBy (((g st1 st1' _ 0 0x08503F9C (.addi (.x 5) (.x 0) (BitVec.ofInt 14 (-100))) (met (by decide +kernel)) (met (by decide +kernel)) (.inr ⟨(met (by decide +kernel)), (met (by decide +kernel))⟩) (by unfold st1'; rfl)).2 (.inl (met (by decide +kernel))) (goes (met (by decide +kernel))) (ready (met (by decide +kernel))) (met (by decide +kernel)) (met (by decide +kernel))).2 rfl |>.1 (.inr (met (by decide +kernel)))) (met (by decide +kernel))⟩,
    ⟨_, ((g st2 st2' _ 4 0x08503F9C (.addi (.x 5) (.x 0) (BitVec.ofInt 14 (-100))) (met (by decide +kernel)) (met (by decide +kernel)) (.inr ⟨(met (by decide +kernel)), (met (by decide +kernel))⟩) (by unfold st2'; rfl)).2 (.inl (met (by decide +kernel))) (goes (met (by decide +kernel))) (ready (met (by decide +kernel))) (met (by decide +kernel)) (met (by decide +kernel))).2 rfl |>.2 0xFEB00000 rfl (met (by decide +kernel)) (solo (met (by decide +kernel)))⟩,
    ⟨_, ((g base st4' _ 0 0 .sHalt (met (by decide +kernel)) (met (by decide +kernel)) (.inr ⟨(met (by decide +kernel)), (met (by decide +kernel))⟩) (by unfold st4'; rfl)).2 (.inl (met (by decide +kernel))) (goes (met (by decide +kernel))) (ready (met (by decide +kernel))) (met (by decide +kernel)) (met (by decide +kernel))).1 .illegal rfl⟩,
    (((g st5 st5' _ 0 (encode (.lempty (.x 0) (.x 0))) (.lempty (.x 0) (.x 0)) (met (by decide +kernel)) (met (by decide +kernel)) (.inr ⟨(met (by decide +kernel)), (met (by decide +kernel))⟩) (by unfold st5'; rfl)).2 (.inl (met (by decide +kernel))) (goes (met (by decide +kernel))) (ready (met (by decide +kernel))) (met (by decide +kernel)) (met (by decide +kernel))).2 rfl |>.1 (.inr (met (by decide +kernel)))).2
      (by unfold Timely; exact (met (by decide +kernel)))⟩

theorem witness_AStepRunsTheDecodedInstruction_swap (h : Obligations.AStepRunsTheDecodedInstruction) : step st6 = .next ((st6'.forceSwap 0).after 0 none) ∧ ∃ o, step st7 = o := by
  have g := fun (s t s1 : State) (i : Instr) a b c d => (h s t s1 0 (fetched 0) 0x08503F9C i 0 default .package (.rank 0)).2.2.1 a b c d
  exact ⟨(g st6 st6' st6 .sHalt (met (by decide +kernel)) (met (by decide +kernel)) (.inr ⟨(met (by decide +kernel)), (met (by decide +kernel))⟩) (by unfold st6'; rfl)).1 (met (by decide +kernel)) (met (by decide +kernel)) (met (by decide +kernel)),
    ⟨_, stepsBy (((g st7 st7' _ (.addi (.x 5) (.x 0) (BitVec.ofInt 14 (-100))) (met (by decide +kernel)) (met (by decide +kernel)) (.inr ⟨(met (by decide +kernel)), (met (by decide +kernel))⟩) (by unfold st7'; rfl)).2 (.inr (.inl (met (by decide +kernel)))) (goes (met (by decide +kernel))) (ready (met (by decide +kernel))) (met (by decide +kernel)) (met (by decide +kernel))).2 rfl |>.1 (.inr (met (by decide +kernel)))) (met (by decide +kernel))⟩⟩

/-- The exchange slot of core 0 is now, and core 1 lives too. -/
@[irreducible] def st8 : State := (st1.mapCtx fun k => { k with progress := .slot 0 }).modCore 1 fun c => { c with front := { c.front with life := .live } }
@[irreducible] def st8' : State := st8.focus 0
theorem witness_AStepRunsTheDecodedInstruction_slot (h : Obligations.AStepRunsTheDecodedInstruction) : ∃ o, step st8 = o :=
  ⟨_, stepsBy ((((h st8 st8' _ 0 (fetched 0) 0x08503F9C (.addi (.x 5) (.x 0) (BitVec.ofInt 14 (-100))) 0 default .package (.rank 0)).2.2.1 (met (by decide +kernel)) (met (by decide +kernel)) (.inl (met (by decide +kernel))) (by unfold st8'; rfl)).2
    (.inl (met (by decide +kernel))) (goes (met (by decide +kernel))) (ready (met (by decide +kernel))) (met (by decide +kernel)) (met (by decide +kernel))).2 rfl |>.1 (.inr (met (by decide +kernel)))) (met (by decide +kernel))⟩

/-- Core 1 sleeps; a step word HALT of rank 1 stands at its SPC; the package is in reset. -/
@[irreducible] def st9 : State := { st3 with asleep := [.core 1] }
@[irreducible] def st10 : State := { (sg1.setRank 2 StepCtx.reset).mapCtx (fun k => { k with life := .idle }) with unit := none, seqs := [(0, ⟨[(1022, encode .sHalt)], []⟩)] }
@[irreducible] def st11 : State := { st3 with down := true }
@[irreducible] def st12 : State := { st3 with stage := 4 }

theorem witness_AStepRunsTheDecodedInstruction_acts (h : Obligations.AStepRunsTheDecodedInstruction) :
    (∃ o, step (due (.updtComplete 1) none st3) = o) ∧ (∃ o, step (due (.updtComplete 1) (some 0) st1) = o) ∧ (∃ o, step (due (.launchArrival 0 1) none st9) = o) ∧
    step (due (.evict owner []) none st12) = .next (passes (due (.evict owner []) none st12)) := by
  have g := fun (s : State) (a : Act) (u : PowerUnit) x y z => (h (due a none s) s s 0 default 0 default 0 ⟨a, none⟩ u (.rank 0)).2.2.2 x y z |>.1
  exact ⟨⟨_, stepsBy ((g st3 (.updtComplete 1) .package (met (by decide +kernel)) (met (by decide +kernel)) (met (by decide +kernel)) (met (by decide +kernel)) rfl).1 nofun) (met (by decide +kernel))⟩,
    ⟨_, (h (due (.updtComplete 1) (some 0) st1) st1 st1 0 default 0 default 0 ⟨.updtComplete 1, some 0⟩ .package (.rank 0)).2.1 (met (by decide +kernel)) (met (by decide +kernel)) rfl nofun⟩,
    ⟨_, (g st9 (.launchArrival 0 1) (.core 1) (met (by decide +kernel)) (met (by decide +kernel)) (met (by decide +kernel)) (met (by decide +kernel)) rfl).2 rfl (met (by decide +kernel))⟩,
    ((g st12 (.evict owner []) .package (met (by decide +kernel)) (met (by decide +kernel)) (met (by decide +kernel)) (met (by decide +kernel)) rfl).1 nofun).2 (by unfold Timely; exact (met (by decide +kernel)))⟩

theorem witness_AStepRunsTheDecodedInstruction_rest (h : Obligations.AStepRunsTheDecodedInstruction) :
    (∃ o, step st10 = o) ∧ step st11 = .next (st11.after 0 none) ∧ step st3 = .next (passes st3) ∧ ∃ a ∈ st1.agents, st1.choose.1 = some a := by
  have g := fun (s : State) i => (h s s s 0 default 0 i 0 default .package (.rank 1))
  exact ⟨⟨_, stepsBy (((g st10 .sHalt).2.2.2 (met (by decide +kernel)) (met (by decide +kernel)) (met (by decide +kernel))).2.1 (met (by decide +kernel)) (met (by decide +kernel))) (met (by decide +kernel))⟩, (g st11 .sHalt).1 (met (by decide +kernel)) (by rw [((met (by decide +kernel)) : st11.due = [])]; intro y m; cases m),
    ((g st3 .sHalt).2.2.2 (met (by decide +kernel)) (met (by decide +kernel)) (met (by decide +kernel))).2.2.2 (met (by decide +kernel)), ((g st1 .sHalt).2.2.2 (met (by decide +kernel)) (met (by decide +kernel)) (met (by decide +kernel))).2.2.1 (met (by decide +kernel))⟩

/-! ## Encodings -/

/-- A branch backwards from the least displacement; a vector memory form; a step with its fields at their ends. -/
theorem witness_DecodeAndEncodeAgree (h : Obligations.DecodeAndEncodeAgree) :
    decode (encode (.bne (.x 31) (.hist 7) (BitVec.intMin _))) = .ok (.bne (.x 31) (.hist 7) (BitVec.intMin _)) ∧
    decodeStep (encode (.sRred 7 3 63 .bf16 .max 1023)) = some (.sRred 7 3 63 .bf16 .max 1023) ∧
    encode (.addi (.x 5) (.x 0) (BitVec.ofInt 14 (-100))) = 0x08503F9C :=
  ⟨h.1 _ (met (by decide +kernel)) (met (by decide +kernel)), h.2.1 _ (met (by decide +kernel)) (met (by decide +kernel)), (h.2.2.1 0x08503F9C _ rfl).2⟩

/-! ## What every step keeps -/

theorem witness_EveryStepKeepsMemoryCanonical (h : Obligations.EveryStepKeepsMemoryCanonical) : (nextOf (step st1)).Inv ∧ (nextOf (step State.reset)).Inv :=
  ⟨h st1 _ (by unfold State.Inv; exact (met (by decide +kernel))) (next_of_isNext (met (by decide +kernel))), h State.reset _ (by unfold State.Inv; exact (met (by decide +kernel))) (next_of_isNext (met (by decide +kernel)))⟩

theorem witness_EveryStepKeepsCoresNamed (h : Obligations.EveryStepKeepsCoresNamed) : (nextOf (step st1)).Named ∧ (nextOf (step State.reset)).Named :=
  ⟨h st1 _ (named (met (by decide +kernel))) (next_of_isNext (met (by decide +kernel))), h State.reset _ (named (met (by decide +kernel))) (next_of_isNext (met (by decide +kernel)))⟩

end Sys2Proof.Tests
end

