-- ==== Sys2Proof/Tests/Words.lean ====
section
/-! SUPPORT. Decoding is right: for every row that has an encoding, one word written out from the encoding
tables of the spec (OP, the fixed bits and each field, each at its place) and the instruction it stands for. -/

-- One theorem after the other: elaborating many at once needs more threads than the memory limit holds.
set_option Elab.async false

namespace Sys2Proof.Tests

/-- Each word decodes to the instruction beside it. -/
def decodes (l : List (Nat × Instr)) : Bool := l.all fun p => decodeTableWord 32 p.1 == some p.2

/-- Each step word decodes to the step beside it. -/
def stepDecodes (l : List (Nat × Instr)) : Bool := l.all fun p => decodeStep (BitVec.ofNat 32 p.1) == some p.2

/-- Integer register operations, OP 1 (R98 to R100). -/
theorem test_decode_integer_register_operations : decodes [
    (1 * 2 ^ 26 + 56 * 2 ^ 20 + 36 * 2 ^ 14 + 31 * 2 ^ 8, .add (.chan 0) (.hist 4) (.x 31)),
    (1 * 2 ^ 26 + 58 * 2 ^ 20 + 6 * 2 ^ 14 + 49 * 2 ^ 8 + 1, .sub (.chan 2) (.x 6) (.port 1)),
    (1 * 2 ^ 26 + 26 * 2 ^ 20 + 50 * 2 ^ 14 + 37 * 2 ^ 8 + 2, .and (.x 26) (.port 2) (.hist 5)),
    (1 * 2 ^ 26 + 57 * 2 ^ 20 + 7 * 2 ^ 14 + 51 * 2 ^ 8 + 3, .or (.chan 1) (.x 7) (.port 3)),
    (1 * 2 ^ 26 + 27 * 2 ^ 20 + 48 * 2 ^ 14 + 37 * 2 ^ 8 + 4, .xor (.x 27) (.port 0) (.hist 5)),
    (1 * 2 ^ 26 + 51 * 2 ^ 20 + 51 * 2 ^ 14 + 50 * 2 ^ 8 + 5, .andn (.port 3) (.port 3) (.port 2)),
    (1 * 2 ^ 26 + 62 * 2 ^ 20 + 32 * 2 ^ 14 + 57 * 2 ^ 8 + 6, .sll (.chan 6) (.hist 0) (.chan 1)),
    (1 * 2 ^ 26 + 48 * 2 ^ 20 + 34 * 2 ^ 14 + 35 * 2 ^ 8 + 7, .srl (.port 0) (.hist 2) (.hist 3)),
    (1 * 2 ^ 26 + 31 * 2 ^ 20 + 39 * 2 ^ 14 + 5 * 2 ^ 8 + 8, .sra (.x 31) (.hist 7) (.x 5)),
    (1 * 2 ^ 26 + 49 * 2 ^ 20 + 60 * 2 ^ 14 + 44 * 2 ^ 8 + 9, .rol (.port 1) (.chan 4) (.ring 4)),
    (1 * 2 ^ 26 + 51 * 2 ^ 20 + 38 * 2 ^ 14 + 37 * 2 ^ 8 + 10, .mul (.port 3) (.hist 6) (.hist 5)),
    (1 * 2 ^ 26 + 63 * 2 ^ 20 + 32 * 2 ^ 14 + 46 * 2 ^ 8 + 11, .mulh (.chan 7) (.hist 0) (.ring 6)),
    (1 * 2 ^ 26 + 48 * 2 ^ 20 + 40 * 2 ^ 14 + 50 * 2 ^ 8 + 12, .mulhu (.port 0) (.ring 0) (.port 2)),
    (1 * 2 ^ 26 + 51 * 2 ^ 20 + 51 * 2 ^ 14 + 1 * 2 ^ 8 + 13, .div (.port 3) (.port 3) (.x 1)),
    (1 * 2 ^ 26 + 23 * 2 ^ 20 + 45 * 2 ^ 14 + 37 * 2 ^ 8 + 14, .divu (.x 23) (.ring 5) (.hist 5)),
    (1 * 2 ^ 26 + 51 * 2 ^ 20 + 37 * 2 ^ 14 + 43 * 2 ^ 8 + 15, .rem (.port 3) (.hist 5) (.ring 3)),
    (1 * 2 ^ 26 + 50 * 2 ^ 20 + 43 * 2 ^ 14 + 48 * 2 ^ 8 + 16, .remu (.port 2) (.ring 3) (.port 0)),
    (1 * 2 ^ 26 + 48 * 2 ^ 20 + 36 * 2 ^ 14 + 58 * 2 ^ 8 + 17, .min (.port 0) (.hist 4) (.chan 2)),
    (1 * 2 ^ 26 + 24 * 2 ^ 20 + 40 * 2 ^ 14 + 51 * 2 ^ 8 + 18, .max (.x 24) (.ring 0) (.port 3)),
    (1 * 2 ^ 26 + 49 * 2 ^ 20 + 45 * 2 ^ 14 + 50 * 2 ^ 8 + 19, .minu (.port 1) (.ring 5) (.port 2))] = true := by decide +kernel

/-- Integer register operations, OP 1 (R98 to R100). -/
theorem test_decode_integer_register_operations_2 : decodes [
    (1 * 2 ^ 26 + 11 * 2 ^ 20 + 51 * 2 ^ 14 + 36 * 2 ^ 8 + 20, .maxu (.x 11) (.port 3) (.hist 4)),
    (1 * 2 ^ 26 + 60 * 2 ^ 20 + 15 * 2 ^ 14 + 34 * 2 ^ 8 + 21, .slt (.chan 4) (.x 15) (.hist 2)),
    (1 * 2 ^ 26 + 48 * 2 ^ 20 + 31 * 2 ^ 14 + 45 * 2 ^ 8 + 22, .sltu (.port 0) (.x 31) (.ring 5)),
    (1 * 2 ^ 26 + 18 * 2 ^ 20 + 48 * 2 ^ 14 + 48 * 2 ^ 8 + 23, .seq (.x 18) (.port 0) (.port 0)),
    (1 * 2 ^ 26 + 57 * 2 ^ 20 + 13 * 2 ^ 14 + 24, .clz (.chan 1) (.x 13)),
    (1 * 2 ^ 26 + 48 * 2 ^ 20 + 39 * 2 ^ 14 + 25, .ctz (.port 0) (.hist 7)),
    (1 * 2 ^ 26 + 10 * 2 ^ 20 + 7 * 2 ^ 14 + 26, .popc (.x 10) (.x 7)),
    (1 * 2 ^ 26 + 58 * 2 ^ 20 + 17 * 2 ^ 14 + 36 * 2 ^ 8 + 27, .bfx (.chan 2) (.x 17) (.hist 4)),
    (1 * 2 ^ 26 + 10 * 2 ^ 20 + 50 * 2 ^ 14 + 27 * 2 ^ 8 + 28, .bfi (.x 10) (.port 2) (.x 27))] = true := by decide +kernel

/-- Immediates and shifts, OPs 2 to 10 (R101 to R103). -/
theorem test_decode_immediates_and_shifts : decodes [
    (2 * 2 ^ 26 + 58 * 2 ^ 20 + 48 * 2 ^ 14 + 10116, .addi (.chan 2) (.port 0) 10116),
    (3 * 2 ^ 26 + 51 * 2 ^ 20 + 36 * 2 ^ 14 + 13064, .andi (.port 3) (.hist 4) 13064),
    (4 * 2 ^ 26 + 59 * 2 ^ 20 + 32 * 2 ^ 14 + 9674, .ori (.chan 3) (.hist 0) 9674),
    (5 * 2 ^ 26 + 18 * 2 ^ 20 + 36 * 2 ^ 14 + 9416, .xori (.x 18) (.hist 4) 9416),
    (6 * 2 ^ 26 + 22 * 2 ^ 20 + 57 * 2 ^ 14 + 14942, .slti (.x 22) (.chan 1) 14942),
    (7 * 2 ^ 26 + 51 * 2 ^ 20 + 36 * 2 ^ 14 + 8414, .sltiu (.port 3) (.hist 4) 8414),
    (8 * 2 ^ 26 + 62 * 2 ^ 20 + 43 * 2 ^ 14 + 16, .slli (.chan 6) (.ring 3) 16),
    (8 * 2 ^ 26 + 62 * 2 ^ 20 + 57 * 2 ^ 14 + 64 * 2 ^ 6 + 28, .srli (.chan 6) (.chan 1) 28),
    (8 * 2 ^ 26 + 59 * 2 ^ 20 + 32 * 2 ^ 14 + 128 * 2 ^ 6 + 40, .srai (.chan 3) (.hist 0) 40),
    (8 * 2 ^ 26 + 12 * 2 ^ 20 + 49 * 2 ^ 14 + 192 * 2 ^ 6 + 51, .roli (.x 12) (.port 1) 51),
    (9 * 2 ^ 26 + 59 * 2 ^ 20 + 825134, .lui (.chan 3) 825134),
    (10 * 2 ^ 26 + 20 * 2 ^ 20 + 708975, .auipc (.x 20) 708975)] = true := by decide +kernel

/-- Scalar floating point, OP 11 (R104 to R106). -/
theorem test_decode_scalar_floating_point : decodes [
    (11 * 2 ^ 26 + 58 * 2 ^ 20 + 49 * 2 ^ 14 + 63 * 2 ^ 8, .fadd (.chan 2) (.port 1) (.chan 7)),
    (11 * 2 ^ 26 + 56 * 2 ^ 20 + 44 * 2 ^ 14 + 50 * 2 ^ 8 + 1, .fsub (.chan 0) (.ring 4) (.port 2)),
    (11 * 2 ^ 26 + 48 * 2 ^ 20 + 45 * 2 ^ 14 + 32 * 2 ^ 8 + 2, .fmul (.port 0) (.ring 5) (.hist 0)),
    (11 * 2 ^ 26 + 1 * 2 ^ 20 + 46 * 2 ^ 14 + 63 * 2 ^ 8 + 3, .fma (.x 1) (.ring 6) (.chan 7)),
    (11 * 2 ^ 26 + 29 * 2 ^ 20 + 42 * 2 ^ 14 + 57 * 2 ^ 8 + 4, .fdiv (.x 29) (.ring 2) (.chan 1)),
    (11 * 2 ^ 26 + 60 * 2 ^ 20 + 37 * 2 ^ 14 + 5, .fsqrt (.chan 4) (.hist 5)),
    (11 * 2 ^ 26 + 51 * 2 ^ 20 + 62 * 2 ^ 14 + 58 * 2 ^ 8 + 6, .fmin (.port 3) (.chan 6) (.chan 2)),
    (11 * 2 ^ 26 + 49 * 2 ^ 20 + 35 * 2 ^ 14 + 58 * 2 ^ 8 + 7, .fmax (.port 1) (.hist 3) (.chan 2)),
    (11 * 2 ^ 26 + 51 * 2 ^ 20 + 61 * 2 ^ 14 + 45 * 2 ^ 8 + 8, .feq (.port 3) (.chan 5) (.ring 5)),
    (11 * 2 ^ 26 + 49 * 2 ^ 20 + 59 * 2 ^ 14 + 35 * 2 ^ 8 + 9, .flt (.port 1) (.chan 3) (.hist 3)),
    (11 * 2 ^ 26 + 63 * 2 ^ 20 + 34 * 2 ^ 14 + 37 * 2 ^ 8 + 10, .fle (.chan 7) (.hist 2) (.hist 5)),
    (11 * 2 ^ 26 + 63 * 2 ^ 20 + 51 * 2 ^ 14 + 11, .fclass (.chan 7) (.port 3)),
    (11 * 2 ^ 26 + 50 * 2 ^ 20 + 45 * 2 ^ 14 + 8 * 2 ^ 8 + 12, .fcvt (.port 2) (.ring 5) .f32ToE4m3)] = true := by decide +kernel

/-- Branches, jumps and hardware loops, OPs 12 to 20 (R107 to R109). -/
theorem test_decode_branches_jumps_and_hardware_loops : decodes [
    (12 * 2 ^ 26 + 9 * 2 ^ 20 + 51 * 2 ^ 14 + 9737, .beq (.x 9) (.port 3) 9737),
    (13 * 2 ^ 26 + 62 * 2 ^ 20 + 20 * 2 ^ 14 + 9919, .bne (.chan 6) (.x 20) 9919),
    (14 * 2 ^ 26 + 3 * 2 ^ 20 + 10 * 2 ^ 14 + 14362, .blt (.x 3) (.x 10) 14362),
    (15 * 2 ^ 26 + 36 * 2 ^ 20 + 30 * 2 ^ 14 + 14417, .bge (.hist 4) (.x 30) 14417),
    (16 * 2 ^ 26 + 63 * 2 ^ 20 + 42 * 2 ^ 14 + 8715, .bltu (.chan 7) (.ring 2) 8715),
    (17 * 2 ^ 26 + 39 * 2 ^ 20 + 60 * 2 ^ 14 + 9638, .bgeu (.hist 7) (.chan 4) 9638),
    (18 * 2 ^ 26 + 50 * 2 ^ 20 + 528246, .jal (.port 2) 528246),
    (19 * 2 ^ 26 + 62 * 2 ^ 20 + 63 * 2 ^ 14 + 13105, .jalr (.chan 6) (.chan 7) 13105),
    (20 * 2 ^ 26 + 48 * 2 ^ 18 + 9911, .loop false (.port 0) 9911),
    (20 * 2 ^ 26 + 1 * 2 ^ 25 + 2560 * 2 ^ 12 + 2480, .loopi false 2560 2480)] = true := by decide +kernel

/-- Loads, stores and bit access, OPs 21 to 23 (R112 to R117). -/
theorem test_decode_loads_stores_and_bit_access : decodes [
    (21 * 2 ^ 26 + 63 * 2 ^ 20 + 43 * 2 ^ 14 + 6 * 2 ^ 11 + 1382, .ld (.chan 7) (.ring 3) .z4 1382),
    (22 * 2 ^ 26 + 60 * 2 ^ 20 + 34 * 2 ^ 14 + 1 * 2 ^ 11 + 2025, .st (.chan 4) (.hist 2) .w2 2025),
    (23 * 2 ^ 26 + 50 * 2 ^ 20 + 21 * 2 ^ 14 + 2 * 2 ^ 11 + 5 * 2 ^ 8, .lda (.port 2) (.x 21) .s4 .fabric),
    (23 * 2 ^ 26 + 21 * 2 ^ 20 + 11 * 2 ^ 14 + 2 * 2 ^ 11 + 2 * 2 ^ 8 + 1, .stl (.x 21) (.x 11) .w4 .cluster),
    (23 * 2 ^ 26 + 50 * 2 ^ 20 + 2 * 2 ^ 14 + 20 * 2 ^ 8 + 1 * 2 ^ 6 + 2, .ldbit (.port 2) 2 20 true),
    (23 * 2 ^ 26 + 51 * 2 ^ 20 + 3 * 2 ^ 14 + 1 * 2 ^ 8 + 3, .stbit (.port 3) 3 1 false),
    (23 * 2 ^ 26 + 3 * 2 ^ 20 + 19 * 2 ^ 14 + 63 * 2 ^ 8 + 4, .baset 3 (.x 19) (.chan 7))] = true := by decide +kernel

/-- Atomics and locks, OPs 24 and 25 (R249 to R254, R265). -/
theorem test_decode_atomics_and_locks : decodes [
    (24 * 2 ^ 26 + 17 * 2 ^ 20 + 7 * 2 ^ 14 + 62 * 2 ^ 8 + 1 * 2 ^ 6, .aadd (.x 17) (.x 7) (.chan 6) .acquire),
    (24 * 2 ^ 26 + 48 * 2 ^ 20 + 40 * 2 ^ 14 + 49 * 2 ^ 8 + 1 * 2 ^ 6 + 1, .amin (.port 0) (.ring 0) (.port 1) .acquire),
    (24 * 2 ^ 26 + 59 * 2 ^ 20 + 9 * 2 ^ 14 + 27 * 2 ^ 8 + 1 * 2 ^ 6 + 2, .amax (.chan 3) (.x 9) (.x 27) .acquire),
    (24 * 2 ^ 26 + 56 * 2 ^ 20 + 62 * 2 ^ 14 + 7 * 2 ^ 8 + 1 * 2 ^ 6 + 3, .aand (.chan 0) (.chan 6) (.x 7) .acquire),
    (24 * 2 ^ 26 + 1 * 2 ^ 20 + 51 * 2 ^ 14 + 6 * 2 ^ 8 + 2 * 2 ^ 6 + 4, .aor (.x 1) (.port 3) (.x 6) .release),
    (24 * 2 ^ 26 + 48 * 2 ^ 20 + 33 * 2 ^ 14 + 6 * 2 ^ 8 + 2 * 2 ^ 6 + 5, .axor (.port 0) (.hist 1) (.x 6) .release),
    (24 * 2 ^ 26 + 51 * 2 ^ 20 + 59 * 2 ^ 14 + 50 * 2 ^ 8 + 2 * 2 ^ 6 + 6, .aswp (.port 3) (.chan 3) (.port 2) .release),
    (24 * 2 ^ 26 + 1 * 2 ^ 20 + 45 * 2 ^ 14 + 39 * 2 ^ 8 + 1 * 2 ^ 6 + 7, .acas (.x 1) (.ring 5) (.hist 7) .acquire),
    (24 * 2 ^ 26 + 15 * 2 ^ 20 + 29 * 2 ^ 14 + 45 * 2 ^ 8 + 1 * 2 ^ 6 + 8, .abadd (.x 15) (.x 29) (.ring 5) .acquire),
    (24 * 2 ^ 26 + 1 * 2 ^ 20 + 49 * 2 ^ 14 + 50 * 2 ^ 8 + 1 * 2 ^ 6 + 9, .redadd .i32 (.port 1) (.port 2) .acquire),
    (24 * 2 ^ 26 + 1 * 2 ^ 20 + 51 * 2 ^ 14 + 63 * 2 ^ 8 + 2 * 2 ^ 6 + 10, .redmin .i32 (.port 3) (.chan 7) .release),
    (24 * 2 ^ 26 + 1 * 2 ^ 20 + 12 * 2 ^ 14 + 45 * 2 ^ 8 + 1 * 2 ^ 6 + 11, .redmax .i32 (.x 12) (.ring 5) .acquire),
    (25 * 2 ^ 26 + 5 * 2 ^ 8 + 2 * 2 ^ 6, .fence false .fabric .release),
    (25 * 2 ^ 26 + 57 * 2 ^ 20 + 37 * 2 ^ 14 + 1, .rwlr (.chan 1) (.hist 5)),
    (25 * 2 ^ 26 + 62 * 2 ^ 20 + 36 * 2 ^ 14 + 2, .rwlw (.chan 6) (.hist 4)),
    (25 * 2 ^ 26 + 59 * 2 ^ 20 + 50 * 2 ^ 14 + 3, .rwur (.chan 3) (.port 2)),
    (25 * 2 ^ 26 + 60 * 2 ^ 20 + 33 * 2 ^ 14 + 4, .rwuw (.chan 4) (.hist 1))] = true := by decide +kernel

/-- System, OP 26 (R63, R118, R119). -/
theorem test_decode_system : decodes [
    (26 * 2 ^ 26 + 21 * 2 ^ 20 + 3341, .sysr (.x 21) 3341),
    (26 * 2 ^ 26 + 49 * 2 ^ 20 + 32 * 2 ^ 12 + 2640, .sysw (.port 1) 2640),
    (26 * 2 ^ 26 + 64 * 2 ^ 12 + 3100, .ecall 3100),
    (26 * 2 ^ 26 + 393216, .eret),
    (26 * 2 ^ 26 + 524288, .yield),
    (26 * 2 ^ 26 + 655360, .halt),
    (26 * 2 ^ 26 + 192 * 2 ^ 12 + 3489, .brk 3489)] = true := by decide +kernel

/-- Events, OP 27, and what arrives (R199 to R214). -/
theorem test_decode_events : decodes [
    (27 * 2 ^ 26 + 35 * 2 ^ 14 + 22 * 2 ^ 8, .send (.hist 3) (.x 22)),
    (27 * 2 ^ 26 + 24 * 2 ^ 14 + 35 * 2 ^ 8 + 1 * 2 ^ 6 + 1, .sendm (.x 24) (.hist 3) true),
    (27 * 2 ^ 26 + 33 * 2 ^ 14 + 2, .launch (.hist 1)),
    (27 * 2 ^ 26 + 59 * 2 ^ 20 + 9 * 2 ^ 14 + 48 * 2 ^ 8 + 3, .wait (.chan 3) 9 (.port 0)),
    (27 * 2 ^ 26 + 48 * 2 ^ 20 + 59 * 2 ^ 14 + 20 * 2 ^ 8 + 4, .waitany (.port 0) (.chan 3) (.x 20)),
    (27 * 2 ^ 26 + 6 * 2 ^ 20 + 39 * 2 ^ 14 + 13 * 2 ^ 8 + 5, .ctrset 6 (.hist 7) (.x 13)),
    (27 * 2 ^ 26 + 10 * 2 ^ 20 + 57 * 2 ^ 14 + 6, .ctradd 10 (.chan 1))] = true := by decide +kernel

/-- Copies, rings and lines, OPs 28 and 29 (R157 to R169). -/
theorem test_decode_copies_rings_and_lines : decodes [
    (28 * 2 ^ 26 + 2 * 2 ^ 20 + 58 * 2 ^ 14 + 61 * 2 ^ 8 + 1 * 2 ^ 6, .copy 2 (.chan 2) (.chan 5) true),
    (28 * 2 ^ 26 + 9 * 2 ^ 20 + 37 * 2 ^ 14 + 32 * 2 ^ 8 + 1 * 2 ^ 6 + 1, .copy2d 9 (.hist 5) (.hist 0) true),
    (28 * 2 ^ 26 + 18 * 2 ^ 20 + 48 * 2 ^ 14 + 56 * 2 ^ 8 + 1 * 2 ^ 6 + 2, .gather 18 (.port 0) (.chan 0) true),
    (28 * 2 ^ 26 + 6 * 2 ^ 20 + 51 * 2 ^ 14 + 63 * 2 ^ 8 + 3, .scatter 6 (.port 3) (.chan 7)),
    (29 * 2 ^ 26 + 46 * 2 ^ 20 + 50 * 2 ^ 14 + 41 * 2 ^ 8, .rset (.ring 6) (.port 2) (.ring 1)),
    (29 * 2 ^ 26 + 43 * 2 ^ 14 + 48 * 2 ^ 8 + 1, .radvp 3 (.port 0)),
    (29 * 2 ^ 26 + 47 * 2 ^ 14 + 36 * 2 ^ 8 + 2, .radvc 7 (.hist 4)),
    (29 * 2 ^ 26 + 56 * 2 ^ 20 + 44 * 2 ^ 14 + 17 * 2 ^ 8 + 1 * 2 ^ 6 + 3, .rfill (.chan 0) 4 (.x 17) true),
    (29 * 2 ^ 26 + 47 * 2 ^ 14 + 50 * 2 ^ 8 + 4, .lfull (.ring 7) (.port 2)),
    (29 * 2 ^ 26 + 50 * 2 ^ 14 + 49 * 2 ^ 8 + 5, .lempty (.port 2) (.port 1)),
    (29 * 2 ^ 26 + 10 * 2 ^ 20 + 16 * 2 ^ 14 + 6, .ltest (.x 10) (.x 16))] = true := by decide +kernel

/-- Vector arithmetic and bitwise, OPs 30 and 31 (R125, R126). -/
theorem test_decode_vector_arithmetic_and_bitwise : decodes [
    (30 * 2 ^ 26 + 30 * 2 ^ 21 + 31 * 2 ^ 16 + 16 * 2 ^ 11 + 2 * 2 ^ 8 + 4 * 2 ^ 5, .vadd 30 31 16 2 .e5m2),
    (30 * 2 ^ 26 + 27 * 2 ^ 21 + 29 * 2 ^ 16 + 5 * 2 ^ 11 + 4 * 2 ^ 8 + 7 * 2 ^ 5 + 1, .vsub 27 29 5 4 .f32),
    (30 * 2 ^ 26 + 2 * 2 ^ 21 + 19 * 2 ^ 16 + 21 * 2 ^ 11 + 6 * 2 ^ 8 + 2, .vmul 2 19 21 6 .i8),
    (30 * 2 ^ 26 + 27 * 2 ^ 21 + 26 * 2 ^ 16 + 8 * 2 ^ 11 + 1 * 2 ^ 8 + 5 * 2 ^ 5 + 3, .vfma 27 26 8 1 .bf16),
    (30 * 2 ^ 26 + 10 * 2 ^ 21 + 27 * 2 ^ 16 + 17 * 2 ^ 11 + 2 * 2 ^ 8 + 3 * 2 ^ 5 + 4, .vmin 10 27 17 2 .e4m3),
    (30 * 2 ^ 26 + 15 * 2 ^ 21 + 4 * 2 ^ 16 + 7 * 2 ^ 11 + 2 * 2 ^ 8 + 4 * 2 ^ 5 + 5, .vmax 15 4 7 2 .e5m2),
    (30 * 2 ^ 26 + 10 * 2 ^ 21 + 19 * 2 ^ 16 + 1 * 2 ^ 8 + 3 * 2 ^ 5 + 6, .vabs 10 19 1 .e4m3),
    (30 * 2 ^ 26 + 31 * 2 ^ 21 + 13 * 2 ^ 16 + 4 * 2 ^ 8 + 2 * 2 ^ 5 + 7, .vneg 31 13 4 .i32),
    (31 * 2 ^ 26 + 13 * 2 ^ 21 + 6 * 2 ^ 16 + 6 * 2 ^ 11 + 1 * 2 ^ 8 + 4 * 2 ^ 5, .vand 13 6 6 1 .e5m2),
    (31 * 2 ^ 26 + 28 * 2 ^ 21 + 24 * 2 ^ 16 + 26 * 2 ^ 11 + 7 * 2 ^ 8 + 4 * 2 ^ 5 + 1, .vor 28 24 26 7 .e5m2),
    (31 * 2 ^ 26 + 24 * 2 ^ 21 + 13 * 2 ^ 16 + 14 * 2 ^ 11 + 1 * 2 ^ 8 + 4 * 2 ^ 5 + 2, .vxor 24 13 14 1 .e5m2),
    (31 * 2 ^ 26 + 30 * 2 ^ 21 + 24 * 2 ^ 16 + 3 * 2 ^ 8 + 5 * 2 ^ 5 + 3, .vnot 30 24 3 .bf16),
    (31 * 2 ^ 26 + 8 * 2 ^ 21 + 9 * 2 ^ 16 + 13 * 2 ^ 11 + 7 * 2 ^ 8 + 1 * 2 ^ 5 + 4, .vsll 8 9 13 7 .i16),
    (31 * 2 ^ 26 + 15 * 2 ^ 21 + 13 * 2 ^ 16 + 14 * 2 ^ 11 + 7 * 2 ^ 8 + 1 * 2 ^ 5 + 5, .vsrl 15 13 14 7 .i16),
    (31 * 2 ^ 26 + 23 * 2 ^ 21 + 1 * 2 ^ 16 + 10 * 2 ^ 11 + 4 * 2 ^ 8 + 1 * 2 ^ 5 + 6, .vsra 23 1 10 4 .i16),
    (31 * 2 ^ 26 + 2 * 2 ^ 21 + 15 * 2 ^ 16 + 5 * 2 ^ 8 + 7, .vpopc 2 15 5 .i8)] = true := by decide +kernel

/-- Vector compare, masks, transforms and special functions, OPs 32 to 34 (R127 to R135). -/
theorem test_decode_vector_compare_masks_transforms_and_special_functions : decodes [
    (32 * 2 ^ 26 + 5 * 2 ^ 21 + 7 * 2 ^ 16 + 2 * 2 ^ 11 + 6 * 2 ^ 8 + 1 * 2 ^ 5, .vcmp .leu 7 2 6 .i16),
    (32 * 2 ^ 26 + 24 * 2 ^ 21 + 24 * 2 ^ 16 + 28 * 2 ^ 11 + 5 * 2 ^ 8 + 7 * 2 ^ 5 + 1, .vsel 24 24 28 5 .f32),
    (32 * 2 ^ 26 + 3 * 2 ^ 21 + 6 * 2 ^ 16 + 1 * 2 ^ 8 + 6 * 2 ^ 5 + 2, .vclass 3 6 1 .f16),
    (32 * 2 ^ 26 + 3 * 2 ^ 21 + 5 * 2 ^ 16 + 1 * 2 ^ 11 + 3, .mand 3 5 1),
    (32 * 2 ^ 26 + 2 * 2 ^ 21 + 2 * 2 ^ 16 + 1 * 2 ^ 11 + 4, .mor 2 2 1),
    (32 * 2 ^ 26 + 6 * 2 ^ 21 + 1 * 2 ^ 16 + 5, .mnot 6 1),
    (32 * 2 ^ 26 + 5 * 2 ^ 21 + 1 * 2 ^ 16 + 4 * 2 ^ 5 + 6, .mcnt 5 1 .e5m2),
    (33 * 2 ^ 26 + 26 * 2 ^ 21 + 20 * 2 ^ 16 + 6 * 2 ^ 11 + 6 * 2 ^ 8 + 2 * 2 ^ 5, .vcvt 26 20 0 .f16 6 .i32),
    (33 * 2 ^ 26 + 27 * 2 ^ 21 + 10 * 2 ^ 16 + 7 * 2 ^ 8 + 5 * 2 ^ 5 + 1, .vrsum 27 10 7 .bf16),
    (33 * 2 ^ 26 + 21 * 2 ^ 21 + 11 * 2 ^ 16 + 7 * 2 ^ 8 + 1 * 2 ^ 5 + 2, .vrmax 21 11 7 .i16),
    (33 * 2 ^ 26 + 1 * 2 ^ 21 + 16 * 2 ^ 16 + 3 * 2 ^ 8 + 3, .vrmin 1 16 3 .i8),
    (33 * 2 ^ 26 + 4 * 2 ^ 21 + 14 * 2 ^ 16 + 5 * 2 ^ 8 + 7 * 2 ^ 5 + 4, .vscan 4 14 5 .f32),
    (33 * 2 ^ 26 + 20 * 2 ^ 21 + 11 * 2 ^ 16 + 16 * 2 ^ 11 + 3 * 2 ^ 8 + 6 * 2 ^ 5 + 5, .vperm 20 11 16 3 .f16),
    (33 * 2 ^ 26 + 8 * 2 ^ 21 + 14 * 2 ^ 16 + 5 * 2 ^ 8 + 5 * 2 ^ 5 + 6, .vbcast 8 14 5 .bf16),
    (33 * 2 ^ 26 + 27 * 2 ^ 21 + 22 * 2 ^ 16 + 26 * 2 ^ 11 + 5 * 2 ^ 5 + 7, .vext 27 22 26 0 .bf16),
    (33 * 2 ^ 26 + 12 * 2 ^ 21 + 7 * 2 ^ 8 + 8, .viota 12 7 .i8),
    (33 * 2 ^ 26 + 19 * 2 ^ 21 + 23 * 2 ^ 16 + 7 * 2 ^ 11 + 5 * 2 ^ 8 + 6 * 2 ^ 5 + 9, .vtopk 19 23 7 5 .f16),
    (34 * 2 ^ 26 + 9 * 2 ^ 21 + 26 * 2 ^ 16 + 6 * 2 ^ 8 + 6 * 2 ^ 5, .vexp2 9 26 6 .f16),
    (34 * 2 ^ 26 + 26 * 2 ^ 21 + 15 * 2 ^ 16 + 4 * 2 ^ 8 + 5 * 2 ^ 5 + 1, .vrcp 26 15 4 .bf16),
    (34 * 2 ^ 26 + 17 * 2 ^ 21 + 27 * 2 ^ 16 + 1 * 2 ^ 8 + 5 * 2 ^ 5 + 2, .vrsq 17 27 1 .bf16)] = true := by decide +kernel

/-- Vector compare, masks, transforms and special functions, OPs 32 to 34 (R127 to R135). -/
theorem test_decode_vector_compare_masks_transforms_and_special_functions_2 : decodes [
    (34 * 2 ^ 26 + 31 * 2 ^ 21 + 6 * 2 ^ 16 + 2 * 2 ^ 8 + 5 * 2 ^ 5 + 3, .vlog2 31 6 2 .bf16)] = true := by decide +kernel

/-- Vector memory and atomics, OPs 35 and 36 (R136 to R146). -/
theorem test_decode_vector_memory_and_atomics : decodes [
    (35 * 2 ^ 26 + 4 * 2 ^ 21 + 3 * 2 ^ 16 + 1 * 2 ^ 15 + 8 * 2 ^ 11 + 4 * 2 ^ 8 + 5 * 2 ^ 5, .vld 4 3 true 8 4 .bf16),
    (35 * 2 ^ 26 + 3 * 2 ^ 21 + 4 * 2 ^ 16 + 1 * 2 ^ 15 + 7 * 2 ^ 11 + 4 * 2 ^ 8 + 6 * 2 ^ 5 + 1, .vst 3 4 true 7 4 .f16),
    (35 * 2 ^ 26 + 15 * 2 ^ 21 + 2 * 2 ^ 16 + 28 * 2 ^ 11 + 6 * 2 ^ 8 + 6 * 2 ^ 5 + 2, .vldx 15 2 28 6 .f16),
    (35 * 2 ^ 26 + 21 * 2 ^ 21 + 19 * 2 ^ 16 + 1 * 2 ^ 11 + 1 * 2 ^ 8 + 7 * 2 ^ 5 + 3, .vstx 21 19 1 1 .f32),
    (35 * 2 ^ 26 + 9 * 2 ^ 21 + 2 * 2 ^ 16 + 3 * 2 ^ 11 + 5 * 2 ^ 8 + 2 * 2 ^ 5 + 4, .vldbit 9 false 2 3 5 .i32),
    (35 * 2 ^ 26 + 19 * 2 ^ 21 + 1 * 2 ^ 18 + 1 * 2 ^ 16 + 6 * 2 ^ 11 + 1 * 2 ^ 8 + 1 * 2 ^ 5 + 5, .vstbit 19 true 1 6 1 .i16),
    (36 * 2 ^ 26 + 8 * 2 ^ 21 + 25 * 2 ^ 16 + 15 * 2 ^ 11 + 3 * 2 ^ 8 + 5 * 2 ^ 5, .vaadd 8 25 15 3 .bf16),
    (36 * 2 ^ 26 + 21 * 2 ^ 21 + 10 * 2 ^ 16 + 31 * 2 ^ 11 + 2 * 2 ^ 8 + 2 * 2 ^ 5 + 1, .vaor 21 10 31 2 .i32),
    (36 * 2 ^ 26 + 31 * 2 ^ 21 + 20 * 2 ^ 16 + 11 * 2 ^ 11 + 2 * 2 ^ 8 + 5 * 2 ^ 5 + 2, .vamax 31 20 11 2 .bf16),
    (36 * 2 ^ 26 + 13 * 2 ^ 21 + 23 * 2 ^ 16 + 10 * 2 ^ 11 + 2 * 2 ^ 8 + 2 * 2 ^ 5 + 3, .vredadd 13 23 10 2 .i32)] = true := by decide +kernel

/-- Matrix instructions, OPs 40 to 45 (R177 to R189). -/
theorem test_decode_matrix_instructions : decodes [
    (40 * 2 ^ 26 + 9 * 2 ^ 20 + 31 * 2 ^ 13 + 22 * 2 ^ 6, .mldw (.x 9) 31 22),
    (41 * 2 ^ 26 + 6 * 2 ^ 23 + 42 * 2 ^ 17 + 31 * 2 ^ 10 + 2 * 2 ^ 8 + 7 * 2 ^ 4, .mm 6 (.ring 2) 31 .k64 .e4m3_e2m3),
    (42 * 2 ^ 26 + 3 * 2 ^ 23 + 26 * 2 ^ 17 + 37 * 2 ^ 10 + 3 * 2 ^ 8 + 6 * 2 ^ 4 + 1 * 2 ^ 3, .mms 3 (.x 26) 37 .k96 .e4m3_e3m2 true),
    (43 * 2 ^ 26 + 4 * 2 ^ 23 + 49 * 2 ^ 17 + 34 * 2 ^ 10 + 1 * 2 ^ 8 + 3 * 2 ^ 4 + 2, .mmg 4 (.port 1) 34 .k48 .e5m2_e4m3 2),
    (44 * 2 ^ 26 + 3 * 2 ^ 20, .mzero 3),
    (44 * 2 ^ 26 + 1 * 2 ^ 23 + 3 * 2 ^ 20 + 28 * 2 ^ 11 + 48 * 2 ^ 5, .mld 3 (.x 28) (.port 0) false),
    (44 * 2 ^ 26 + 2 * 2 ^ 23 + 7 * 2 ^ 20 + 3 * 2 ^ 17 + 10 * 2 ^ 11 + 46 * 2 ^ 5 + 1 * 2 ^ 3 + 1 * 2 ^ 2, .mst 7 3 (.x 10) (.ring 6) true true),
    (44 * 2 ^ 26 + 3 * 2 ^ 23 + 3 * 2 ^ 20 + 1 * 2 ^ 17, .mmov 3 1),
    (44 * 2 ^ 26 + 4 * 2 ^ 23 + 6 * 2 ^ 20 + 5 * 2 ^ 17 + 3 * 2 ^ 14 + 1 * 2 ^ 4, .madd 6 5 3 true),
    (44 * 2 ^ 26 + 5 * 2 ^ 23 + 2 * 2 ^ 20 + 3 * 2 ^ 17 + 16 * 2 ^ 11 + 35 * 2 ^ 5, .mscale 2 3 (.x 16) (.hist 3)),
    (44 * 2 ^ 26 + 384 * 2 ^ 17 + 45 * 2 ^ 11, .mcb (.ring 5)),
    (44 * 2 ^ 26 + 7 * 2 ^ 23 + 7 * 2 ^ 20 + 4 * 2 ^ 17 + 2 * 2 ^ 14 + 1 * 2 ^ 4, .mxpose 7 4 2 true),
    (45 * 2 ^ 26 + 1 * 2 ^ 23 + 10 * 2 ^ 15 + 1 * 2 ^ 14 + 11199, .bts 1 10 true 11199)] = true := by decide +kernel

/-- Gangs and the transpose exchange, OP 46 (R221 to R233). -/
theorem test_decode_gangs_and_the_transpose_exchange : decodes [
    (46 * 2 ^ 26 + 6 * 2 ^ 20 + 48 * 2 ^ 14, .gang (.x 6) (.port 0)),
    (46 * 2 ^ 26 + 29 * 2 ^ 20 + 48 * 2 ^ 14 + 1, .gjoin (.x 29) (.port 0)),
    (46 * 2 ^ 26 + 23 * 2 ^ 14 + 2, .gleave (.x 23)),
    (46 * 2 ^ 26 + 56 * 2 ^ 20 + 5 * 2 ^ 14 + 3, .grejoin (.chan 0) (.x 5)),
    (46 * 2 ^ 26 + 59 * 2 ^ 14 + 4, .xptab (.chan 3)),
    (46 * 2 ^ 26 + 15 * 2 ^ 20 + 40 * 2 ^ 14 + 50 * 2 ^ 8 + 1 * 2 ^ 6 + 5, .xpose 15 (.ring 0) (.port 2) true)] = true := by decide +kernel

/-- Huddles and supersteps, OPs 47 and 48 (R275 to R285). -/
theorem test_decode_huddles_and_supersteps : decodes [
    (47 * 2 ^ 26 + 62 * 2 ^ 20 + 41 * 2 ^ 14 + 47 * 2 ^ 8, .hreg (.chan 6) (.ring 1) (.ring 7)),
    (47 * 2 ^ 26 + 62 * 2 ^ 14 + 1, .hdrop (.chan 6)),
    (47 * 2 ^ 26 + 56 * 2 ^ 20 + 60 * 2 ^ 14 + 2, .harr (.chan 0) (.chan 4)),
    (47 * 2 ^ 26 + 14 * 2 ^ 20 + 58 * 2 ^ 14 + 45 * 2 ^ 8 + 3, .hwait (.x 14) (.chan 2) (.ring 5)),
    (47 * 2 ^ 26 + 50 * 2 ^ 20 + 56 * 2 ^ 14 + 4, .hsync (.port 2) (.chan 0)),
    (47 * 2 ^ 26 + 62 * 2 ^ 20 + 50 * 2 ^ 14 + 5, .hdarr (.chan 6) (.port 2)),
    (48 * 2 ^ 26 + 38 * 2 ^ 14 + 18 * 2 ^ 8, .xtab (.hist 6) (.x 18)),
    (48 * 2 ^ 26 + 59 * 2 ^ 14 + 1, .xsend (.chan 3)),
    (48 * 2 ^ 26 + 16 * 2 ^ 20 + 63 * 2 ^ 14 + 2, .sstep (.x 16) (.chan 7) false)] = true := by decide +kernel

/-- Tasks and experts, OP 49 and q1 (R286 to R299). -/
theorem test_decode_tasks_and_experts : decodes [
    (49 * 2 ^ 26 + 25 * 2 ^ 20 + 38 * 2 ^ 14, .stdecl (.x 25) (.hist 6)),
    (49 * 2 ^ 26 + 61 * 2 ^ 14 + 64, .stdeclFree (.chan 5)),
    (49 * 2 ^ 26 + 19 * 2 ^ 20 + 36 * 2 ^ 14 + 1, .tspawn (.x 19) (.hist 4)),
    (49 * 2 ^ 26 + 2, .tret),
    (49 * 2 ^ 26 + 3, .tabort)] = true := by decide +kernel

/-- Differentiable memory, OP 50 (R306 to R315). -/
theorem test_decode_differentiable_memory : decodes [
    (50 * 2 ^ 26 + 21 * 2 ^ 20 + 1 * 2 ^ 6, .dmode (.x 21) .tape),
    (50 * 2 ^ 26 + 19 * 2 ^ 20 + 44 * 2 ^ 14 + 35 * 2 ^ 8 + 1, .dregset (.x 19) (.ring 4) (.hist 3)),
    (50 * 2 ^ 26 + 24 * 2 ^ 20 + 23 * 2 ^ 14 + 2, .ldadj (.x 24) (.x 23)),
    (50 * 2 ^ 26 + 42 * 2 ^ 20 + 57 * 2 ^ 14 + 3, .stadj (.ring 2) (.chan 1)),
    (50 * 2 ^ 26 + 2 * 2 ^ 20 + 45 * 2 ^ 14 + 3 * 2 ^ 6 + 4, .accadj (.x 2) (.ring 5) .both)] = true := by decide +kernel

/-- Stack engines and column sequencers, OP 51 and q0 (R327 to R346). -/
theorem test_decode_stack_engines_and_column_sequencers : decodes [
    (51 * 2 ^ 26 + 15 * 2 ^ 20 + 51 * 2 ^ 14, .updt 15 (.port 3)),
    (51 * 2 ^ 26 + 5 * 2 ^ 20 + 58 * 2 ^ 14 + 1, .fmt 5 (.chan 2)),
    (51 * 2 ^ 26 + 4 * 2 ^ 20 + 13 * 2 ^ 14 + 51 * 2 ^ 8 + 2, .rkload 4 (.x 13) (.port 3)),
    (51 * 2 ^ 26 + 10 * 2 ^ 20 + 58 * 2 ^ 14 + 3, .rkrun 10 (.chan 2)),
    (51 * 2 ^ 26 + 13 * 2 ^ 20 + 19 * 2 ^ 14 + 4, .rkstat (.x 13) (.x 19) false),
    (51 * 2 ^ 26 + 2 * 2 ^ 20 + 51 * 2 ^ 14 + 5, .smode 2 (.port 3))] = true := by decide +kernel

/-- Step words (R332 to R336). -/
theorem test_decode_step_words : stepDecodes [
    (0 * 2 ^ 27, .sHalt),
    (1 * 2 ^ 27 + 2 * 2 ^ 24 + 3 * 2 ^ 22 + 62 * 2 ^ 16 + 585, .sSend 2 3 62 585),
    (2 * 2 ^ 27 + 6 * 2 ^ 24 + 2 * 2 ^ 22 + 23 * 2 ^ 16 + 846, .sRecv 6 2 23 846),
    (3 * 2 ^ 27 + 2 * 2 ^ 24 + 2 * 2 ^ 22 + 8 * 2 ^ 16 + 1 * 2 ^ 14 + 2 * 2 ^ 12 + 684, .sRrs 2 2 8 .f32 .max 684),
    (4 * 2 ^ 27 + 2 * 2 ^ 24 + 3 * 2 ^ 22 + 17 * 2 ^ 16 + 2 * 2 ^ 14 + 2 * 2 ^ 12 + 718, .sRred 2 3 17 .bf16 .max 718),
    (5 * 2 ^ 27 + 2 * 2 ^ 24 + 2 * 2 ^ 21 + 918, .sCopy 2 2 918),
    (6 * 2 ^ 27 + 2 * 2 ^ 22 + 3 * 2 ^ 16, .sWaitPeer 2 3),
    (6 * 2 ^ 27 + 64 * 2 ^ 20 + 11 * 2 ^ 16 + 34310, .sWaitCounter 11 34310),
    (7 * 2 ^ 27 + 1 * 2 ^ 26 + 546 * 2 ^ 16 + 64821, .sLoop true 546 64821),
    (8 * 2 ^ 27, .sEndl false),
    (9 * 2 ^ 27 + 7 * 2 ^ 24 + 9239083, .sSeta 7 9239083),
    (10 * 2 ^ 27 + 2 * 2 ^ 24 + 14257853, .sAdda 2 14257853),
    (11 * 2 ^ 27 + 3 * 2 ^ 24 + 6 * 2 ^ 21 + 4 * 2 ^ 18 + 2 * 2 ^ 15 + 7 * 2 ^ 12 + 41, .sBop .not 6 4 2 7 41),
    (12 * 2 ^ 27 + 1 * 2 ^ 24 + 6 * 2 ^ 21 + 4 * 2 ^ 18 + 23 * 2 ^ 13, .sBsadd 1 6 4 23),
    (13 * 2 ^ 27 + 4 * 2 ^ 24 + 1 * 2 ^ 21 + 1 * 2 ^ 18 + 26 * 2 ^ 13, .sBssub 4 1 1 26),
    (14 * 2 ^ 27 + 3 * 2 ^ 24 + 1 * 2 ^ 21 + 3 * 2 ^ 18 + 1 * 2 ^ 13, .sBsmul 3 1 3 1),
    (15 * 2 ^ 27 + 2 * 2 ^ 24 + 778, .sMcast 2 778),
    (16 * 2 ^ 27 + 5256 * 2 ^ 14 + 13 * 2 ^ 10, .sSignal 5256 13)] = true := by decide +kernel

/-- The fabric, OP 52 and q3 (R350 to R363). -/
theorem test_decode_the_fabric : decodes [
    (52 * 2 ^ 26 + 22 * 2 ^ 20 + 51 * 2 ^ 14, .coll 22 (.port 3)),
    (52 * 2 ^ 26 + 6 * 2 ^ 20 + 60 * 2 ^ 14 + 1, .dombar (.x 6) (.chan 4)),
    (52 * 2 ^ 26 + 62 * 2 ^ 20 + 39 * 2 ^ 14 + 2, .fstat (.chan 6) (.hist 7))] = true := by decide +kernel

/-- Hints, OP 63 (R50 to R52). -/
theorem test_decode_hints : decodes [
    (63 * 2 ^ 26 + 16668160, .hintImm 16668160),
    (63 * 2 ^ 26 + 1 * 2 ^ 24 + 1 * 2 ^ 22 + 1 * 2 ^ 20, .hintSched .taken .hi),
    (63 * 2 ^ 26 + 2 * 2 ^ 24 + 5 * 2 ^ 21 + 2 * 2 ^ 17, .hintMod (some .stochastic) false false .retain)] = true := by decide +kernel

end Sys2Proof.Tests
end

section
/-! The taking of a trap that is not fatal (R73) and the return from it (R74), by the fields of the context. -/

namespace Sys2Proof.Proofs

open Sys2Proof.Machine Sys2Proof.Laws

/-! ## STATUS -/

/-- The fields of a STATUS that was put together are its parts (R64). -/
theorem fields_of_statusOf {k : Ctx} {sat : Bool} {rm : BitVec 3} {ppl pl : BitVec 2} {t : Bool}
    (h : k.status = statusOf sat rm ppl pl t) :
    k.trapBit = t ∧ k.pl = pl ∧ k.ppl = ppl ∧ k.rm = rm ∧ k.satBit = sat := by
  unfold Ctx.trapBit Ctx.pl Ctx.ppl Ctx.rm Ctx.satBit
  rw [h, statusOf]
  refine ⟨?_, ?_, ?_, ?_, ?_⟩
  · rw [BitVec.getLsbD_append]; simp
  · rw [BitVec.extractLsb'_append_eq_of_le (by decide), BitVec.extractLsb'_append_eq_right]
  · rw [BitVec.extractLsb'_append_eq_of_le (by decide), BitVec.extractLsb'_append_eq_of_le (by decide), BitVec.extractLsb'_append_eq_right]
  · rw [BitVec.extractLsb'_append_eq_of_le (by decide), BitVec.extractLsb'_append_eq_of_le (by decide),
      BitVec.extractLsb'_append_eq_of_le (by decide), BitVec.extractLsb'_append_eq_right]
  · rw [BitVec.getLsbD_append, BitVec.getLsbD_append, BitVec.getLsbD_append, BitVec.getLsbD_append]; simp

/-! ## Taking a trap -/

/-- A context that leaves its gang keeps all but its identity (R224). -/
theorem detach_frame (k : Ctx) : ∃ i g, k.detach = { k with ctxid := i, gang := g } := by
  unfold Ctx.detach
  split
  · exact ⟨_, _, rfl⟩
  · exact ⟨k.ctxid, k.gang, rfl⟩

/-- The context of a handler that a trap enters (R73); all that it does not name stays. -/
def handlerCtx (c : BitVec 8) (v : Word) (k : Ctx) : Ctx :=
  { k with
    epc := k.pc
    ecause := c
    evalue := v
    status := statusOf k.satBit k.rm k.pl (if k.pl = 0 then 1 else k.pl) true
    trapHist := List.replicate 8 0
    pc := k.tvec }

/-- TRAP is set, the level is kept in PPL and is at least KERNEL, and the handler's history is empty. -/
theorem handlerCtx_fields (c : BitVec 8) (v : Word) (k : Ctx) :
    (handlerCtx c v k).trapBit = true ∧ (handlerCtx c v k).ppl = k.pl ∧ (handlerCtx c v k).pl = (if k.pl = 0 then 1 else k.pl) ∧
      (handlerCtx c v k).rm = k.rm ∧ (handlerCtx c v k).satBit = k.satBit ∧ (handlerCtx c v k).history = List.replicate 8 0 := by
  obtain ⟨trap, pl, ppl, rm, sat⟩ := fields_of_statusOf (k := handlerCtx c v k) rfl
  exact ⟨trap, ppl, pl, rm, sat, if_pos trap⟩

/-- A trap that is not fatal enters the handler; the unit that trapped leaves no hint, pop or progress behind. -/
theorem takeTrap_ctx {s : State} (ht : s.ctx.trapBit = false) (hv : s.ctx.tvec ≠ 0) (c : BitVec 8) (v : Word) (m : Nat) (l : List CoreId) :
    ∃ i g, (s.takeTrap c v m l).ctx =
      handlerCtx c v { s.ctx with ctxid := i, gang := g, hints := [], pops := [], progress := .none } := by
  obtain ⟨i, g, e⟩ := detach_frame s.core.front
  have notFatal : ¬(s.ctx.trapBit || s.ctx.tvec == 0) = true := by rw [ht, Bool.false_or, beq_iff_eq]; exact hv
  refine ⟨i, g, ?_⟩
  unfold State.takeTrap
  simp only [mapFocus_ctx, mapCtx_core, e]
  split
  next fatal => exact absurd fatal notFatal
  next => simp only [mapCtx_ctx, trace_ctx, mapFocus_ctx, mapCtx_core, e]; rfl

/-- The handler's context where nothing survives of the unit that trapped: what it popped is in the holding buffer (R45). -/
theorem takeTrap_trapBase_ctx {s : State} (ht : s.ctx.trapBit = false) (hv : s.ctx.tvec ≠ 0) (ps : List Pop) (c : BitVec 8) (v : Word) :
    ∃ i g p ch h f, ((trapBase s ps none).takeTrap c v).ctx = handlerCtx c v { s.ctx with
      ctxid := i, gang := g, hints := [], pops := [], progress := .none, ports := p, chans := ch, hold := h, holdFor := f } := by
  obtain ⟨p, ch, h, f, e⟩ := trapBase_frame s ps
  rw [e]
  obtain ⟨i, g, entered⟩ := takeTrap_ctx (s := s.mapCtx fun k => { k with ports := p, chans := ch, hold := h, holdFor := f }) ht hv c v 0 []
  exact ⟨i, g, p, ch, h, f, entered⟩

theorem takeTrap_trapBase_mem (s : State) (ps : List Pop) (c : BitVec 8) (v : Word) : ((trapBase s ps none).takeTrap c v).mem = s.mem := by
  obtain ⟨_, _, e, -⟩ := takeTrap_frame (trapBase s ps none) c v 0 []
  obtain ⟨_, _, _, _, eb⟩ := trapBase_frame s ps
  rw [e, eb]
  rfl

/-- ECALL and BRK trap with their cause and their immediate (R118). -/
theorem exec_call_traps {s : State} (solo : Solo s) {i : Instr} {cause : BitVec 8} {c : BitVec 12}
    (hi : (i, cause) ∈ ([(.ecall c, 0x08), (.brk c, 0x07)] : List (Instr × BitVec 8))) :
    exec i s = .next ((trapBase s s.ctx.pops none).takeTrap cause (c.setWidth 64)) := by
  simp only [List.mem_cons, List.not_mem_nil, or_false, Prod.mk.injEq] at hi
  obtain ⟨rfl, rfl⟩ | ⟨rfl, rfl⟩ := hi <;> exact unit_trap solo (trap_apply ..)

/-! ## Returning from one -/

/-- The context after ERET (R74): the level that was, TRAP clear, and the normal history. -/
theorem eret_fields (k : Ctx) : k.eret.trapBit = false ∧ k.eret.pl = k.ppl ∧ k.eret.ppl = k.ppl ∧ k.eret.history = k.hist := by
  obtain ⟨trap, pl, ppl, -, -⟩ := fields_of_statusOf (k := k.eret) rfl
  exact ⟨trap, pl, ppl, if_neg (by simp [trap])⟩

/-- A unit of a handler leaves the holding buffer as it is when it retires (R45). -/
theorem retire_in_handler_ctx {s0 : State} (h : s0.ctx.trapBit = true) (s1 : State) (t : Option Word) :
    ∃ pc ls n, (retire s0 s1 { target := t }).ctx =
      { s1.ctx with pc := pc, loops := ls, instret := n, hints := [], pops := [], progress := .none } := by
  unfold retire
  simp only [h, if_true]
  exact ⟨_, _, _, rfl⟩

/-- ERET in a handler retires to EPC, and the context returns (R74). -/
theorem exec_eret_in_handler {s : State} (solo : Solo s) (ht : s.ctx.trapBit = true) (aligned : s.ctx.epc.toNat % 4 = 0) :
    exec .eret s = .next ((retire s s { target := some s.ctx.epc }).mapCtx Ctx.eret) := by
  have low : (s.ctx.epc.extractLsb' 0 2 == 0) = true := by
    rw [beq_iff_eq]; apply BitVec.eq_of_toNat_eq; simpa using aligned
  rw [exec_eret, execEret, unit_ok solo (s1 := s) (fl := { target := some s.ctx.epc, after := fun s => s.mapCtx Ctx.eret })]
  · rfl
  · rw [bind_ok (ctx_apply s), bind_ok (guardTrap_true ht ..), bind_ok (guardTrap_true low ..)]; rfl

/-- ERET outside a handler is an illegal instruction. -/
theorem exec_eret_outside {s : State} (solo : Solo s) (ht : s.ctx.trapBit = false) :
    exec .eret s = .next ((trapBase s s.ctx.pops none).takeTrap 0x01 (wordOf .eret)) := by
  rw [exec_eret, execEret]
  apply unit_trap solo
  rw [bind_ok (ctx_apply s), bind_error (guardTrap_false ht ..)]

/-! ## The statement -/

/-- Settles O13: each of its three clauses runs the instruction and reads off the fields of the context that results. -/
theorem trapsAreTakenAndReturnedFrom : Obligations.TrapsAreTakenAndReturnedFrom := by
  unfold Obligations.TrapsAreTakenAndReturnedFrom
  intro s c solo
  refine ⟨fun ht hv i cause hi => ?_, fun ht aligned => ?_, exec_eret_outside solo⟩
  · obtain ⟨_, _, _, _, _, _, e⟩ := takeTrap_trapBase_ctx ht hv s.ctx.pops cause (c.setWidth 64)
    have mem := takeTrap_trapBase_mem s s.ctx.pops cause (c.setWidth 64)
    refine ⟨_, exec_call_traps solo hi, ?_⟩
    rw [e]
    obtain ⟨trap, ppl, pl, rm, sat, history⟩ := handlerCtx_fields cause (c.setWidth 64) _
    exact ⟨rfl, rfl, rfl, rfl, trap, ppl, pl, rm, sat, history, rfl, rfl, mem⟩
  · refine ⟨_, exec_eret_in_handler solo ht aligned, rfl, ?_⟩
    obtain ⟨_, _, _, e⟩ := retire_in_handler_ctx ht s (some s.ctx.epc)
    obtain ⟨trap, pl, ppl, history⟩ := eret_fields _
    rw [mapCtx_ctx, mapCtx_mem, e]
    exact ⟨trap, pl, ppl, history, rfl, rfl, rfl⟩

end Sys2Proof.Proofs
end

section
/-! The two-source integer instructions (R98): the result of each in the words of its rule, division's corners (R99) among
them, and the shape that they all run by. -/

namespace Sys2Proof.Proofs

open Sys2Proof.Machine Sys2Proof.Laws Sys2Proof.Statements

/-! ## Sums, differences and truth values -/

theorem add_eq_ofNat (x y : Word) : x + y = BitVec.ofNat 64 (x.toNat + y.toNat) := by
  rw [BitVec.ofNat_add, BitVec.ofNat_toNat, BitVec.ofNat_toNat, BitVec.setWidth_eq, BitVec.setWidth_eq]

/-- The difference of the unsigned values is below 0 where it borrows; the word is its residue. -/
theorem sub_eq_ofInt (x y : Word) : x - y = BitVec.ofInt 64 (x.toNat - y.toNat) := by
  apply BitVec.eq_of_toNat_eq
  rw [BitVec.toNat_sub, BitVec.toNat_ofInt]
  omega

theorem word_eq_bit (b : Bool) : word b = bit b := rfl

theorem word_slt (x y : Word) : word (x.slt y) = bit (decide (x.toInt < y.toInt)) := by
  rw [word_eq_bit, BitVec.slt_eq_decide]

theorem word_ult (x y : Word) : word (x.ult y) = bit (decide (x.toNat < y.toNat)) := by
  rw [word_eq_bit, BitVec.ult_eq_decide]

theorem word_beq (x y : Word) : word (x == y) = bit (decide (x = y)) := rfl

/-! ## Shifts -/

/-- B[5:0] is B modulo 64. -/
theorem shiftOf_eq_mod (y : Word) : shiftOf y = y.toNat % 64 := by
  rw [shiftOf, BitVec.extractLsb'_toNat, Nat.shiftRight_zero]

theorem sllW_eq_shiftLeft (x y : Word) : sllW x y = x <<< (y.toNat % 64) := by rw [sllW, shiftOf_eq_mod]

theorem srlW_eq_ushiftRight (x y : Word) : srlW x y = x >>> (y.toNat % 64) := by rw [srlW, shiftOf_eq_mod]

theorem sraW_eq_sshiftRight (x y : Word) : sraW x y = x.sshiftRight (y.toNat % 64) := by rw [sraW, shiftOf_eq_mod]

theorem rolW_eq_rotateLeft (x y : Word) : rolW x y = x.rotateLeft (y.toNat % 64) := by
  rw [rolW, shiftOf_eq_mod, BitVec.rotateLeft_def, Nat.mod_mod]

/-! ## Products -/

theorem mul_eq_ofInt (x y : Word) : x * y = BitVec.ofInt 64 (x.toInt * y.toInt) := by
  rw [BitVec.ofInt_mul, BitVec.ofInt_toInt, BitVec.ofInt_toInt]

/-- The upper half of a doubleword that holds an integer modulo 2^128. -/
theorem extractLsb'_upper_ofInt (z : Int) : (BitVec.ofInt 128 z).extractLsb' 64 64 = BitVec.ofInt 64 (z / 2 ^ 64) := by
  apply BitVec.eq_of_toNat_eq
  rw [BitVec.extractLsb'_toNat, BitVec.toNat_ofInt, BitVec.toNat_ofInt, Nat.shiftRight_eq_div_pow]
  omega

theorem mulhW_eq_ofInt (x y : Word) : mulhW x y = BitVec.ofInt 64 (x.toInt * y.toInt / 2 ^ 64) := by
  rw [mulhW, BitVec.signExtend, BitVec.signExtend, ← BitVec.ofInt_mul, extractLsb'_upper_ofInt]

theorem mulhuW_eq_ofNat (x y : Word) : mulhuW x y = BitVec.ofNat 64 (x.toNat * y.toNat / 2 ^ 64) := by
  rw [mulhuW, ← BitVec.ofNat_toNat, ← BitVec.ofNat_toNat, ← BitVec.ofNat_mul, ← BitVec.ofInt_natCast,
    extractLsb'_upper_ofInt, ← BitVec.ofInt_natCast, Int.natCast_ediv, Int.natCast_pow, Int.cast_ofNat_Int]

/-! ## Quotients and remainders (R99) -/

/-- Among them -2^63 by -1, whose quotient 2^63 is the word -2^63. -/
theorem sdiv_eq_ofInt (x y : Word) : x.sdiv y = BitVec.ofInt 64 (x.toInt.tdiv y.toInt) := by
  apply BitVec.eq_of_toInt_eq
  rw [BitVec.toInt_sdiv, BitVec.toInt_ofInt]

theorem srem_eq_ofInt (x y : Word) : x.srem y = BitVec.ofInt 64 (x.toInt.tmod y.toInt) := by
  rw [← BitVec.toInt_srem, BitVec.ofInt_toInt]

theorem divW_eq_quot (x y : Word) : divW x y = quot x y := by rw [divW, quot, sdiv_eq_ofInt]

theorem remW_eq_rest (x y : Word) : remW x y = rest x y := by rw [remW, rest, srem_eq_ofInt]

theorem divuW_eq_ofNat (x y : Word) :
    divuW x y = if y = 0 then BitVec.allOnes 64 else BitVec.ofNat 64 (x.toNat / y.toNat) := by
  rw [divuW, BitVec.udiv_def]

theorem remuW_eq_ofNat (x y : Word) : remuW x y = if y = 0 then x else BitVec.ofNat 64 (x.toNat % y.toNat) := by
  rw [remuW, BitVec.umod_def]

/-! ## The lesser and the greater -/

theorem minW_eq_ofInt (x y : Word) : minW x y = BitVec.ofInt 64 (min x.toInt y.toInt) := by
  rw [Int.min_def, apply_ite (BitVec.ofInt 64), BitVec.ofInt_toInt, BitVec.ofInt_toInt]
  simp only [minW, BitVec.slt_iff_toInt_lt, ← Int.not_le, ite_not]

theorem maxW_eq_ofInt (x y : Word) : maxW x y = BitVec.ofInt 64 (max x.toInt y.toInt) := by
  rw [Int.max_comm, Int.max_def, apply_ite (BitVec.ofInt 64), BitVec.ofInt_toInt, BitVec.ofInt_toInt]
  simp only [maxW, BitVec.slt_iff_toInt_lt, ← Int.not_le, ite_not]

theorem minuW_eq_ofNat (x y : Word) : minuW x y = BitVec.ofNat 64 (min x.toNat y.toNat) := by
  rw [Nat.min_def, apply_ite (BitVec.ofNat 64), BitVec.ofNat_toNat, BitVec.ofNat_toNat]
  simp only [minuW, BitVec.ult_iff_lt, BitVec.lt_def, ← Nat.not_le, ite_not, BitVec.setWidth_eq]

theorem maxuW_eq_ofNat (x y : Word) : maxuW x y = BitVec.ofNat 64 (max x.toNat y.toNat) := by
  rw [Nat.max_comm, Nat.max_def, apply_ite (BitVec.ofNat 64), BitVec.ofNat_toNat, BitVec.ofNat_toNat]
  simp only [maxuW, BitVec.ult_iff_lt, BitVec.lt_def, ← Nat.not_le, ite_not, BitVec.setWidth_eq]

/-! ## The shape, and the statement -/

/-- `MNEMONIC d, a, b` with readable sources and a writable destination retires with the result of its function (R95). -/
theorem unit_binOp {s s1 s2 s3 : State} {i : Instr} {d a b : Opnd} {f : Word → Word → Word} {x y r : Word}
    (solo : Solo s) (first : Reads a s x s1) (second : Reads b s1 y s2) (value : f x y = r) (result : Writes i d r s2 s3) :
    unit (binOp i d a b f) s = .next (retire s s3 {}) := by
  subst value
  apply unit_ok solo
  rw [binOp, bind_ok first, bind_ok second, bind_ok result, next_apply]

/-- Settles O1: every row of the table runs by `unit_binOp`, with the lemma that says its result. -/
theorem integerRegisterResults : Obligations.IntegerRegisterResults := by
  unfold Obligations.IntegerRegisterResults
  intro s s1 s2 s3 d a b x y i r solo first second row result
  have runs {f : Word → Word → Word} (unfolds : exec i s = unit (binOp i d a b f) s) (value : f x y = r) :
      exec i s = .next (retire s s3 {}) :=
    unfolds.trans (unit_binOp solo first second value result)
  simp only [List.mem_cons, List.not_mem_nil, or_false, Prod.mk.injEq] at row
  obtain ⟨rfl, rfl⟩ | ⟨rfl, rfl⟩ | ⟨rfl, rfl⟩ | ⟨rfl, rfl⟩ | ⟨rfl, rfl⟩ | ⟨rfl, rfl⟩ | ⟨rfl, rfl⟩ | ⟨rfl, rfl⟩ |
    ⟨rfl, rfl⟩ | ⟨rfl, rfl⟩ | ⟨rfl, rfl⟩ | ⟨rfl, rfl⟩ | ⟨rfl, rfl⟩ | ⟨rfl, rfl⟩ | ⟨rfl, rfl⟩ | ⟨rfl, rfl⟩ |
    ⟨rfl, rfl⟩ | ⟨rfl, rfl⟩ | ⟨rfl, rfl⟩ | ⟨rfl, rfl⟩ | ⟨rfl, rfl⟩ | ⟨rfl, rfl⟩ | ⟨rfl, rfl⟩ | ⟨rfl, rfl⟩ := row
  · exact runs exec_add (add_eq_ofNat x y)
  · exact runs exec_sub (sub_eq_ofInt x y)
  · exact runs exec_and rfl
  · exact runs exec_or rfl
  · exact runs exec_xor rfl
  · exact runs exec_andn rfl
  · exact runs exec_sll (sllW_eq_shiftLeft x y)
  · exact runs exec_srl (srlW_eq_ushiftRight x y)
  · exact runs exec_sra (sraW_eq_sshiftRight x y)
  · exact runs exec_rol (rolW_eq_rotateLeft x y)
  · exact runs exec_mul (mul_eq_ofInt x y)
  · exact runs exec_mulh (mulhW_eq_ofInt x y)
  · exact runs exec_mulhu (mulhuW_eq_ofNat x y)
  · exact runs exec_div (divW_eq_quot x y)
  · exact runs exec_divu (divuW_eq_ofNat x y)
  · exact runs exec_rem (remW_eq_rest x y)
  · exact runs exec_remu (remuW_eq_ofNat x y)
  · exact runs exec_min (minW_eq_ofInt x y)
  · exact runs exec_max (maxW_eq_ofInt x y)
  · exact runs exec_minu (minuW_eq_ofNat x y)
  · exact runs exec_maxu (maxuW_eq_ofNat x y)
  · exact runs exec_slt (word_slt x y)
  · exact runs exec_sltu (word_ult x y)
  · exact runs exec_seq (word_beq x y)

end Sys2Proof.Proofs
end

section
/-! WAIT and WAITANY (R203): a receive completes where a counter reaches its threshold (R198), and else it waits. Reading
an operand changes the context alone, so the counters, the lines and the COREID stand as the unit found them. -/

namespace Sys2Proof.Proofs

open Sys2Proof.Machine Sys2Proof.Laws Sys2Proof.Statements

/-! ## What reading a source leaves of the core -/

/-- Ports, channels and the holding buffer, which a source may change, stand in the context (R43 to R45). -/
theorem reads_core {o : Opnd} {s t : State} {v : Word} (h : Reads o s v t) : t.core = { s.core with front := t.core.front } := by
  obtain ⟨_, _, _, _, rfl⟩ := src_frame h
  rfl

theorem reads_counters {o : Opnd} {s t : State} {v : Word} (h : Reads o s v t) : t.core.counters = s.core.counters := by
  rw [reads_core h]

theorem reads_full {o : Opnd} {s t : State} {v : Word} (h : Reads o s v t) : t.core.full = s.core.full := by
  rw [reads_core h]

theorem reads_coreId {o : Opnd} {s t : State} {v : Word} (h : Reads o s v t) : t.core.id = s.core.id := by
  rw [reads_core h]

theorem reads_counter {o : Opnd} {s t : State} {v : Word} (h : Reads o s v t) (k : BitVec 4) : t.core.counter k = s.core.counter k := by
  rw [Core.counter, Core.counter, reads_counters h]

/-! ## Fields of a word -/

/-- The bits from n upward are 0 where the word is below 2^n. -/
theorem extractLsb'_upper_eq_zero_iff {n k : Nat} (w : n + k = 64) (x : Word) : x.extractLsb' n k = 0 ↔ x.toNat < 2 ^ n := by
  have quotient : x.toNat / 2 ^ n < 2 ^ k := Nat.div_lt_of_lt_mul (by rw [← Nat.pow_add, w]; exact x.isLt)
  rw [← BitVec.toNat_inj, BitVec.extractLsb'_toNat, Nat.shiftRight_eq_div_pow, Nat.mod_eq_of_lt quotient]
  exact Nat.div_eq_zero_iff_lt (Nat.two_pow_pos n)

/-- A word is no mask of counters where it is 0 or a bit from 16 upward is set (R203). -/
theorem counterMask_iff (m : Word) : (m.extractLsb' 16 48 == 0 && m.extractLsb' 0 16 != 0) = true ↔ m ≠ 0 ∧ m.toNat < 2 ^ 16 := by
  rw [Bool.and_eq_true, beq_iff_eq, bne_iff_ne, extractLsb'_upper_eq_zero_iff rfl, and_comm]
  refine and_congr_left fun small => not_congr ?_
  rw [← BitVec.toNat_inj, ← BitVec.toNat_inj, BitVec.extractLsb'_toNat, Nat.shiftRight_zero, Nat.mod_eq_of_lt small]
  rfl

/-! ## The counters that reach a threshold -/

theorem reaches_iff (c t : BitVec 32) : reaches c t = true ↔ (c - t).toNat < 2 ^ 31 := decide_eq_true_iff

/-- Setting the bits of a list that meet a condition. -/
theorem getLsbD_foldl_setBits (p : Nat → Bool) (l : List Nat) (r : BitVec 16) (i : Nat) :
    (l.foldl (fun r j => if p j then r ||| (1#16 <<< j) else r) r).getLsbD i =
      (r.getLsbD i || (decide (i < 16) && decide (i ∈ l) && p i)) := by
  induction l generalizing r with
  | nil => simp
  | cons j l ih =>
    rw [List.foldl_cons, ih]
    by_cases hp : p j = true
    · by_cases same : i = j
      · subst same; by_cases low : i < 16 <;> simp [hp, low]
      · have other : (1#16 <<< j).getLsbD i = false := by
          rw [BitVec.getLsbD_shiftLeft, BitVec.getLsbD_one]
          by_cases below : i < j
          · simp [below]
          · simp [show i - j ≠ 0 by omega]
        simp [hp, other, same]
    · by_cases same : i = j
      · subst same; simp [hp]
      · simp [hp, same]

theorem reached_getLsbD (c : Core) (m : BitVec 16) (t : BitVec 32) (i : Nat) :
    (c.reached m t).getLsbD i = (decide (i < 16) && m.getLsbD i && reaches (c.counter (BitVec.ofNat 4 i)).val t) := by
  rw [Core.reached, getLsbD_foldl_setBits]
  by_cases low : i < 16 <;> simp [low]

/-- The result of WAITANY by its bits. -/
theorem reached_setWidth_eq {c : Core} {m t r : Word}
    (bits : ∀ j : Nat, r.getLsbD j = (decide (j < 16) && m.getLsbD j && reaches (c.counter (BitVec.ofNat 4 j)).val (t.setWidth 32))) :
    (c.reached (m.setWidth 16) (t.setWidth 32)).setWidth 64 = r := by
  apply BitVec.eq_of_getLsbD_eq
  intro j hj
  rw [bits, BitVec.getLsbD_setWidth, reached_getLsbD, BitVec.getLsbD_setWidth]
  by_cases low : j < 16 <;> simp [low, hj]

theorem setWidth_eq_zero_iff (x : BitVec 16) : x.setWidth 64 = 0 ↔ x = 0 := by bv_omega

/-! ## WAIT -/

theorem exec_wait_completes {s s1 s2 : State} {d b : Opnd} {k : BitVec 4} {t : Word} (solo : Solo s) (threshold : Reads b s t s1)
    (reached : reaches (s1.core.counter k).val (t.setWidth 32) = true)
    (result : Writes (.wait d k b) d ((s1.core.counter k).val.setWidth 64) s1 s2) :
    exec (.wait d k b) s = .next (retire s s2 {}) := by
  rw [exec_wait, execWait]
  apply unit_ok solo
  rw [bind_ok threshold, bind_ok (get_apply s1), if_pos reached, bind_ok result, next_apply]

theorem exec_wait_waits {s s1 : State} {d b : Opnd} {k : BitVec 4} {t : Word} (solo : Solo s) (threshold : Reads b s t s1)
    (short : ¬reaches (s1.core.counter k).val (t.setWidth 32) = true) :
    exec (.wait d k b) s = .next (s.inReceive (.counter k (t.setWidth 32))) := by
  rw [exec_wait, execWait]
  apply unit_wait solo (f := fun s => s.inReceive (.counter k (t.setWidth 32)))
  rw [bind_ok threshold, bind_ok (get_apply s1), if_neg short, waitReceive_apply]

/-! ## WAITANY -/

theorem exec_waitany_noMask {s s1 s2 : State} {d a b : Opnd} {m t : Word} (solo : Solo s) (mask : Reads a s m s1)
    (threshold : Reads b s1 t s2) (bad : m = 0 ∨ 2 ^ 16 ≤ m.toNat) :
    exec (.waitany d a b) s = .next ((trapBase s s2.ctx.pops none).takeTrap 0x01 (wordOf (.waitany d a b))) := by
  have refused : (m.extractLsb' 16 48 == 0 && m.extractLsb' 0 16 != 0) = false := by
    rw [Bool.eq_false_iff, ne_eq, counterMask_iff]
    rintro ⟨nonzero, small⟩
    exact bad.elim nonzero (Nat.not_le_of_lt small)
  rw [exec_waitany, execWaitany]
  apply unit_trap solo
  rw [bind_ok mask, bind_ok threshold, bind_error (guardTrap_false refused ..)]

theorem exec_waitany_completes {s s1 s2 s3 : State} {d a b : Opnd} {m t : Word} (solo : Solo s) (mask : Reads a s m s1)
    (threshold : Reads b s1 t s2) (good : m ≠ 0 ∧ m.toNat < 2 ^ 16) (nonempty : s2.core.reached (m.setWidth 16) (t.setWidth 32) ≠ 0)
    (result : Writes (.waitany d a b) d ((s2.core.reached (m.setWidth 16) (t.setWidth 32)).setWidth 64) s2 s3) :
    exec (.waitany d a b) s = .next (retire s s3 {}) := by
  rw [exec_waitany, execWaitany]
  apply unit_ok solo
  rw [bind_ok mask, bind_ok threshold, bind_ok (guardTrap_true ((counterMask_iff m).mpr good) ..), bind_ok (get_apply s2),
    if_pos (bne_iff_ne.mpr nonempty), bind_ok result, next_apply]

theorem exec_waitany_waits {s s1 s2 : State} {d a b : Opnd} {m t : Word} (solo : Solo s) (mask : Reads a s m s1)
    (threshold : Reads b s1 t s2) (good : m ≠ 0 ∧ m.toNat < 2 ^ 16) (empty : s2.core.reached (m.setWidth 16) (t.setWidth 32) = 0) :
    exec (.waitany d a b) s = .next (s.inReceive (.any (m.setWidth 16) (t.setWidth 32))) := by
  rw [exec_waitany, execWaitany]
  apply unit_wait solo (f := fun s => s.inReceive (.any (m.setWidth 16) (t.setWidth 32)))
  rw [bind_ok mask, bind_ok threshold, bind_ok (guardTrap_true ((counterMask_iff m).mpr good) ..), bind_ok (get_apply s2),
    if_neg (fun nonempty => bne_iff_ne.mp nonempty empty), waitReceive_apply]

/-! ## The statement -/

/-- Settles O18: the operands are read without a change to the counters, and then the test of R198 decides. -/
theorem receivesCompleteOrWait : Obligations.ReceivesCompleteOrWait := by
  unfold Obligations.ReceivesCompleteOrWait
  intro s s1 s2 s3 d a b k m t r solo
  refine ⟨fun threshold => ⟨fun reached result => ?_, fun short => ?_⟩,
    fun mask threshold => ⟨exec_waitany_noMask solo mask threshold, fun nonzero small bits => ?_⟩⟩
  · refine exec_wait_completes solo threshold ?_ ?_ <;> rw [reads_counter threshold]
    · exact (reaches_iff ..).mpr reached
    · exact result
  · refine exec_wait_waits solo threshold ?_
    rw [reads_counter threshold, reaches_iff]
    exact Nat.not_lt_of_le short
  · have value : (s2.core.reached (m.setWidth 16) (t.setWidth 32)).setWidth 64 = r :=
      reached_setWidth_eq fun j => by rw [reads_counter threshold, reads_counter mask]; exact bits j
    have zero : r = 0 ↔ s2.core.reached (m.setWidth 16) (t.setWidth 32) = 0 := by rw [← value, setWidth_eq_zero_iff]
    exact ⟨fun nonempty result => exec_waitany_completes solo mask threshold ⟨nonzero, small⟩ (mt zero.mpr nonempty) (value ▸ result),
      fun empty => exec_waitany_waits solo mask threshold ⟨nonzero, small⟩ (zero.mp empty)⟩

end Sys2Proof.Proofs
end

section
/-! Counters, rings, full/empty lines and channels: what their instructions change (R158, R160, R161, R164, R204). Each part
of a program is run once, on the condition that it checks, and the instruction is put together from its parts. -/

namespace Sys2Proof.Proofs

open Sys2Proof.Machine Sys2Proof.Laws Sys2Proof.Statements

/-! ## Counters (R204) -/

theorem exec_ctradd_adds {s s1 : State} {a : Opnd} {x : Word} (k : BitVec 4) (solo : Solo s) (addend : Reads a s x s1) :
    exec (.ctradd k a) s = .next (retire s (s1.mapFocus fun c => c.raise k (x.setWidth 32)) {}) := by
  rw [exec_ctradd, execCtradd]
  apply unit_ok solo
  rw [bind_ok addend, bind_ok (modCore_apply ..), next_apply]

theorem tagOk_iff (y : Word) : (y.extractLsb' 14 50 == 0) = true ↔ y.toNat < 2 ^ 14 := by
  rw [beq_iff_eq, extractLsb'_upper_eq_zero_iff rfl]

theorem exec_ctrset_sets {s s1 s2 : State} {a b : Opnd} {x y : Word} (k : BitVec 4) (solo : Solo s) (value : Reads a s x s1)
    (tag : Reads b s1 y s2) (small : y.toNat < 2 ^ 14) :
    exec (.ctrset k a b) s = .next (retire s (s2.mapFocus fun c => c.setCounter k ⟨x.setWidth 32, y.setWidth 14⟩) {}) := by
  rw [exec_ctrset, execCtrset]
  apply unit_ok solo
  rw [bind_ok value, bind_ok tag, bind_ok (guardTrap_true ((tagOk_iff y).mpr small) ..), bind_ok (modCore_apply ..), next_apply]

theorem exec_ctrset_badTag {s s1 s2 : State} {a b : Opnd} {x y : Word} (k : BitVec 4) (solo : Solo s) (value : Reads a s x s1)
    (tag : Reads b s1 y s2) (large : 2 ^ 14 ≤ y.toNat) :
    exec (.ctrset k a b) s = .next ((trapBase s s2.ctx.pops none).takeTrap 0x01 (wordOf (.ctrset k a b))) := by
  have refused : (y.extractLsb' 14 50 == 0) = false := by
    rw [Bool.eq_false_iff, ne_eq, tagOk_iff]
    exact Nat.not_lt_of_le large
  rw [exec_ctrset, execCtrset]
  apply unit_trap solo
  rw [bind_ok value, bind_ok tag, bind_error (guardTrap_false refused ..)]

/-! ## Full/empty lines (R158) -/

theorem setLine_getLsbD (c : Core) (l : Nat) (b : Bool) {j : Nat} (hj : j < 384) :
    (c.setLine l b).full.getLsbD j = if j = l then b else c.full.getLsbD j := by
  have mask : (1#384 <<< l).getLsbD j = decide (j = l) := by
    rw [BitVec.getLsbD_shiftLeft, BitVec.getLsbD_one, Bool.eq_iff_iff]
    simp only [Bool.and_eq_true, Bool.not_eq_true', decide_eq_true_eq, decide_eq_false_iff_not]
    omega
  cases b with
  | true =>
    rw [Core.setLine, if_pos rfl, BitVec.getLsbD_or, mask]
    by_cases same : j = l <;> simp only [same, decide_true, decide_false, Bool.or_true, Bool.or_false, if_true, if_false]
  | false =>
    rw [Core.setLine, if_neg Bool.false_ne_true, BitVec.getLsbD_and, BitVec.getLsbD_not, mask, decide_eq_true hj]
    by_cases same : j = l <;>
      simp only [same, decide_true, decide_false, Bool.not_true, Bool.not_false, Bool.and_true, Bool.and_false, if_true, if_false]

/-- Setting lines changes those lines and nothing else. -/
theorem setLines_frame (c : Core) (b : Bool) (l n : Nat) : c.setLines b l n = { c with full := (c.setLines b l n).full } := by
  induction n generalizing c l with
  | zero => rfl
  | succ n ih => rw [Core.setLines, ih]; rfl

theorem setLines_getLsbD (c : Core) (b : Bool) (l n : Nat) {j : Nat} (hj : j < 384) :
    (c.setLines b l n).full.getLsbD j = if l ≤ j ∧ j < l + n then b else c.full.getLsbD j := by
  induction n generalizing c l with
  | zero => rw [Core.setLines, if_neg (by omega)]
  | succ n ih =>
    have lines : (l ≤ j ∧ j < l + (n + 1)) ↔ (l + 1 ≤ j ∧ j < l + 1 + n) ∨ j = l := by omega
    rw [Core.setLines, ih, setLine_getLsbD c l b hj]
    by_cases rest : l + 1 ≤ j ∧ j < l + 1 + n
    · rw [if_pos rest, if_pos (lines.mpr (.inl rest))]
    · simp only [lines, rest, if_false, false_or]

theorem lineOp_apply {s s1 s2 : State} {a b : Opnd} {x y : Word} (full : Bool) (start : Reads a s x s1) (count : Reads b s1 y s2)
    (inside : y ≠ 0 → x.toNat + 128 * y.toNat ≤ 0xC000) (aligned : x.toNat % 128 = 0) :
    lineOp a b full s = .ok ({}, s2.mapFocus fun c => { c with full := (s2.core.setLines full (x.toNat / 128) y.toNat).full }) := by
  have fits : (y == 0 || decide (x.toNat + 128 * y.toNat ≤ 0xC000)) = true := by
    rw [Bool.or_eq_true, beq_iff_eq, decide_eq_true_iff]
    exact Decidable.or_iff_not_imp_left.mpr inside
  rw [lineOp, bind_ok start, bind_ok count, bind_ok (guardTrap_true (beq_iff_eq.mpr aligned) ..), bind_ok (guardTrap_true fits ..),
    bind_ok (modCore_apply ..), next_apply, State.mapFocus, setLines_frame]
  rfl

theorem exec_ltest_tests {s s1 s2 : State} {d a : Opnd} {x : Word} (solo : Solo s) (place : Reads a s x s1) (inside : x.toNat < 0xC000)
    (result : Writes (.ltest d a) d (bit (s.core.full.getLsbD (x.toNat / 128))) s1 s2) :
    exec (.ltest d a) s = .next (retire s s2 {}) := by
  rw [← reads_full place] at result
  rw [exec_ltest, execLtest]
  apply unit_ok solo
  rw [bind_ok place, bind_ok (guardTrap_true (decide_eq_true inside) ..), bind_ok (get_apply s1), Core.lineFull, word_eq_bit,
    bind_ok result, next_apply]

/-! ## The configuration word of a ring (R160) -/

theorem cfg_slotBits (y : Word) : ((y.setWidth 16).extractLsb' 0 4).toNat = y.toNat % 16 := by
  rw [BitVec.extractLsb'_toNat, BitVec.toNat_setWidth]; omega

theorem cfg_sizeUnits (y : Word) : ((y.setWidth 16).extractLsb' 4 7).toNat = y.toNat / 16 % 128 := by
  rw [BitVec.extractLsb'_toNat, BitVec.toNat_setWidth]; omega

theorem cfg_counter (y : Word) : (y.setWidth 16).extractLsb' 12 4 = y.extractLsb' 12 4 := by
  apply BitVec.eq_of_toNat_eq
  rw [BitVec.extractLsb'_toNat, BitVec.extractLsb'_toNat, BitVec.toNat_setWidth]; omega

theorem getLsbD_eleven (y : Word) : y.getLsbD 11 = decide (y.toNat / 2 ^ 11 % 2 = 1) := by
  rw [BitVec.getLsbD, Nat.testBit_eq_decide_div_mod_eq]

theorem cfg_bound (y : Word) : (y.setWidth 16).getLsbD 11 = decide (y.toNat / 2 ^ 11 % 2 = 1) := by
  rw [BitVec.getLsbD_setWidth, getLsbD_eleven]; rfl

/-- A configuration word is legal where its fields are in range and a ring that no counter binds names none. -/
theorem ringCfgOk_of {y : Word} (ls1 : 1 ≤ y.toNat % 16) (ls8 : y.toNat % 16 ≤ 8) (zu1 : 1 ≤ y.toNat / 16 % 128)
    (zu64 : y.toNat / 16 % 128 ≤ 64) (small : y.toNat < 2 ^ 16) (ctr : y.toNat / 2 ^ 11 % 2 = 1 ∨ y.toNat / 2 ^ 12 = 0) :
    ringCfgOk y = true := by
  have slotBits : (y.extractLsb' 0 4).toNat = y.toNat % 16 := by rw [BitVec.extractLsb'_toNat]; omega
  have sizeUnits : (y.extractLsb' 4 7).toNat = y.toNat / 16 % 128 := by rw [BitVec.extractLsb'_toNat]; omega
  have upper : y.extractLsb' 16 48 = 0 := (extractLsb'_upper_eq_zero_iff rfl y).mpr small
  have named : (y.getLsbD 11 || y.extractLsb' 12 4 == 0) = true := by
    rw [Bool.or_eq_true, getLsbD_eleven, decide_eq_true_iff, beq_iff_eq, ← BitVec.toNat_inj, BitVec.extractLsb'_toNat]
    exact ctr.imp_right fun unnamed => by rw [Nat.shiftRight_eq_div_pow, unnamed]; rfl
  simp only [ringCfgOk, slotBits, sizeUnits, named, upper, ls1, ls8, zu1, zu64, decide_true, Bool.and_true, beq_self_eq_true]

/-! ## Binding a ring (R160) -/

theorem setRing_apply (h : BitVec 3) (r : Option Ring) (s : State) :
    setRing h r s = .ok ((), s.mapCtx fun k => { k with rings := k.rings.set h.toNat r h.isLt }) := rfl

theorem bindRing_unbinds (w : Word) (h : BitVec 3) (x : Word) (s : State) : bindRing w h x 0 s = setRing h none s := rfl

/-- Where the checks pass, the ring starts empty: C is the P that its counter gives, or 0. -/
theorem bindRing_binds {w x y : Word} {h : BitVec 3} {s : State} (nonzero : y ≠ 0) (legal : ringCfgOk y = true)
    (aligned : x.toNat % 128 = 0) (inside : x.toNat + 2 ^ (y.toNat % 16) * (64 * (y.toNat / 16 % 128)) ≤ 0xC000) :
    bindRing w h x y s = setRing h (some ⟨x.setWidth 16, y.setWidth 16, 0,
      if y.toNat / 2 ^ 11 % 2 = 1 then (s.core.counter (y.extractLsb' 12 4)).val else 0⟩) s := by
  have fits : decide (x.toNat + Ring.slots ⟨x.setWidth 16, y.setWidth 16, 0, 0⟩ * Ring.size ⟨x.setWidth 16, y.setWidth 16, 0, 0⟩ ≤ 0xC000) = true := by
    rw [decide_eq_true_iff, Ring.slots, Ring.size, cfg_slotBits, cfg_sizeUnits, Nat.mul_comm (y.toNat / 16 % 128)]
    exact inside
  rw [bindRing, if_neg nonzero, bind_ok (guardTrap_true legal ..), bind_ok (guardTrap_true (beq_iff_eq.mpr aligned) ..),
    bind_ok (guardTrap_true fits ..), bind_ok (get_apply s), Ring.prodAt, Ring.bound, Ring.ctr, cfg_bound, cfg_counter]
  simp only [decide_eq_true_eq]

theorem exec_rset_ring {s s1 s2 s3 : State} {a b : Opnd} {h : BitVec 3} {x y : Word} (solo : Solo s) (base : Reads a s x s1)
    (cfg : Reads b s1 y s2) (binds : bindRing (wordOf (.rset (.ring h) a b)) h x y s2 = .ok ((), s3)) :
    exec (.rset (.ring h) a b) s = .next (retire s s3 {}) := by
  rw [exec_rset, execRset]
  apply unit_ok solo
  rw [bind_ok base, bind_ok cfg]
  exact bind_ok binds

/-! ## Moving a ring's ends (R161) -/

section
variable {s s1 s2 : State} {d a : Opnd} {h : BitVec 3} {x : Word} {g : Ring}

theorem ringOf_apply (found : s.ctx.rings.get h.toFin = some g) (sound : g.filled s.core ≤ g.slots) : ringOf h s = .ok (g, s) := by
  rw [ringOf, bind_ok (get_apply s)]
  simp only [found, if_neg (Nat.not_lt_of_le sound), pure_apply]

theorem ringHead_apply {n : Nat} (found : s.ctx.rings.get h.toFin = some g) (sound : g.filled s.core ≤ g.slots)
    (filled : n ≤ g.filled s.core) : ringHead h n s = .ok (g.head, s) := by
  rw [ringHead, bind_ok (ringOf_apply found sound), bind_ok (get_apply s), if_neg (Nat.not_lt_of_le (Nat.le_trans filled sound)),
    if_pos filled, pure_apply]

theorem ringTail_apply {n : Nat} (found : s.ctx.rings.get h.toFin = some g) (sound : g.filled s.core ≤ g.slots)
    (free : g.bound = false) (room : g.filled s.core + n ≤ g.slots) : ringTail h n s = .ok (g.tail s.core, s) := by
  have allowed : (decide (n ≤ g.slots) && !g.bound) = true := by
    rw [free, Bool.not_false, Bool.and_true, decide_eq_true_iff]; omega
  rw [ringTail, bind_ok (ringOf_apply found sound), bind_ok (get_apply s), bind_ok (guardTrap_true allowed ..),
    if_pos (show n ≤ g.slots - g.filled s.core by omega), pure_apply]

theorem exec_radvc_advances (solo : Solo s) (count : Reads a s x s1) (found : s1.ctx.rings.get h.toFin = some g)
    (sound : g.filled s1.core ≤ g.slots) (filled : x.toNat ≤ g.filled s1.core) :
    exec (.radvc h a) s = .next (retire s
      (s1.mapCtx fun k => { k with rings := k.rings.set h.toNat (some { g with cons := g.cons + x.setWidth 32 }) h.isLt }) {}) := by
  rw [exec_radvc, execRadvc]
  apply unit_ok solo
  rw [bind_ok count, bind_ok (ringOf_apply found sound), bind_ok (get_apply s1), bind_ok (guardTrap_true (decide_eq_true filled) ..),
    bind_ok (setRing_apply ..), next_apply]

theorem exec_radvp_advances (solo : Solo s) (count : Reads a s x s1) (found : s1.ctx.rings.get h.toFin = some g)
    (sound : g.filled s1.core ≤ g.slots) (free : g.bound = false) (room : g.filled s1.core + x.toNat ≤ g.slots) :
    exec (.radvp h a) s = .next (retire s
      (s1.mapCtx fun k => { k with rings := k.rings.set h.toNat (some { g with prod := g.prod + x.setWidth 32 }) h.isLt }) {}) := by
  have allowed : (!g.bound && decide (x.toNat ≤ g.slots - g.filled s1.core)) = true := by
    rw [free, Bool.not_false, Bool.true_and, decide_eq_true_iff]; omega
  rw [exec_radvp, execRadvp]
  apply unit_ok solo
  rw [bind_ok count, bind_ok (ringOf_apply found sound), bind_ok (get_apply s1), bind_ok (guardTrap_true allowed ..),
    bind_ok (setRing_apply ..), next_apply]

theorem exec_rfill_head (solo : Solo s) (count : Reads a s x s1) (found : s1.ctx.rings.get h.toFin = some g)
    (sound : g.filled s1.core ≤ g.slots) (filled : x.toNat ≤ g.filled s1.core)
    (result : Writes (.rfill d h a false) d g.head s1 s2) : exec (.rfill d h a false) s = .next (retire s s2 {}) := by
  rw [exec_rfill, execRfill]
  apply unit_ok solo
  rw [bind_ok count, if_neg Bool.false_ne_true, bind_ok (ringHead_apply found sound filled)]
  exact bind_ok result

theorem exec_rfill_tail (solo : Solo s) (count : Reads a s x s1) (found : s1.ctx.rings.get h.toFin = some g)
    (sound : g.filled s1.core ≤ g.slots) (free : g.bound = false) (room : g.filled s1.core + x.toNat ≤ g.slots)
    (result : Writes (.rfill d h a true) d (g.tail s1.core) s1 s2) : exec (.rfill d h a true) s = .next (retire s s2 {}) := by
  rw [exec_rfill, execRfill]
  apply unit_ok solo
  rw [bind_ok count, if_pos rfl, bind_ok (ringTail_apply found sound free room)]
  exact bind_ok result

/-- The tail of a ring that no counter binds stands at its own P. -/
theorem tail_of_unbound (free : g.bound = false) (c : Core) :
    g.tail c = BitVec.ofNat 64 (g.base.toNat + g.prod.toNat % g.slots * g.size) := by
  rw [Ring.tail, Ring.prodAt, free, if_neg Bool.false_ne_true]

end

/-! ## Binding a channel (R164) -/

theorem setChanM_apply (c : BitVec 3) (v : Chan) (s : State) :
    setChanM c v s = .ok ((), s.mapCtx fun k => { k with chans := k.chans.set c.toNat v c.isLt }) := rfl

/-- Two cores are of one die where bits 12 and 11 of their COREIDs agree. -/
theorem dieOf_peer_eq_iff (x : Word) (id : CoreId) : (dieOf (x.extractLsb' 0 13) == dieOf id) = true ↔ x.toNat / 2 ^ 11 % 4 = id.toNat / 2 ^ 11 := by
  rw [beq_iff_eq, ← BitVec.toNat_inj, dieOf, dieOf, BitVec.extractLsb'_toNat, BitVec.extractLsb'_toNat, BitVec.extractLsb'_toNat]
  omega

section
variable {s : State} {w x y : Word} {c : BitVec 3}

/-- A legal request for an idle end gives up what was bound and binds what it names. -/
theorem bindChan_apply (legal : y = 0 ∨ y = 1 ∨ y = 3) (die : y = 0 ∨ x.toNat / 2 ^ 11 % 4 = s.core.id.toNat / 2 ^ 11)
    (idle : (s.ctx.chans.get c.toFin).held = []) (still : s.movingFrom s.who c = 0) :
    bindChan w c x y s = setChanM c ⟨if y = 0 then none else some ⟨x.extractLsb' 0 13, x.extractLsb' 13 3, y == 3⟩, []⟩ s := by
  have codeOk : (y == 0 || y == 1 || y == 3) = true := by simpa [or_assoc] using legal
  have dieOk : (y == 0 || dieOf (x.extractLsb' 0 13) == dieOf s.core.id) = true := by
    rw [Bool.or_eq_true, beq_iff_eq, dieOf_peer_eq_iff]; exact die
  have noWait (b : Bool) : ¬(s.movingFrom s.who c != 0 && b) = true := by rw [still]; exact Bool.false_ne_true
  rw [bindChan, bind_ok (get_apply s), bind_ok (guardTrap_true codeOk ..), bind_ok (guardTrap_true dieOk ..),
    bind_ok (guardTrap_true (List.isEmpty_iff.mpr idle) ..), if_neg (noWait _)]

theorem bindChan_otherDie (legal : y = 1 ∨ y = 3) (die : x.toNat / 2 ^ 11 % 4 ≠ s.core.id.toNat / 2 ^ 11) :
    bindChan w c x y s = .error (.trap 0x0B (chanSpec c) s.ctx.pops none) := by
  have codeOk : (y == 0 || y == 1 || y == 3) = true := by obtain rfl | rfl := legal <;> rfl
  have zero : (y == 0) = false := by obtain rfl | rfl := legal <;> rfl
  have refused : (y == 0 || dieOf (x.extractLsb' 0 13) == dieOf s.core.id) = false := by
    rw [zero, Bool.false_or, Bool.eq_false_iff, ne_eq, dieOf_peer_eq_iff]; exact die
  rw [bindChan, bind_ok (get_apply s), bind_ok (guardTrap_true codeOk ..), bind_error (guardTrap_false refused ..)]

end

theorem exec_rset_chan {s s1 s2 s3 : State} {a b : Opnd} {c : BitVec 3} {x y : Word} (solo : Solo s) (peer : Reads a s x s1)
    (code : Reads b s1 y s2) (binds : bindChan (wordOf (.rset (.chan c) a b)) c x y s2 = .ok ((), s3)) :
    exec (.rset (.chan c) a b) s = .next (retire s s3 {}) := by
  rw [exec_rset, execRset]
  apply unit_ok solo
  rw [bind_ok peer, bind_ok code]
  exact bind_ok binds

theorem exec_rset_chan_otherDie {s s1 s2 : State} {a b : Opnd} {c : BitVec 3} {x y : Word} (solo : Solo s) (peer : Reads a s x s1)
    (code : Reads b s1 y s2) (legal : y = 1 ∨ y = 3) (die : x.toNat / 2 ^ 11 % 4 ≠ s2.core.id.toNat / 2 ^ 11) :
    exec (.rset (.chan c) a b) s = .next ((trapBase s s2.ctx.pops none).takeTrap 0x0B (chanSpec c)) := by
  rw [exec_rset, execRset]
  apply unit_trap solo
  rw [bind_ok peer, bind_ok code]
  exact bind_error (bindChan_otherDie legal die)

/-! ## The statement -/

/-- One bullet for each instruction of R204, R160, R158 and R161, in the order of the statement. -/
theorem countersRingsAndLinesChange : CountersRingsAndLinesChange := by
  intro s s1 s2 s3 d a b k h x y g solo first
  refine ⟨?_, fun second => ⟨?_, ?_, ?_, ?_, ?_⟩, ?_, ?_⟩
  · exact exec_ctradd_adds k solo first
  · exact exec_ctrset_sets k solo first second
  · exact exec_ctrset_badTag k solo first second
  · rintro rfl
    exact exec_rset_ring solo first second (bindRing_unbinds ..)
  · rintro ls zu rfl rfl ls1 ls8 zu1 zu64 small ctr aligned inside rfl
    have nonzero : y ≠ 0 := by rintro rfl; exact absurd ls1 (by decide)
    refine exec_rset_ring solo first second ?_
    rw [bindRing_binds nonzero (ringCfgOk_of ls1 ls8 zu1 zu64 small ctr) aligned inside, reads_counter second, reads_counter first]
    exact setRing_apply ..
  · rintro n rfl inside aligned
    have lines (full : Bool) {j : Nat} (hj : j < 384) := setLines_getLsbD s2.core full (x.toNat / 128) y.toNat hj
    rw [reads_full second, reads_full first] at lines
    exact ⟨_, _, fun j => lines true, fun j => lines false, exec_lfull.trans (unit_ok solo (lineOp_apply true first second inside aligned)),
      exec_lempty.trans (unit_ok solo (lineOp_apply false first second inside aligned))⟩
  · exact exec_ltest_tests solo first
  · rintro w n found sound rfl
    refine ⟨exec_radvc_advances solo first found sound, exec_radvp_advances solo first found sound, ?_, ?_⟩
    · rintro filled rfl result
      exact exec_rfill_head solo first found sound filled result
    · rintro free room rfl result
      rw [← tail_of_unbound free s1.core] at result
      exact exec_rfill_tail solo first found sound free room result

theorem channelsAreBound : ChannelsAreBound := by
  intro s s1 s2 c a b x y solo first second idle still
  have sameDie : s2.core.id = s.core.id := (reads_coreId second).trans (reads_coreId first)
  rw [← sameDie]
  refine ⟨?_, fun legal die => ?_, exec_rset_chan_otherDie solo first second⟩
  · rintro rfl
    exact exec_rset_chan solo first second (bindChan_apply (.inl rfl) (.inl rfl) idle still)
  · have nonzero : y ≠ 0 := by obtain rfl | rfl := legal <;> decide
    refine exec_rset_chan solo first second ?_
    rw [bindChan_apply (.inr legal) (.inr die) idle still, if_neg nonzero]
    exact setChanM_apply ..

/-- Settles O19: the instructions of R158 to R161 and R204, and the channel ends of R164. -/
theorem countersRingsLinesAndChannels : Obligations.CountersRingsLinesAndChannels :=
  ⟨countersRingsAndLinesChange, channelsAreBound⟩

end Sys2Proof.Proofs
end
